-- ==== Sys2Proof/Word.lean ====
section
/-! DEFINITION. Word.lean: the word types of the Lyusk L9 and their plainest names (R1, R3, R181). -/

namespace Sys2Proof

/-- One byte of memory. -/
abbrev Byte := BitVec 8

/-- A 16-bit value: an SC16 block scale, a BF16 or FP16 element, a tag. -/
abbrev Half := BitVec 16

/-- A 32-bit value: a vector lane, an accumulator word, an instruction word. -/
abbrev Word := BitVec 32

/-- A 64-bit value: an X register, a special register, a queue register entry. -/
abbrev DWord := BitVec 64

/-- A 128-bit bundle (R47). -/
abbrev Bundle := BitVec 128

/-- A register number of X0 to X31 (R54). -/
abbrev XReg := BitVec 5

/-- A guard slot number P0 to P15 (R52). -/
abbrev Guard := BitVec 4

/-- A 16-bit context identity (R80). -/
abbrev CtxId := BitVec 16

end Sys2Proof
end

