-- ==== Sys2Proof/Syntax.lean ====
section
/-! DEFINITION. Syntax.lean: the operand forms of the slot words, the operands of the device's events, and
Instr, one constructor per row of the opcode table (R54 to R69, and the steps of the table without an encoding). -/

namespace Sys2Proof

/-- The three engines of a core that execute queued commands (R133). -/
inductive Eng where
  | v | m | c
deriving DecidableEq, Repr

/-- The four slots of a bundle (R47). -/
inductive Slot where
  | s | v | m | c
deriving DecidableEq, Repr

/-- The conversion modes of R30; codes 5 to 7 do not decode. -/
inductive RMode where
  | rne | rtz | rdn | rup | sat
deriving DecidableEq, Repr

/-- A source operand code of the V slot (R63). Queue codes 0x28 to 0x2B name Q8 to Q11. -/
inductive VSrc where
  | v (k : BitVec 4) | o (k : BitVec 4) | lrl | zero | laneid | q (k : BitVec 2)
deriving DecidableEq, Repr

/-- A destination operand code of the V slot (R63). Queue codes 0x28 to 0x2B name Q0 to Q3. -/
inductive VDst where
  | v (k : BitVec 4) | o (k : BitVec 4) | lrl | q (k : BitVec 2)
deriving DecidableEq, Repr

/-- The block sizes of R193. -/
inductive BlkG where
  | g16 | g32 | g64
deriving DecidableEq, Repr

/-- The resolution modes of `vgset` (R144). -/
inductive GsetMode where
  | any | all | lane0
deriving DecidableEq, Repr

/-- The A operand of `mma` (R66): a layout record or a generator. -/
inductive ASrc where
  | ly (n : BitVec 3) | gn (n : BitVec 3)
deriving DecidableEq, Repr

/-- The B operand of `mma` (R66): a B descriptor or a generator. -/
inductive BSrc where
  | bd (n : BitVec 3) | gn (n : BitVec 3)
deriving DecidableEq, Repr

/-- A barrier select that names a barrier (R244): its count and its queue register. -/
structure BarSel where
  /-- false INBOUND, true OUTBOUND -/
  outbound : Bool
  /-- false Q14, true Q15 -/
  q15 : Bool
deriving DecidableEq, Repr

/-- The special registers of R58. -/
inductive SReg where
  | pc | sp | sbase | slimit | tvec | tpc | tcause | tinfo | tqueue | tseq | aflags | afmask | loopst | sloopst | saflags
  | l0s | l0e | l0c | l1s | l1e | l1c | sl0s | sl0e | sl0c | sl1s | sl1e | sl1c | lidx | ncore
  | lix (k : BitVec 3)
  | tag | stage | wver | wbase | ctxid | prio | seed | slipmax | lrun
deriving DecidableEq, Repr

/-- A Culvert message (R355): the sender's coordinates and package endpoint, its sequence number and tag, and the
slot's bytes. -/
structure CulvertMsg where
  fromCoord : BitVec 22
  fromCh : BitVec 5
  seq : Word
  tag : Half
  bytes : List Byte
deriving DecidableEq, Repr

/-- A receiver's answer to a Culvert delivery (R352, R355): the sender's endpoint, and whether the delivery is refused. -/
structure CulvertAnswer where
  ch : BitVec 5
  refused : Bool
deriving DecidableEq, Repr

/-- A queue-pair delivery (R368): where it comes from (PEER layout of R367 as the receiver would write it), the
sending and receiving package queue pairs, its sequence number and the fields of its work descriptor. -/
structure QpMsg where
  /-- sender's coordinates (21:0), PATH (24), the receiving port (25), laid out as PEER of R366 -/
  peer : BitVec 26
  sqp : BitVec 12
  rqp : BitVec 12
  seq : Word
  dst : DWord
  /-- RCEN and RCN -/
  rcn : Option (BitVec 12)
  /-- true for a `cputred` delivery -/
  red : Bool
  /-- ROP: false FP32 add, true BF16 add -/
  bf16 : Bool
  bytes : List Byte
deriving DecidableEq, Repr

/-- What the management microcontroller measures at an evaluation (R459). -/
structure PowerSample where
  pkgW : Half
  modW : Half
  die0 : Byte
  die1 : Byte
  hbm : Byte
  inlet : Byte
deriving DecidableEq, Repr

/-- What a reset meets on its way through the phases of R454: whether each signature is valid, the version of the
firmware image (R456), whether each training succeeds, and which ports begin to train. -/
structure BootInput where
  firmwareOk : Bool
  imageVersion : DWord
  configOk : Bool
  layoutKnown : Bool
  memoryTrained : Bool
  sclTrained : Bool
  ports : BitVec 10
deriving DecidableEq, Repr

/-- A host access over SCL (R131): a write of bytes or a read of a length. -/
inductive HostData where
  | write (bytes : List Byte)
  | read (len : Nat)
deriving DecidableEq, Repr

/-- The instructions and events of the opcode table: the words of V, M and C, the words of S, the events. An encoded word is a constructor with its operand fields; an
event is a constructor with what identifies it (a core's logical index, a port, a message). -/
inductive Instr where
  /-- `vadd.f32` (R185). FP32 add per lane. -/
  | vaddF32 (rl : Bool) (d : VDst) (a b : VSrc) (g : Guard)
  /-- `vsub.f32` (R185). FP32 subtract per lane. -/
  | vsubF32 (rl : Bool) (d : VDst) (a b : VSrc) (g : Guard)
  /-- `vmul.f32` (R185). FP32 multiply per lane. -/
  | vmulF32 (rl : Bool) (d : VDst) (a b : VSrc) (g : Guard)
  /-- `vmax.f32` (R185). FP32 total-order maximum per lane. -/
  | vmaxF32 (rl : Bool) (d : VDst) (a b : VSrc) (g : Guard)
  /-- `vmin.f32` (R185). FP32 total-order minimum per lane. -/
  | vminF32 (rl : Bool) (d : VDst) (a b : VSrc) (g : Guard)
  /-- `vabs.f32` (R185). FP32 sign clear per lane. -/
  | vabsF32 (rl : Bool) (d : VDst) (a : VSrc) (g : Guard)
  /-- `vneg.f32` (R185). FP32 sign inversion per lane. -/
  | vnegF32 (rl : Bool) (d : VDst) (a : VSrc) (g : Guard)
  /-- `vadd.bf16` (R185). BF16 add per element. -/
  | vaddBf16 (rl : Bool) (d : VDst) (a b : VSrc) (g : Guard)
  /-- `vsub.bf16` (R185). BF16 subtract per element. -/
  | vsubBf16 (rl : Bool) (d : VDst) (a b : VSrc) (g : Guard)
  /-- `vmul.bf16` (R185). BF16 multiply per element. -/
  | vmulBf16 (rl : Bool) (d : VDst) (a b : VSrc) (g : Guard)
  /-- `vmax.bf16` (R185). BF16 total-order maximum. -/
  | vmaxBf16 (rl : Bool) (d : VDst) (a b : VSrc) (g : Guard)
  /-- `vmin.bf16` (R185). BF16 total-order minimum. -/
  | vminBf16 (rl : Bool) (d : VDst) (a b : VSrc) (g : Guard)
  /-- `vabs.bf16` (R185). BF16 sign clear. -/
  | vabsBf16 (rl : Bool) (d : VDst) (a : VSrc) (g : Guard)
  /-- `vneg.bf16` (R185). BF16 sign inversion. -/
  | vnegBf16 (rl : Bool) (d : VDst) (a : VSrc) (g : Guard)
  /-- `vadd.f16` (R185). FP16 add per element. -/
  | vaddF16 (rl : Bool) (d : VDst) (a b : VSrc) (g : Guard)
  /-- `vsub.f16` (R185). FP16 subtract per element. -/
  | vsubF16 (rl : Bool) (d : VDst) (a b : VSrc) (g : Guard)
  /-- `vmul.f16` (R185). FP16 multiply per element. -/
  | vmulF16 (rl : Bool) (d : VDst) (a b : VSrc) (g : Guard)
  /-- `vmax.f16` (R185). FP16 total-order maximum. -/
  | vmaxF16 (rl : Bool) (d : VDst) (a b : VSrc) (g : Guard)
  /-- `vmin.f16` (R185). FP16 total-order minimum. -/
  | vminF16 (rl : Bool) (d : VDst) (a b : VSrc) (g : Guard)
  /-- `vabs.f16` (R185). FP16 sign clear. -/
  | vabsF16 (rl : Bool) (d : VDst) (a : VSrc) (g : Guard)
  /-- `vneg.f16` (R185). FP16 sign inversion. -/
  | vnegF16 (rl : Bool) (d : VDst) (a : VSrc) (g : Guard)
  /-- `vfma.f32` (R186). FP32 fused a*b + d. -/
  | vfmaF32 (rl : Bool) (d : VDst) (a b : VSrc) (g : Guard)
  /-- `vfms.f32` (R186). FP32 fused a*b - d. -/
  | vfmsF32 (rl : Bool) (d : VDst) (a b : VSrc) (g : Guard)
  /-- `vfnma.f32` (R186). FP32 fused -(a*b) - d. -/
  | vfnmaF32 (rl : Bool) (d : VDst) (a b : VSrc) (g : Guard)
  /-- `vfnms.f32` (R186). FP32 fused -(a*b) + d. -/
  | vfnmsF32 (rl : Bool) (d : VDst) (a b : VSrc) (g : Guard)
  /-- `vfma.bf16` (R186). BF16 fused a*b + d. -/
  | vfmaBf16 (rl : Bool) (d : VDst) (a b : VSrc) (g : Guard)
  /-- `vfms.bf16` (R186). BF16 fused a*b - d. -/
  | vfmsBf16 (rl : Bool) (d : VDst) (a b : VSrc) (g : Guard)
  /-- `vfnma.bf16` (R186). BF16 fused -(a*b) - d. -/
  | vfnmaBf16 (rl : Bool) (d : VDst) (a b : VSrc) (g : Guard)
  /-- `vfnms.bf16` (R186). BF16 fused -(a*b) + d. -/
  | vfnmsBf16 (rl : Bool) (d : VDst) (a b : VSrc) (g : Guard)
  /-- `vfma.f16` (R186). FP16 fused a*b + d. -/
  | vfmaF16 (rl : Bool) (d : VDst) (a b : VSrc) (g : Guard)
  /-- `vfms.f16` (R186). FP16 fused a*b - d. -/
  | vfmsF16 (rl : Bool) (d : VDst) (a b : VSrc) (g : Guard)
  /-- `vfnma.f16` (R186). FP16 fused -(a*b) - d. -/
  | vfnmaF16 (rl : Bool) (d : VDst) (a b : VSrc) (g : Guard)
  /-- `vfnms.f16` (R186). FP16 fused -(a*b) + d. -/
  | vfnmsF16 (rl : Bool) (d : VDst) (a b : VSrc) (g : Guard)
  /-- `vadd.i32` (R187). INT32 wrapping add. -/
  | vaddI32 (rl : Bool) (d : VDst) (a b : VSrc) (g : Guard)
  /-- `vsub.i32` (R187). INT32 wrapping subtract. -/
  | vsubI32 (rl : Bool) (d : VDst) (a b : VSrc) (g : Guard)
  /-- `vmul.i32` (R187). INT32 wrapping multiply. -/
  | vmulI32 (rl : Bool) (d : VDst) (a b : VSrc) (g : Guard)
  /-- `vmulh.i32` (R187). INT32 signed high product. -/
  | vmulhI32 (rl : Bool) (d : VDst) (a b : VSrc) (g : Guard)
  /-- `vmin.i32` (R187). INT32 signed minimum. -/
  | vminI32 (rl : Bool) (d : VDst) (a b : VSrc) (g : Guard)
  /-- `vmax.i32` (R187). INT32 signed maximum. -/
  | vmaxI32 (rl : Bool) (d : VDst) (a b : VSrc) (g : Guard)
  /-- `vminu.i32` (R187). 32-bit unsigned minimum. -/
  | vminuI32 (rl : Bool) (d : VDst) (a b : VSrc) (g : Guard)
  /-- `vmaxu.i32` (R187). 32-bit unsigned maximum. -/
  | vmaxuI32 (rl : Bool) (d : VDst) (a b : VSrc) (g : Guard)
  /-- `vadds.i32` (R187). INT32 saturating add. -/
  | vaddsI32 (rl : Bool) (d : VDst) (a b : VSrc) (g : Guard)
  /-- `vsubs.i32` (R187). INT32 saturating subtract. -/
  | vsubsI32 (rl : Bool) (d : VDst) (a b : VSrc) (g : Guard)
  /-- `vabs.i32` (R187). INT32 wrapping absolute value. -/
  | vabsI32 (rl : Bool) (d : VDst) (a : VSrc) (g : Guard)
  /-- `vneg.i32` (R187). INT32 wrapping negation. -/
  | vnegI32 (rl : Bool) (d : VDst) (a : VSrc) (g : Guard)
  /-- `vadd.i16` (R187). INT16 wrapping add. -/
  | vaddI16 (rl : Bool) (d : VDst) (a b : VSrc) (g : Guard)
  /-- `vsub.i16` (R187). INT16 wrapping subtract. -/
  | vsubI16 (rl : Bool) (d : VDst) (a b : VSrc) (g : Guard)
  /-- `vmul.i16` (R187). INT16 wrapping multiply. -/
  | vmulI16 (rl : Bool) (d : VDst) (a b : VSrc) (g : Guard)
  /-- `vmulh.i16` (R187). INT16 signed high product. -/
  | vmulhI16 (rl : Bool) (d : VDst) (a b : VSrc) (g : Guard)
  /-- `vmin.i16` (R187). INT16 signed minimum. -/
  | vminI16 (rl : Bool) (d : VDst) (a b : VSrc) (g : Guard)
  /-- `vmax.i16` (R187). INT16 signed maximum. -/
  | vmaxI16 (rl : Bool) (d : VDst) (a b : VSrc) (g : Guard)
  /-- `vminu.i16` (R187). 16-bit unsigned minimum. -/
  | vminuI16 (rl : Bool) (d : VDst) (a b : VSrc) (g : Guard)
  /-- `vmaxu.i16` (R187). 16-bit unsigned maximum. -/
  | vmaxuI16 (rl : Bool) (d : VDst) (a b : VSrc) (g : Guard)
  /-- `vadds.i16` (R187). INT16 saturating add. -/
  | vaddsI16 (rl : Bool) (d : VDst) (a b : VSrc) (g : Guard)
  /-- `vsubs.i16` (R187). INT16 saturating subtract. -/
  | vsubsI16 (rl : Bool) (d : VDst) (a b : VSrc) (g : Guard)
  /-- `vabs.i16` (R187). INT16 wrapping absolute value. -/
  | vabsI16 (rl : Bool) (d : VDst) (a : VSrc) (g : Guard)
  /-- `vneg.i16` (R187). INT16 wrapping negation. -/
  | vnegI16 (rl : Bool) (d : VDst) (a : VSrc) (g : Guard)
  /-- `vand` (R188). Lane-wise AND. -/
  | vand (rl : Bool) (d : VDst) (a b : VSrc) (g : Guard)
  /-- `vor` (R188). Lane-wise OR. -/
  | vor (rl : Bool) (d : VDst) (a b : VSrc) (g : Guard)
  /-- `vxor` (R188). Lane-wise XOR. -/
  | vxor (rl : Bool) (d : VDst) (a b : VSrc) (g : Guard)
  /-- `vandn` (R188). Lane-wise a AND NOT b. -/
  | vandn (rl : Bool) (d : VDst) (a b : VSrc) (g : Guard)
  /-- `vnot` (R188). Lane-wise NOT. -/
  | vnot (rl : Bool) (d : VDst) (a : VSrc) (g : Guard)
  /-- `vshl` (R188). Lane-wise left shift. -/
  | vshl (rl : Bool) (d : VDst) (a b : VSrc) (g : Guard)
  /-- `vshr` (R188). Lane-wise logical right shift. -/
  | vshr (rl : Bool) (d : VDst) (a b : VSrc) (g : Guard)
  /-- `vsra` (R188). Lane-wise arithmetic right shift. -/
  | vsra (rl : Bool) (d : VDst) (a b : VSrc) (g : Guard)
  /-- `vceq.f32` (R189). Quiet FP32 equal compare to a lane mask. -/
  | vceqF32 (rl : Bool) (d : VDst) (a b : VSrc) (g : Guard)
  /-- `vcne.f32` (R189). Quiet FP32 not-equal compare. -/
  | vcneF32 (rl : Bool) (d : VDst) (a b : VSrc) (g : Guard)
  /-- `vclt.f32` (R189). Quiet FP32 less-than compare. -/
  | vcltF32 (rl : Bool) (d : VDst) (a b : VSrc) (g : Guard)
  /-- `vcle.f32` (R189). Quiet FP32 less-or-equal compare. -/
  | vcleF32 (rl : Bool) (d : VDst) (a b : VSrc) (g : Guard)
  /-- `vceq.i32` (R189). INT32 equal compare. -/
  | vceqI32 (rl : Bool) (d : VDst) (a b : VSrc) (g : Guard)
  /-- `vcne.i32` (R189). INT32 not-equal compare. -/
  | vcneI32 (rl : Bool) (d : VDst) (a b : VSrc) (g : Guard)
  /-- `vclt.i32` (R189). INT32 signed less-than compare. -/
  | vcltI32 (rl : Bool) (d : VDst) (a b : VSrc) (g : Guard)
  /-- `vcle.i32` (R189). INT32 signed less-or-equal compare. -/
  | vcleI32 (rl : Bool) (d : VDst) (a b : VSrc) (g : Guard)
  /-- `vclt.ui32` (R189). Unsigned less-than compare. -/
  | vcltUi32 (rl : Bool) (d : VDst) (a b : VSrc) (g : Guard)
  /-- `vcle.ui32` (R189). Unsigned less-or-equal compare. -/
  | vcleUi32 (rl : Bool) (d : VDst) (a b : VSrc) (g : Guard)
  /-- `vsel` (R190). Selects a or b per lane by the mask in d. -/
  | vsel (rl : Bool) (d : VDst) (a b : VSrc) (g : Guard)
  /-- `vcvt.bf16.f32` (R191). Converts FP32 lanes to a BF16 part under the mode. -/
  | vcvtBf16F32 (rl : Bool) (d : VDst) (a : VSrc) (part : BitVec 3) (mode : RMode) (g : Guard)
  /-- `vcvt.f16.f32` (R191). Converts FP32 lanes to an FP16 part. -/
  | vcvtF16F32 (rl : Bool) (d : VDst) (a : VSrc) (part : BitVec 3) (mode : RMode) (g : Guard)
  /-- `vcvt.f32.bf16` (R191). Widens a BF16 part to FP32, exactly. -/
  | vcvtF32Bf16 (rl : Bool) (d : VDst) (a : VSrc) (part : BitVec 3) (mode : RMode) (g : Guard)
  /-- `vcvt.f32.f16` (R191). Widens an FP16 part to FP32, exactly. -/
  | vcvtF32F16 (rl : Bool) (d : VDst) (a : VSrc) (part : BitVec 3) (mode : RMode) (g : Guard)
  /-- `vcvt.i32.f32` (R191). Converts FP32 to INT32 with clamping. -/
  | vcvtI32F32 (rl : Bool) (d : VDst) (a : VSrc) (part : BitVec 3) (mode : RMode) (g : Guard)
  /-- `vcvt.f32.i32` (R191). Converts INT32 to FP32. -/
  | vcvtF32I32 (rl : Bool) (d : VDst) (a : VSrc) (part : BitVec 3) (mode : RMode) (g : Guard)
  /-- `vcvt.ui32.f32` (R191). Converts FP32 to UINT32 with clamping. -/
  | vcvtUi32F32 (rl : Bool) (d : VDst) (a : VSrc) (part : BitVec 3) (mode : RMode) (g : Guard)
  /-- `vcvt.f32.ui32` (R191). Converts UINT32 to FP32. -/
  | vcvtF32Ui32 (rl : Bool) (d : VDst) (a : VSrc) (part : BitVec 3) (mode : RMode) (g : Guard)
  /-- `vcvt.e4.f32` (R191). Converts FP32 lanes to an FP8 E4M3 part. -/
  | vcvtE4F32 (rl : Bool) (d : VDst) (a : VSrc) (part : BitVec 3) (mode : RMode) (g : Guard)
  /-- `vcvt.e5.f32` (R191). Converts FP32 lanes to an FP8 E5M2 part. -/
  | vcvtE5F32 (rl : Bool) (d : VDst) (a : VSrc) (part : BitVec 3) (mode : RMode) (g : Guard)
  /-- `vcvt.f32.e4` (R191). Widens an FP8 E4M3 part to FP32, exactly. -/
  | vcvtF32E4 (rl : Bool) (d : VDst) (a : VSrc) (part : BitVec 3) (mode : RMode) (g : Guard)
  /-- `vcvt.f32.e5` (R191). Widens an FP8 E5M2 part to FP32, exactly. -/
  | vcvtF32E5 (rl : Bool) (d : VDst) (a : VSrc) (part : BitVec 3) (mode : RMode) (g : Guard)
  /-- `vcvt.f4.f32` (R191). Converts FP32 lanes to an FP4 E2M1 part. -/
  | vcvtF4F32 (rl : Bool) (d : VDst) (a : VSrc) (part : BitVec 3) (mode : RMode) (g : Guard)
  /-- `vcvt.f32.f4` (R191). Widens an FP4 E2M1 part to FP32, exactly. -/
  | vcvtF32F4 (rl : Bool) (d : VDst) (a : VSrc) (part : BitVec 3) (mode : RMode) (g : Guard)
  /-- `vcvt.i8.i32` (R191). Clamps INT32 lanes into an INT8 part. -/
  | vcvtI8I32 (rl : Bool) (d : VDst) (a : VSrc) (part : BitVec 3) (mode : RMode) (g : Guard)
  /-- `vcvt.i16.i32` (R191). Clamps INT32 lanes into an INT16 part. -/
  | vcvtI16I32 (rl : Bool) (d : VDst) (a : VSrc) (part : BitVec 3) (mode : RMode) (g : Guard)
  /-- `vamax` (R192). Raises MXn to the greatest lane magnitude. -/
  | vamax (n : BitVec 2) (a : VSrc) (g : Guard)
  /-- `vamaxr` (R192). Broadcasts MXn to d and resets MXn to +0. -/
  | vamaxr (d : VDst) (n : BitVec 2) (g : Guard)
  /-- `vquant.e4` (R193). Quantises FP32 lanes to FP8 E4M3 with block scales. -/
  | vquantE4 (d : VDst) (a : VSrc) (bs : BlkG) (g : Guard)
  /-- `vquant.e5` (R193). Quantises FP32 lanes to FP8 E5M2 with block scales. -/
  | vquantE5 (d : VDst) (a : VSrc) (bs : BlkG) (g : Guard)
  /-- `vquant.f4` (R193). Quantises FP32 lanes to FP4 E2M1 with block scales. -/
  | vquantF4 (d : VDst) (a : VSrc) (bs : BlkG) (g : Guard)
  /-- `vdeq.e4` (R194). Dequantises an E4M3 quantised register to FP32. -/
  | vdeqE4 (d : VDst) (a : VSrc) (bs : BlkG) (g : Guard)
  /-- `vdeq.e5` (R194). Dequantises an E5M2 quantised register to FP32. -/
  | vdeqE5 (d : VDst) (a : VSrc) (bs : BlkG) (g : Guard)
  /-- `vdeq.f4` (R194). Dequantises an FP4 quantised register to FP32. -/
  | vdeqF4 (d : VDst) (a : VSrc) (bs : BlkG) (g : Guard)
  /-- `vrsum.f32` (R195). Pairwise-tree FP32 sum of the lanes. -/
  | vrsumF32 (d : VDst) (a : VSrc) (g : Guard)
  /-- `vrmax.f32` (R195). Total-order FP32 maximum of the lanes. -/
  | vrmaxF32 (d : VDst) (a : VSrc) (g : Guard)
  /-- `vrmin.f32` (R195). Total-order FP32 minimum of the lanes. -/
  | vrminF32 (d : VDst) (a : VSrc) (g : Guard)
  /-- `vrsum.i32` (R195). Wrapping INT32 sum of the lanes. -/
  | vrsumI32 (d : VDst) (a : VSrc) (g : Guard)
  /-- `vrmax.i32` (R195). Signed INT32 maximum of the lanes. -/
  | vrmaxI32 (d : VDst) (a : VSrc) (g : Guard)
  /-- `vrmin.i32` (R195). Signed INT32 minimum of the lanes. -/
  | vrminI32 (d : VDst) (a : VSrc) (g : Guard)
  /-- `vperm` (R196). Permutes lanes of a by the indices in b. -/
  | vperm (rl : Bool) (d : VDst) (a b : VSrc) (g : Guard)
  /-- `vbcast` (R196). Broadcasts lane n of a. -/
  | vbcast (rl : Bool) (d : VDst) (a : VSrc) (n : BitVec 6) (g : Guard)
  /-- `vext` (R196). Shifts lanes down by n with zero fill. -/
  | vext (rl : Bool) (d : VDst) (a : VSrc) (n : BitVec 6) (g : Guard)
  /-- `vins` (R196). Inserts lane 0 of a into lane n of d. -/
  | vins (rl : Bool) (d : VDst) (a : VSrc) (n : BitVec 6) (g : Guard)
  /-- `vmov` (R197). Copies a register bit for bit. -/
  | vmov (d : VDst) (a : VSrc) (g : Guard)
  /-- `vsetview` (R197). Sets VVIEW.BASE from lane 0 of a. -/
  | vsetview (a : VSrc) (g : Guard)
  /-- `vsetwview` (R197). Sets WVIEW.BASE from lane 0 of a. -/
  | vsetwview (a : VSrc) (g : Guard)
  /-- `vgetview` (R197). Writes the view bases to every lane. -/
  | vgetview (d : VDst) (g : Guard)
  /-- `vld` (R198). Loads 256 bytes from XS through a layout record. -/
  | vld (rl : Bool) (d : VDst) (n : BitVec 3) (k : BitVec 6) (g : Guard)
  /-- `vld.w` (R198). Loads 1,024 bytes from XS into a W register. -/
  | vldW (rl : Bool) (w : BitVec 2) (n : BitVec 3) (k : BitVec 6) (g : Guard)
  /-- `vst` (R198). Stores 256 bytes to XS through a layout record. -/
  | vst (rl : Bool) (n : BitVec 3) (a : VSrc) (k : BitVec 6) (g : Guard)
  /-- `vst.w` (R198). Stores a W register's 1,024 bytes to XS. -/
  | vstW (rl : Bool) (n : BitVec 3) (w : BitVec 2) (k : BitVec 6) (g : Guard)
  /-- `vlds` (R199). Strided load of 64 words from XS. -/
  | vlds (rl : Bool) (d : VDst) (n : BitVec 3) (k : BitVec 6) (g : Guard)
  /-- `vsts` (R199). Strided store of 64 words to XS. -/
  | vsts (rl : Bool) (n : BitVec 3) (a : VSrc) (k : BitVec 6) (g : Guard)
  /-- `vgath` (R200). Gathers 64 words from XS by element indices. -/
  | vgath (rl : Bool) (d : VDst) (n : BitVec 3) (b : VSrc) (g : Guard)
  /-- `vscat` (R200). Scatters 64 words to XS by element indices. -/
  | vscat (rl : Bool) (n : BitVec 3) (a b : VSrc) (g : Guard)
  /-- `vcpush` (R201). Appends the selected lanes to the conditional-stream buffer. -/
  | vcpush (a b : VSrc) (g : Guard)
  /-- `vcpop` (R201). Removes up to 64 records from the conditional-stream buffer. -/
  | vcpop (d : VDst) (g : Guard)
  /-- `vccnt` (R201). Writes the conditional-stream count to every lane. -/
  | vccnt (d : VDst) (g : Guard)
  /-- `vimm` (R202). Writes a 16-bit immediate to both halves of every lane. -/
  | vimm (fmt : BitVec 2) (d : VDst) (imm : Half) (g : BitVec 2)
  /-- `vxexp` (R203). Extracts the unbiased exponent of each lane. -/
  | vxexp (d : VDst) (a : VSrc) (g : Guard)
  /-- `vxmant` (R203). Extracts the significand of each lane into [1, 2). -/
  | vxmant (d : VDst) (a : VSrc) (g : Guard)
  /-- `vldexp` (R203). Scales each lane by 2 to the power of an INT32 lane. -/
  | vldexp (d : VDst) (a b : VSrc) (g : Guard)
  /-- `vacc.rd` (R204). Copies an accumulator row into a register. -/
  | vaccRd (d : VDst) (t : BitVec 3) (row : BitVec 6) (g : Guard)
  /-- `vacc.wr` (R204). Copies a register into an accumulator row. -/
  | vaccWr (t : BitVec 3) (a : VSrc) (row : BitVec 6) (g : Guard)
  /-- `vheapm` (R434). Merges the heaps of two sets of row records. -/
  | vheapm (d a b : BitVec 3) (g : Guard)
  /-- `vnormm` (R434). Merges the normalisers and label logits of two sets of row records. -/
  | vnormm (d a b : BitVec 3) (g : Guard)
  /-- `vsig` (R151). Signals a local or remote flag by 1 from the V queue. -/
  | vsig (f : BitVec 5) (ofs : Option (BitVec 7)) (g : Guard)
  /-- `vwait` (R151). Waits in the V queue for a flag and takes 1. -/
  | vwait (f : BitVec 5) (g : Guard)
  /-- `vgset` (R144). Resolves an OPEN guard pair from a vector test. -/
  | vgset (mode : GsetMode) (n : Guard) (a : VSrc) (g : Guard)
  /-- `mma` (R237). Folds A times B into an accumulator tile under a numerics profile. -/
  | mma (t : BitVec 3) (a : ASrc) (b : BSrc) (prof : BitVec 4) (zf ta tb : Bool) (pl : BitVec 4) (g : Guard)
  /-- `mzero` (R240). Clears the named accumulator tiles. -/
  | mzero (mask : BitVec 8) (g : Guard)
  /-- `mvp.begin` (R429). Binds the projection unit from a descriptor, labels and records. -/
  | mvpBegin (a w : BitVec 3) (prof : BitVec 4) (q13 : Bool) (g : Guard)
  /-- `mvp.tile` (R430). Computes one block of logits and feeds it to heaps, normalisers and label logits. -/
  | mvpTile (t : BitVec 3) (g : Guard)
  /-- `mvp.end` (R431). Writes the row records and unbinds the projection unit. -/
  | mvpEnd (g : Guard)
  /-- `mvp.end.drop` (R431). Unbinds the projection unit without writing records. -/
  | mvpEndDrop (g : Guard)
  /-- `mvp.regen` (R432). Recomputes a block of logits and forms the softmax gradient in a tile. -/
  | mvpRegen (t r : BitVec 3) (q13 : Bool) (g : Guard)
  /-- `mrel` (R241). Ends the core's lease once earlier array commands have started. -/
  | mrel (g : Guard)
  /-- `msig` (R242). Signals a flag by 1 from the M queue after earlier M commands complete. -/
  | msig (f : BitVec 5) (ofs : Option (BitVec 7)) (g : Guard)
  /-- `mwait` (R242). Waits in the M queue for a flag and takes 1. -/
  | mwait (f : BitVec 5) (g : Guard)
  /-- `ccopy` (R250). Copies raw elements between records in chunks. -/
  | ccopy (rl : Bool) (d a : BitVec 3) (b : Option BarSel) (g : Guard)
  /-- `cplane` (R253). Writes a plane image into WS from a source record. -/
  | cplane (rl : Bool) (d a : BitVec 3) (b : Option BarSel) (g : Guard)
  /-- `cconv` (R252). Converts elements between formats under a mode. -/
  | cconv (rl : Bool) (d a : BitVec 3) (b : Option BarSel) (mode : RMode) (g : Guard)
  /-- `cgath` (R254). Gathers elements through an index list. -/
  | cgath (rl : Bool) (d a : BitVec 3) (b : Option BarSel) (idx : BitVec 3) (g : Guard)
  /-- `cscat` (R254). Scatters elements through an index list. -/
  | cscat (rl : Bool) (d a : BitVec 3) (b : Option BarSel) (idx : BitVec 3) (g : Guard)
  /-- `cfill` (R255). Fills a record with a value popped from Q14 or Q15. -/
  | cfill (rl : Bool) (d : BitVec 3) (b : Option BarSel) (q15 : Bool) (g : Guard)
  /-- `cdrain` (R256). Writes an accumulator tile to a record with rounding. -/
  | cdrain (rl : Bool) (d : BitVec 3) (t : BitVec 3) (b : Option BarSel) (int : Bool) (mode : RMode) (g : Guard)
  /-- `ctxb` (R259). Opens a transaction group in the C queue. -/
  | ctxb (g : Guard)
  /-- `ctxe` (R261). Checks and commits a transaction group's staged writes as one act. -/
  | ctxe (g : Guard)
  /-- `cput` (R374). Posts a one-sided put entry to a queue pair. -/
  | cput (q15 : Bool) (g : Guard)
  /-- `cput.nf` (R374). Posts a put entry without waiting for earlier writes. -/
  | cputNf (q15 : Bool) (g : Guard)
  /-- `cputred` (R374). Posts a reducing put entry to a queue pair. -/
  | cputred (q15 : Bool) (g : Guard)
  /-- `cputred.nf` (R374). Posts a reducing put entry without waiting for earlier writes. -/
  | cputredNf (q15 : Bool) (g : Guard)
  /-- `carm` (R375). Arms a watch that signals a flag when a counter reaches a threshold. -/
  | carm (g : Guard)
  /-- `cadd` (R376). Releases and adds to a counter. -/
  | cadd (q15 : Bool) (g : Guard)
  /-- `cadd.nf` (R376). Adds to a counter without waiting for earlier writes. -/
  | caddNf (q15 : Bool) (g : Guard)
  /-- `csend` (R355). Sends a record's walk into the next slot of a Culvert channel. -/
  | csend (ch : BitVec 5) (n : BitVec 3) (g : Guard)
  /-- `crecv` (R356). Takes the next FILLED slot of a channel and pushes its tag and index. -/
  | crecv (ch : BitVec 5) (q7 : Bool) (g : Guard)
  /-- `crel` (R357). Releases the oldest HELD slot and advances the sender's window. -/
  | crel (ch : BitVec 5) (g : Guard)
  /-- `cstash` (R406). Places a record's walk into a Grotto stash entry. -/
  | cstash (n : BitVec 3) (slot : BitVec 4) (rc : Bool) (g : Guard)
  /-- `cfetch` (R407). Copies a stash entry out or reports RECOMPUTE. -/
  | cfetch (n : BitVec 3) (slot : BitVec 4) (q7 : Bool) (g : Guard)
  /-- `cdrop` (R408). Releases a stash entry. -/
  | cdrop (slot : BitVec 4) (g : Guard)
  /-- `cpref` (R408). Requests prefetch of the SPILLED entries of a stage and tag. -/
  | cpref (q15 : Bool) (g : Guard)
  /-- `csig` (R151). Releases and signals a flag by 1 from the C queue. -/
  | csig (f : BitVec 5) (ofs : Option (BitVec 7)) (g : Guard)
  /-- `csig.nf` (R151). Signals a flag from the C queue without waiting for earlier writes. -/
  | csigNf (f : BitVec 5) (ofs : Option (BitVec 7)) (g : Guard)
  /-- `cwait` (R151). Waits in the C queue for a flag and takes 1. -/
  | cwait (f : BitVec 5) (g : Guard)
  /-- `cfence` (R263). Holds the C queue until every earlier C command has completed. -/
  | cfence (g : Guard)
  /-- `nop` (R177). S-slot no-operation; an all-zero word has no effect and takes one cycle. -/
  | nop
  /-- `halt` (R177). Waits for earlier engine commands, then enters a debug stop if armed, otherwise traps BREAK. -/
  | halt
  /-- `brk` (R95). Traps BREAK at its own bundle with the code in TINFO, or stops an armed core. -/
  | brk (code : BitVec 7)
  /-- `trap` (R95). Traps SOFTWARE at its own bundle with the code in TINFO. -/
  | trap (code : BitVec 7)
  /-- `eret` (R94). Waits for idle engines, restores saved loop and flag state, returns parked commands and stores and resumes at TPC. -/
  | eret
  /-- `tfence` (R96). Waits for earlier V and M commands and traps ARITH if AFLAGS AND AFMASK is non-zero. -/
  | tfence
  /-- `qfence` (R119). Waits until earlier S-slot global stores and the named queues' earlier commands are performed. -/
  | qfence (mask : BitVec 3)
  /-- `srr` (R97). Reads a numbered special register into an X register. -/
  | srr (d : XReg) (r : SReg)
  /-- `srw` (R97). Writes an X register to a numbered special register, with clamping of SLIPMAX, LRUN and LOOPST. -/
  | srw (r : SReg) (a : XReg)
  /-- `end` (R299). Checks guards and open transaction groups, then stops fetching and drains the job. -/
  | endJob
  /-- `add` (R158). X[xd] := X[xa] + X[xb] modulo 2^64. -/
  | add (d a b : XReg)
  /-- `sub` (R158). X[xd] := X[xa] - X[xb] modulo 2^64. -/
  | sub (d a b : XReg)
  /-- `mul` (R158). Low 64 bits of the product. -/
  | mul (d a b : XReg)
  /-- `mulh` (R158). High half of the unsigned 128-bit product. -/
  | mulh (d a b : XReg)
  /-- `mulhs` (R158). High half of the signed 128-bit product. -/
  | mulhs (d a b : XReg)
  /-- `div` (R159). Unsigned division, with the boundary cases and DZ of R159. -/
  | div (d a b : XReg)
  /-- `divs` (R159). Signed division toward zero, with the boundary cases and DZ of R159. -/
  | divs (d a b : XReg)
  /-- `rem` (R159). Unsigned remainder, with the boundary cases of R159. -/
  | rem (d a b : XReg)
  /-- `rems` (R159). Signed remainder, with the boundary cases of R159. -/
  | rems (d a b : XReg)
  /-- `and` (R158). Bitwise AND. -/
  | and (d a b : XReg)
  /-- `or` (R158). Bitwise OR. -/
  | or (d a b : XReg)
  /-- `xor` (R158). Bitwise exclusive OR. -/
  | xor (d a b : XReg)
  /-- `andn` (R158). X[xa] AND NOT X[xb]. -/
  | andn (d a b : XReg)
  /-- `shl` (R158). Left shift by X[xb][5:0]. -/
  | shl (d a b : XReg)
  /-- `shr` (R158). Logical right shift by X[xb][5:0]. -/
  | shr (d a b : XReg)
  /-- `sra` (R158). Arithmetic right shift by X[xb][5:0]. -/
  | sra (d a b : XReg)
  /-- `min` (R158). Unsigned minimum. -/
  | minu (d a b : XReg)
  /-- `max` (R158). Unsigned maximum. -/
  | maxu (d a b : XReg)
  /-- `mins` (R158). Signed minimum. -/
  | mins (d a b : XReg)
  /-- `maxs` (R158). Signed maximum. -/
  | maxs (d a b : XReg)
  /-- `slt` (R158). 1 if signed less than, else 0. -/
  | slt (d a b : XReg)
  /-- `sltu` (R158). 1 if unsigned less than, else 0. -/
  | sltu (d a b : XReg)
  /-- `seq` (R158). 1 if equal, else 0. -/
  | seq (d a b : XReg)
  /-- `sne` (R158). 1 if not equal, else 0. -/
  | sne (d a b : XReg)
  /-- `clz` (R158). Count of leading zero bits of X[xa]. -/
  | clz (d a : XReg)
  /-- `popc` (R158). Count of one bits of X[xa]. -/
  | popc (d a : XReg)
  /-- `brev` (R158). Bit reversal of X[xa]. -/
  | brev (d a : XReg)
  /-- `addi` (R160). Adds a sign-extended immediate. -/
  | addi (d a : XReg) (imm : Half)
  /-- `andi` (R160). ANDs a zero-extended immediate. -/
  | andi (d a : XReg) (imm : Half)
  /-- `ori` (R160). ORs a zero-extended immediate. -/
  | ori (d a : XReg) (imm : Half)
  /-- `xori` (R160). Exclusive-ORs a zero-extended immediate. -/
  | xori (d a : XReg) (imm : Half)
  /-- `shli` (R160). Left shift by an immediate amount. -/
  | shli (d a : XReg) (n : BitVec 6)
  /-- `shri` (R160). Logical right shift by an immediate amount. -/
  | shri (d a : XReg) (n : BitVec 6)
  /-- `srai` (R160). Arithmetic right shift by an immediate amount. -/
  | srai (d a : XReg) (n : BitVec 6)
  /-- `slti` (R160). 1 if X[xa] is signed-less than the sign-extended immediate. -/
  | slti (d a : XReg) (imm : Half)
  /-- `sltiu` (R160). 1 if X[xa] is unsigned-less than the sign-extended immediate. -/
  | sltiu (d a : XReg) (imm : Half)
  /-- `hii` (R161). Shifts the source left by 16 and inserts the immediate in the low 16 bits. -/
  | hii (d a : XReg) (imm : Half)
  /-- `ld.b` (R163). Loads one byte, zero-extended. -/
  | ldB (d a : XReg) (imm : Half)
  /-- `ld.h` (R163). Loads two bytes, zero-extended. -/
  | ldH (d a : XReg) (imm : Half)
  /-- `ld.w` (R163). Loads four bytes, zero-extended. -/
  | ldW (d a : XReg) (imm : Half)
  /-- `ld.d` (R163). Loads eight bytes. -/
  | ldD (d a : XReg) (imm : Half)
  /-- `lds.b` (R163). Loads one byte, sign-extended. -/
  | ldsB (d a : XReg) (imm : Half)
  /-- `lds.h` (R163). Loads two bytes, sign-extended. -/
  | ldsH (d a : XReg) (imm : Half)
  /-- `lds.w` (R163). Loads four bytes, sign-extended. -/
  | ldsW (d a : XReg) (imm : Half)
  /-- `ldf` (R164). Loads one or two elements decoded by page format and scale, returned as FP32. -/
  | ldf (d a : XReg) (imm : Half)
  /-- `st.b` (R165). Stores one byte; global stores are posted. -/
  | stB (d a : XReg) (imm : Half)
  /-- `st.h` (R165). Stores two bytes; global stores are posted. -/
  | stH (d a : XReg) (imm : Half)
  /-- `st.w` (R165). Stores four bytes; global stores are posted. -/
  | stW (d a : XReg) (imm : Half)
  /-- `st.d` (R165). Stores eight bytes; global stores are posted. -/
  | stD (d a : XReg) (imm : Half)
  /-- `red.add` (R128). Posts a wrapping add to a global word at its home. -/
  | redAdd (a b : XReg) (dbl : Bool)
  /-- `red.and` (R128). Posts a bitwise AND to a global word at its home. -/
  | redAnd (a b : XReg) (dbl : Bool)
  /-- `red.or` (R128). Posts a bitwise OR to a global word at its home. -/
  | redOr (a b : XReg) (dbl : Bool)
  /-- `red.xor` (R128). Posts a bitwise XOR to a global word at its home. -/
  | redXor (a b : XReg) (dbl : Bool)
  /-- `red.max` (R128). Posts a signed maximum to a global word at its home. -/
  | redMax (a b : XReg) (dbl : Bool)
  /-- `red.min` (R128). Posts a signed minimum to a global word at its home. -/
  | redMin (a b : XReg) (dbl : Bool)
  /-- `red.fmax.w` (R128). Posts an FP32 total-order maximum to a global word at its home. -/
  | redFmax (a b : XReg)
  /-- `red.fmin.w` (R128). Posts an FP32 total-order minimum to a global word at its home. -/
  | redFmin (a b : XReg)
  /-- `beq` (R167). Branches if equal. -/
  | beq (a b : XReg) (off : Half)
  /-- `bne` (R167). Branches if not equal. -/
  | bne (a b : XReg) (off : Half)
  /-- `blt` (R167). Branches if signed less. -/
  | blt (a b : XReg) (off : Half)
  /-- `bge` (R167). Branches if signed greater or equal. -/
  | bge (a b : XReg) (off : Half)
  /-- `bltu` (R167). Branches if unsigned less. -/
  | bltu (a b : XReg) (off : Half)
  /-- `bgeu` (R167). Branches if unsigned greater or equal. -/
  | bgeu (a b : XReg) (off : Half)
  /-- `j` (R168). Jumps by a 26-bit bundle offset. -/
  | j (off : BitVec 26)
  /-- `jal` (R168). Writes the link to X31 and jumps by a 26-bit bundle offset. -/
  | jal (off : BitVec 26)
  /-- `jr` (R169). Jumps to the address in X[xa]. -/
  | jr (a : XReg)
  /-- `jalr` (R169). Writes the link to X[xd] and jumps to the address in X[xa]. -/
  | jalr (d a : XReg)
  /-- `call` (R170). Pushes the return address and jumps. -/
  | call (off : BitVec 26)
  /-- `ret` (R170). Pops the return address and jumps to it. -/
  | ret
  /-- `loop` (R173). Starts zero-overhead loop L0 or L1 with the count in X[xa], or skips the body if zero. -/
  | loop (l1 : Bool) (a : XReg) (off : BitVec 20)
  /-- `pushm` (R171). Pushes registers Xxa to Xxb onto the stack. -/
  | pushm (a b : XReg)
  /-- `popm` (R171). Pops registers Xxa to Xxb from the stack. -/
  | popm (a b : XReg)
  /-- `gopen` (R142). Waits until a guard pair has no references and marks it OPEN. -/
  | gopen (n : Guard)
  /-- `gset` (R143). Resolves an OPEN guard pair from X[xa], or traps GUARD. -/
  | gset (n : Guard) (a : XReg)
  /-- `sig` (R148). Adds n to a local flag of the job. -/
  | sig (f : BitVec 5) (b : XReg)
  /-- `sig` (R148). Releases and sends an increment to a flag of another job of the COSCHED group. -/
  | sigRemote (f : BitVec 5) (a b : XReg)
  /-- `sig.nf` (R148). Sends a remote flag increment without waiting for earlier writes. -/
  | sigNf (f : BitVec 5) (a b : XReg)
  /-- `wait` (R149). Blocks until a flag reaches n and takes n from it. -/
  | wait (f : BitVec 5) (b : XReg)
  /-- `qput` (R139). Pushes X[xa] onto queue register Q8 to Q15, waiting for room. -/
  | qput (n : BitVec 4) (a : XReg)
  /-- `qget` (R139). Pops queue register Q0 to Q7 into X[xd], waiting for an entry. -/
  | qget (d : XReg) (n : BitVec 4)
  /-- `bar.init` (R310). Arms an IDLE barrier with EXPECT and ACTION. -/
  | barInit (a b : XReg)
  /-- `bar.arrive` (R310). Releases and arrives at a barrier for generation g. -/
  | barArrive (a b : XReg)
  /-- `bar.arrive.nf` (R310). Arrives at a barrier without waiting for earlier writes. -/
  | barArriveNf (a b : XReg)
  /-- `bar.wait` (R310). Acquires: blocks until generation g of a barrier completes. -/
  | barWait (a b : XReg)
  /-- `bar.xin` (R310). Raises a barrier's INBOUND count by n. -/
  | barXin (a b : XReg)
  /-- `bar.xout` (R310). Raises a barrier's OUTBOUND count by n. -/
  | barXout (a b : XReg)
  /-- `ev.set` (R300). Sets bits of the event vector within the group's SET mask. -/
  | evSet (a : XReg) (q : BitVec 2)
  /-- `ev.clr` (R300). Clears bits of the event vector under R290. -/
  | evClr (a : XReg) (q : BitVec 2)
  /-- `ev.wait` (R300). Acquires: blocks until the masked event bits are all set. -/
  | evWait (a : XReg) (q : BitVec 2)
  /-- `launch` (R298). Reads and checks a launch record, copies its parameter block and submits it to the pool or spill queue. -/
  | childLaunch (a : XReg)
  /-- `lsq.next` (R280). Takes the next tile of the job's tile set into LIX0 to LIX7. -/
  | lsqNext (d : XReg)
  /-- `lsq.info` (R281). Returns one item of the job's launch information. -/
  | lsqInfo (d : XReg) (item : BitVec 7)
  /-- `pg.cnt` (R342). Adds a count to the access counter of a page's region. -/
  | pgCnt (a b : XReg)
  /-- `pg.hint.up` (R343). Asks Sump to promote the pages of a range. -/
  | pgHintUp (a b : XReg)
  /-- `pg.hint.down` (R343). Asks Sump to demote the pages of a range. -/
  | pgHintDown (a b : XReg)
  /-- `tlb.inv.page` (R344). Privileged: invalidates cached translations of one page. -/
  | tlbInvPage (a : XReg)
  /-- `tlb.inv.ctx` (R344). Privileged: invalidates every cached translation of the context. -/
  | tlbInvCtx
  /-- `tlb.inv.all` (R344). Privileged: invalidates every cached translation of every context. -/
  | tlbInvAll
  /-- `mb.post.f` (R395). Releases and posts an F arrival of a tag to a Weir stage. -/
  | mbPostF (a : XReg) (s : BitVec 2)
  /-- `mb.post.b` (R395). Releases and posts a B arrival of a tag to a Weir stage. -/
  | mbPostB (a : XReg) (s : BitVec 2)
  /-- `mb.done` (R396). Records a step marker at the stage's next ASN. -/
  | mbDone (s : BitVec 2)
  /-- `mb.pol` (R397). Privileged: loads a Weir configuration block and binds Weir to the context. -/
  | mbPol (a : XReg)
  /-- `mb.ver.cur` (R398). Returns the base of the slot serving the W step's current version. -/
  | mbVerCur (d : XReg)
  /-- `mb.ver.new` (R398). Reserves a free version slot for the next version and returns its base. -/
  | mbVerNew (d : XReg)
  /-- `gnset` (R411). Loads a generator register from a 64-byte image. -/
  | gnset (n : BitVec 3) (a : XReg)
  /-- `lyset` (R282). Loads a layout record from a 64-byte image. -/
  | lyset (n : BitVec 3) (a : XReg)
  /-- `lyseth` (R283). Builds a GLOBAL layout record from a shape record and an offset. -/
  | lyseth (n : BitVec 3) (a b : XReg)
  /-- `bdset` (R284). Sets a B descriptor from X[xa]. -/
  | bdset (n : BitVec 3) (a : XReg)
  /-- `trc.mark` (R446). Writes a MARK trace record with X[xa]. -/
  | trcMark (a : XReg)
  /-- `dig.rd` (R451). Reads one 64-bit word of the context's result digest. -/
  | digRd (d : XReg) (w : BitVec 2)
  /-- `dig.clr` (R451). Clears the context's result digest. -/
  | digClr
  /-- Event COMMAND_COMPLETE (R39). An engine command completes once its writes are performed; its flags are ORed into AFLAGS. -/
  | commandComplete (c : Nat) (e : Eng)
  /-- Event DISCARD (R141). A guarded command at its queue head whose pair resolves false is discarded with no effect. -/
  | discard (c : Nat) (e : Eng)
  /-- Event TRAP_ENTRY (R92). Once the cut is complete, the trap is taken into the handler or escalates. -/
  | trapEntry (c : Nat)
  /-- Event ECC_UNCORRECTABLE (R19). An uncorrectable memory error is detected. -/
  | eccUncorrectable (ctx : CtxId) (lidx : BitVec 7)
  /-- Event LEASE_GRANT (R222). A free array is granted to the requesting core of highest priority. -/
  | leaseGrant (cluster : Nat)
  /-- Event RELOCATION_TAKE (R152). An idle sibling engine takes an offered relocatable command. -/
  | relocationTake (owner : Nat) (e : Eng) (sib : Nat)
  /-- Event POSTED_STORE_PERFORM (R166). A posted store reaches its home, passes or fails the home check, and is performed or parked. -/
  | postedStorePerform (c k : Nat)
  /-- Event RED_PERFORM (R128). A reduction atomic is applied at its home as one indivisible step. -/
  | redPerform (c k : Nat)
  /-- Event SIGNAL_ARRIVAL (R146). A remote flag increment arrives at its flag and is applied or held. -/
  | signalArrival (k : Nat)
  /-- Event CREATE (R85). Mailbox command: copies a context record into a free slot. -/
  | create (ctx : CtxId) (arg cookie : DWord)
  /-- Event BIND (R85). Mailbox command: validates translation and loads the scale map. -/
  | bind (ctx : CtxId) (arg cookie : DWord)
  /-- Event LAUNCH (R85). Mailbox command: submits a launch record for a context. -/
  | hostLaunch (ctx : CtxId) (arg cookie : DWord)
  /-- Event PREEMPT (R85). Mailbox command: drains the context to SAVED. -/
  | preempt (ctx : CtxId) (arg cookie : DWord)
  /-- Event RESUME (R85). Mailbox command: restores images and restarts a stopped context. -/
  | resume (ctx : CtxId) (arg cookie : DWord)
  /-- Event DESTROY (R85). Mailbox command: drains without images and retires the context. -/
  | destroy (ctx : CtxId) (arg cookie : DWord)
  /-- Event SETPRIO (R85). Mailbox command: changes the context's priority. -/
  | setprio (ctx : CtxId) (arg cookie : DWord)
  /-- Event CORE_ACKNOWLEDGE (R99). A stopped core finishes its cut and image write and acknowledges the collector. -/
  | coreAcknowledge (c : Nat)
  /-- Event GROUP_SELECT (R293). A free dispatch slot selects the READY record of greatest key and dispatches it. -/
  | groupSelect
  /-- Event JOB_START_COMPLETE (R105). A job's local state has been zeroed and it leaves STARTING. -/
  | jobStartComplete (c : Nat)
  /-- Event JOB_ENDED (R299). A job's end drain completes and it reaches ENDED. -/
  | jobEnded (c : Nat)
  /-- Event GROUP_RETIRE (R292). Every write of the group is performed; the group retires and sets its event bits. -/
  | groupRetire (slot : Nat)
  /-- Event WEIR_HELD_SUBMIT (R388). A held pick is submitted once the pool or spill queue can take it. -/
  | weirHeldSubmit
  /-- Event TRANSFER_DECREMENT (R258). A copy's barrier count decrement is applied at the barrier's home. -/
  | transferDecrement (k : Nat)
  /-- Event BARRIER_COMPLETION (R309). A barrier completes: generation and phase advance, waiters release, the action runs. -/
  | barrierCompletion (handle : BitVec 24)
  /-- Event FAULT_BUFFER_WRITE (R324). A fault-buffer entry is written to the host ring when it has room. -/
  | faultBufferWrite
  /-- Event REPLAY (R327). Host register write: paths stopped on NOT_PRESENT translate again. -/
  | replay (ctx : CtxId)
  /-- Event REPLAY_ABORT (R327). Host register write: stopped paths take PAGE or fail their link traffic. -/
  | replayAbort (ctx : CtxId)
  /-- Event TLBINV_PAGE (R345). Host register write: invalidates cached translations of one page. -/
  | hostTlbinvPage (va : BitVec 57) (ctx : CtxId)
  /-- Event TLBINV_CTX (R345). Host register write: invalidates cached translations of a context. -/
  | hostTlbinvCtx (ctx : CtxId)
  /-- Event TLBINV_ALL (R345). Host register write: invalidates every cached translation. -/
  | hostTlbinvAll
  /-- Event DEMOTION (R332). Sump starts moving an HBM page to the capacity tier. -/
  | demotion (ctx : CtxId) (va : BitVec 57)
  /-- Event PROMOTION (R332). Sump starts moving a page back into HBM. -/
  | promotion (ctx : CtxId) (va : BitVec 57)
  /-- Event SUMP_MOVE_COMPLETE (R331). A page move writes the PTE and re-translates paths stopped on MIGRATING. -/
  | sumpMoveComplete (k : Nat)
  /-- Event FLIT_RECEIVE (R347). A flit arrives on a port and its CRC is checked. -/
  | flitReceive (port : Nat) (crcOk : Bool)
  /-- Event FLIT_TIMEOUT (R347). A port that has not delivered within 1 ms of a CRC failure goes DOWN. -/
  | flitTimeout (port : Nat)
  /-- Event LANE_LOSS (R346). A port that loses a lane goes DOWN. -/
  | laneLoss (port : Nat)
  /-- Event CHCTL_WRITE (R350). Host write of a channel endpoint register; EN rising enters ACTIVE. -/
  | chctlWrite (n : BitVec 5) (v : DWord)
  /-- Event CULVERT_DELIVERY (R352). A Culvert delivery fills a receive slot, counts and posts a Weir arrival. -/
  | culvertDelivery (ch : BitVec 5) (m : CulvertMsg)
  /-- Event CULVERT_ACK (R355). The receiver's acknowledgement completes a csend; its refusal fails it (R352). -/
  | culvertAck (a : CulvertAnswer)
  /-- Event WINDOW_UPDATE (R357). A window update from the receiver raises the sender's WLIM. -/
  | windowUpdate (ch : BitVec 5) (wlim : Word)
  /-- Event CSEND_TIMEOUT (R358). A csend unacknowledged within LTMO faults LINK and the endpoint enters ERROR. -/
  | csendTimeout (ch : BitVec 5)
  /-- Event ENTRY_FIRE (R368). A posted entry at its head with its trigger met begins to fire and reads its source. -/
  | entryFire (qp : BitVec 12)
  /-- Event ENTRY_SEND (R368). The source read completes; the entry takes a sequence number and is sent. -/
  | entrySend (qp : BitVec 12)
  /-- Event QP_DELIVERY (R370). A delivery arrives at the receiving queue pair and is accepted, discarded or refused. -/
  | qpDelivery (m : QpMsg)
  /-- Event QP_ACKNOWLEDGEMENT (R369). An acknowledgement advances ASEQ and completes held entries. -/
  | qpAcknowledgement (qp : BitVec 12) (s : Word)
  /-- Event QP_REFUSAL (R369). A refusal fails the entry and puts both queue pairs in ERROR. -/
  | qpRefusal (qp : BitVec 12) (s : Word)
  /-- Event QP_RETRANSMIT (R369). After 50 us without ASEQ advancing, held entries are retransmitted. -/
  | qpRetransmit (qp : BitVec 12)
  /-- Event QP_ENTRY_TIMEOUT (R369). An entry unacknowledged within LTMO fails and the queue pair enters ERROR. -/
  | qpEntryTimeout (qp : BitVec 12)
  /-- Event REDUCER_STEP (R378). A base-die reducer applies one queued reduction step to HBM. -/
  | reducerStep (k : Nat)
  /-- Event COMPRESSION_COMPLETE (R401). A stash entry's compression completes and it becomes SPILLED. -/
  | compressionComplete (key : BitVec 22)
  /-- Event GROTTO_PROMOTION_COMPLETE (R401). A stash entry's decode into HBM completes and it becomes READY. -/
  | grottoPromotionComplete (key : BitVec 22)
  /-- Event DBG_STOP (R439). Debug command: stops the core at a defined position. -/
  | dbgStop (c : Nat)
  /-- Event DBG_GO (R441). Debug command: resumes every stopped core of the stop. -/
  | dbgGo (c : Nat)
  /-- Event DBG_STEP (R441). Debug command: issues one bundle and stops again. -/
  | dbgStep (c : Nat)
  /-- Event DEBUG_STOP_ENTERED (R439). Engines finish their started commands and the core is STOPPED. -/
  | debugStopEntered (c : Nat)
  /-- Event DEBUG_WRITE (R442). The host writes stopped core state through the debug aperture. -/
  | debugWrite (c : Nat) (off : BitVec 22) (v : DWord)
  /-- Event FREEZE (R449). Stops every package clock except SCL and the aperture. -/
  | freeze
  /-- Event UNFREEZE (R449). Restarts every package clock with no state changed. -/
  | unfreeze
  /-- Event TRACE_SAMPLE (R445). Each sample period every core with a job writes a SAMPLE record. -/
  | traceSample
  /-- Event PCSEL_WRITE (R448). Selects a performance event and clears every core's counter. -/
  | pcselWrite (v : DWord)
  /-- Event PCVAL_READ (R448). Reduces the selected counters over the chosen cores and returns the result. -/
  | pcvalRead
  /-- Event ATTESTATION_REQUEST (R458). A write of 1 to ATCMD starts an attestation report. -/
  | attestationRequest
  /-- Event ATTESTATION_REPORT (R458). The signed report is written and BUSY falls. -/
  | attestationReport
  /-- Event POWER_EVALUATION (R460). Every 1 ms the clock steps down or up by power and temperature. -/
  | powerEvaluation (m : PowerSample)
  /-- Event POWER_ON_RESET (R454). The module runs its reset phases from ROM to an open register window. -/
  | powerOnReset (b : BootInput)
  /-- Event HOST_RESET (R454). A host reset request returns the module to phase 3. -/
  | hostReset (b : BootInput)
  /-- Event HOST_ACCESS (R131). The host reads or writes device memory over SCL. -/
  | hostAccess (pa : BitVec 51) (a : HostData)
  /-- Event REGISTER_WRITE (R360). A host write to a window register without behaviour of its own stores the value. -/
  | registerWrite (off : BitVec 20) (v : DWord)
  /-- Event LINK_TRAINING_COMPLETE (R348). A torus, Levee or CXL port in TRAINING finishes link training and its STATE becomes UP. -/
  | linkTrainingComplete (port : Nat)
deriving DecidableEq, Repr

end Sys2Proof
end

