-- ==== Sys2Proof/WellFormed.lean ====
section
/-! DEFINITION. WellFormed.lean: which instructions an encoding may name: the combinations the encoding chapter
forbids (R52, R55 to R58, R61, R63, R65, R67), and the ranges of the events' operands. -/

namespace Sys2Proof

/-- The source operand code names a queue register (R63). -/
def VSrc.isQueue : VSrc → Bool
  | .q _ => true
  | _ => false

/-- The destination operand code names a queue register (R63). -/
def VDst.isQueue : VDst → Bool
  | .q _ => true
  | _ => false

/-- `srw` may name the register: it is not marked RO in R58. -/
def SReg.writable : SReg → Bool
  | .pc | .lidx | .ncore | .lix _ | .tag | .stage | .wver | .wbase | .ctxid | .prio | .seed => false
  | _ => true

/-- The register is marked PRIV in R58. -/
def SReg.isPriv : SReg → Bool
  | .slipmax | .lrun => true
  | _ => false

/-- A relocatable command names no queue code in any operand (R65). -/
def rlOk (rl : Bool) (queueCodes : List Bool) : Bool :=
  !rl || queueCodes.all (fun q => !q)

/-- What the encoding chapter lets an instruction be: a well-formed instruction is one that some slot word decodes
to, or an event about a core, cluster or port the module has. -/
def Instr.wf : Instr → Bool
  | .nop => true
  | .halt => true
  | .brk _ => true
  | .trap _ => true
  | .eret => true
  | .tfence => true
  | .qfence mask => mask != 0
  | .srr _ _ => true
  | .srw r _ => r.writable
  | .endJob => true
  | .add _ _ _ => true
  | .sub _ _ _ => true
  | .mul _ _ _ => true
  | .mulh _ _ _ => true
  | .mulhs _ _ _ => true
  | .div _ _ _ => true
  | .divs _ _ _ => true
  | .rem _ _ _ => true
  | .rems _ _ _ => true
  | .and _ _ _ => true
  | .or _ _ _ => true
  | .xor _ _ _ => true
  | .andn _ _ _ => true
  | .shl _ _ _ => true
  | .shr _ _ _ => true
  | .sra _ _ _ => true
  | .minu _ _ _ => true
  | .maxu _ _ _ => true
  | .mins _ _ _ => true
  | .maxs _ _ _ => true
  | .slt _ _ _ => true
  | .sltu _ _ _ => true
  | .seq _ _ _ => true
  | .sne _ _ _ => true
  | .clz _ _ => true
  | .popc _ _ => true
  | .brev _ _ => true
  | .addi _ _ _ => true
  | .andi _ _ _ => true
  | .ori _ _ _ => true
  | .xori _ _ _ => true
  | .shli _ _ _ => true
  | .shri _ _ _ => true
  | .srai _ _ _ => true
  | .slti _ _ _ => true
  | .sltiu _ _ _ => true
  | .hii _ _ _ => true
  | .ldB _ _ _ => true
  | .ldH _ _ _ => true
  | .ldW _ _ _ => true
  | .ldD _ _ _ => true
  | .ldsB _ _ _ => true
  | .ldsH _ _ _ => true
  | .ldsW _ _ _ => true
  | .ldf _ _ _ => true
  | .stB _ _ _ => true
  | .stH _ _ _ => true
  | .stW _ _ _ => true
  | .stD _ _ _ => true
  | .redAdd _ _ _ => true
  | .redAnd _ _ _ => true
  | .redOr _ _ _ => true
  | .redXor _ _ _ => true
  | .redMax _ _ _ => true
  | .redMin _ _ _ => true
  | .redFmax _ _ => true
  | .redFmin _ _ => true
  | .beq _ _ _ => true
  | .bne _ _ _ => true
  | .blt _ _ _ => true
  | .bge _ _ _ => true
  | .bltu _ _ _ => true
  | .bgeu _ _ _ => true
  | .j _ => true
  | .jal _ => true
  | .jr _ => true
  | .jalr _ _ => true
  | .call _ => true
  | .ret => true
  | .loop _ _ off => off != 0
  | .pushm a b => decide (a ≤ b)
  | .popm a b => decide (a ≤ b)
  | .gopen n => decide (2 ≤ n)
  | .gset n _ => decide (2 ≤ n)
  | .sig _ _ => true
  | .sigRemote _ _ _ => true
  | .sigNf _ _ _ => true
  | .wait _ _ => true
  | .qput n _ => decide (8 ≤ n)
  | .qget _ n => decide (n < 8)
  | .barInit _ _ => true
  | .barArrive _ _ => true
  | .barArriveNf _ _ => true
  | .barWait _ _ => true
  | .barXin _ _ => true
  | .barXout _ _ => true
  | .evSet _ _ => true
  | .evClr _ _ => true
  | .evWait _ _ => true
  | .childLaunch _ => true
  | .lsqNext _ => true
  | .lsqInfo _ item => decide (item < 16) && item != 7
  | .pgCnt _ _ => true
  | .pgHintUp _ _ => true
  | .pgHintDown _ _ => true
  | .tlbInvPage _ => true
  | .tlbInvCtx => true
  | .tlbInvAll => true
  | .mbPostF _ _ => true
  | .mbPostB _ _ => true
  | .mbDone _ => true
  | .mbPol _ => true
  | .mbVerCur _ => true
  | .mbVerNew _ => true
  | .gnset _ _ => true
  | .lyset _ _ => true
  | .lyseth _ _ _ => true
  | .bdset _ _ => true
  | .trcMark _ => true
  | .digRd _ _ => true
  | .digClr => true
  | .vaddF32 rl d a b _ => rlOk rl [d.isQueue, a.isQueue, b.isQueue]
  | .vsubF32 rl d a b _ => rlOk rl [d.isQueue, a.isQueue, b.isQueue]
  | .vmulF32 rl d a b _ => rlOk rl [d.isQueue, a.isQueue, b.isQueue]
  | .vmaxF32 rl d a b _ => rlOk rl [d.isQueue, a.isQueue, b.isQueue]
  | .vminF32 rl d a b _ => rlOk rl [d.isQueue, a.isQueue, b.isQueue]
  | .vabsF32 rl d a _ => rlOk rl [d.isQueue, a.isQueue]
  | .vnegF32 rl d a _ => rlOk rl [d.isQueue, a.isQueue]
  | .vaddBf16 rl d a b _ => rlOk rl [d.isQueue, a.isQueue, b.isQueue]
  | .vsubBf16 rl d a b _ => rlOk rl [d.isQueue, a.isQueue, b.isQueue]
  | .vmulBf16 rl d a b _ => rlOk rl [d.isQueue, a.isQueue, b.isQueue]
  | .vmaxBf16 rl d a b _ => rlOk rl [d.isQueue, a.isQueue, b.isQueue]
  | .vminBf16 rl d a b _ => rlOk rl [d.isQueue, a.isQueue, b.isQueue]
  | .vabsBf16 rl d a _ => rlOk rl [d.isQueue, a.isQueue]
  | .vnegBf16 rl d a _ => rlOk rl [d.isQueue, a.isQueue]
  | .vaddF16 rl d a b _ => rlOk rl [d.isQueue, a.isQueue, b.isQueue]
  | .vsubF16 rl d a b _ => rlOk rl [d.isQueue, a.isQueue, b.isQueue]
  | .vmulF16 rl d a b _ => rlOk rl [d.isQueue, a.isQueue, b.isQueue]
  | .vmaxF16 rl d a b _ => rlOk rl [d.isQueue, a.isQueue, b.isQueue]
  | .vminF16 rl d a b _ => rlOk rl [d.isQueue, a.isQueue, b.isQueue]
  | .vabsF16 rl d a _ => rlOk rl [d.isQueue, a.isQueue]
  | .vnegF16 rl d a _ => rlOk rl [d.isQueue, a.isQueue]
  | .vfmaF32 rl d a b _ => !d.isQueue && rlOk rl [d.isQueue, a.isQueue, b.isQueue]
  | .vfmsF32 rl d a b _ => !d.isQueue && rlOk rl [d.isQueue, a.isQueue, b.isQueue]
  | .vfnmaF32 rl d a b _ => !d.isQueue && rlOk rl [d.isQueue, a.isQueue, b.isQueue]
  | .vfnmsF32 rl d a b _ => !d.isQueue && rlOk rl [d.isQueue, a.isQueue, b.isQueue]
  | .vfmaBf16 rl d a b _ => !d.isQueue && rlOk rl [d.isQueue, a.isQueue, b.isQueue]
  | .vfmsBf16 rl d a b _ => !d.isQueue && rlOk rl [d.isQueue, a.isQueue, b.isQueue]
  | .vfnmaBf16 rl d a b _ => !d.isQueue && rlOk rl [d.isQueue, a.isQueue, b.isQueue]
  | .vfnmsBf16 rl d a b _ => !d.isQueue && rlOk rl [d.isQueue, a.isQueue, b.isQueue]
  | .vfmaF16 rl d a b _ => !d.isQueue && rlOk rl [d.isQueue, a.isQueue, b.isQueue]
  | .vfmsF16 rl d a b _ => !d.isQueue && rlOk rl [d.isQueue, a.isQueue, b.isQueue]
  | .vfnmaF16 rl d a b _ => !d.isQueue && rlOk rl [d.isQueue, a.isQueue, b.isQueue]
  | .vfnmsF16 rl d a b _ => !d.isQueue && rlOk rl [d.isQueue, a.isQueue, b.isQueue]
  | .vaddI32 rl d a b _ => rlOk rl [d.isQueue, a.isQueue, b.isQueue]
  | .vsubI32 rl d a b _ => rlOk rl [d.isQueue, a.isQueue, b.isQueue]
  | .vmulI32 rl d a b _ => rlOk rl [d.isQueue, a.isQueue, b.isQueue]
  | .vmulhI32 rl d a b _ => rlOk rl [d.isQueue, a.isQueue, b.isQueue]
  | .vminI32 rl d a b _ => rlOk rl [d.isQueue, a.isQueue, b.isQueue]
  | .vmaxI32 rl d a b _ => rlOk rl [d.isQueue, a.isQueue, b.isQueue]
  | .vminuI32 rl d a b _ => rlOk rl [d.isQueue, a.isQueue, b.isQueue]
  | .vmaxuI32 rl d a b _ => rlOk rl [d.isQueue, a.isQueue, b.isQueue]
  | .vaddsI32 rl d a b _ => rlOk rl [d.isQueue, a.isQueue, b.isQueue]
  | .vsubsI32 rl d a b _ => rlOk rl [d.isQueue, a.isQueue, b.isQueue]
  | .vabsI32 rl d a _ => rlOk rl [d.isQueue, a.isQueue]
  | .vnegI32 rl d a _ => rlOk rl [d.isQueue, a.isQueue]
  | .vaddI16 rl d a b _ => rlOk rl [d.isQueue, a.isQueue, b.isQueue]
  | .vsubI16 rl d a b _ => rlOk rl [d.isQueue, a.isQueue, b.isQueue]
  | .vmulI16 rl d a b _ => rlOk rl [d.isQueue, a.isQueue, b.isQueue]
  | .vmulhI16 rl d a b _ => rlOk rl [d.isQueue, a.isQueue, b.isQueue]
  | .vminI16 rl d a b _ => rlOk rl [d.isQueue, a.isQueue, b.isQueue]
  | .vmaxI16 rl d a b _ => rlOk rl [d.isQueue, a.isQueue, b.isQueue]
  | .vminuI16 rl d a b _ => rlOk rl [d.isQueue, a.isQueue, b.isQueue]
  | .vmaxuI16 rl d a b _ => rlOk rl [d.isQueue, a.isQueue, b.isQueue]
  | .vaddsI16 rl d a b _ => rlOk rl [d.isQueue, a.isQueue, b.isQueue]
  | .vsubsI16 rl d a b _ => rlOk rl [d.isQueue, a.isQueue, b.isQueue]
  | .vabsI16 rl d a _ => rlOk rl [d.isQueue, a.isQueue]
  | .vnegI16 rl d a _ => rlOk rl [d.isQueue, a.isQueue]
  | .vand rl d a b _ => rlOk rl [d.isQueue, a.isQueue, b.isQueue]
  | .vor rl d a b _ => rlOk rl [d.isQueue, a.isQueue, b.isQueue]
  | .vxor rl d a b _ => rlOk rl [d.isQueue, a.isQueue, b.isQueue]
  | .vandn rl d a b _ => rlOk rl [d.isQueue, a.isQueue, b.isQueue]
  | .vnot rl d a _ => rlOk rl [d.isQueue, a.isQueue]
  | .vshl rl d a b _ => rlOk rl [d.isQueue, a.isQueue, b.isQueue]
  | .vshr rl d a b _ => rlOk rl [d.isQueue, a.isQueue, b.isQueue]
  | .vsra rl d a b _ => rlOk rl [d.isQueue, a.isQueue, b.isQueue]
  | .vceqF32 rl d a b _ => rlOk rl [d.isQueue, a.isQueue, b.isQueue]
  | .vcneF32 rl d a b _ => rlOk rl [d.isQueue, a.isQueue, b.isQueue]
  | .vcltF32 rl d a b _ => rlOk rl [d.isQueue, a.isQueue, b.isQueue]
  | .vcleF32 rl d a b _ => rlOk rl [d.isQueue, a.isQueue, b.isQueue]
  | .vceqI32 rl d a b _ => rlOk rl [d.isQueue, a.isQueue, b.isQueue]
  | .vcneI32 rl d a b _ => rlOk rl [d.isQueue, a.isQueue, b.isQueue]
  | .vcltI32 rl d a b _ => rlOk rl [d.isQueue, a.isQueue, b.isQueue]
  | .vcleI32 rl d a b _ => rlOk rl [d.isQueue, a.isQueue, b.isQueue]
  | .vcltUi32 rl d a b _ => rlOk rl [d.isQueue, a.isQueue, b.isQueue]
  | .vcleUi32 rl d a b _ => rlOk rl [d.isQueue, a.isQueue, b.isQueue]
  | .vsel rl d a b _ => !d.isQueue && rlOk rl [d.isQueue, a.isQueue, b.isQueue]
  | .vcvtBf16F32 rl d a part _ _ => decide (part ≤ 1) && !d.isQueue && rlOk rl [d.isQueue, a.isQueue]
  | .vcvtF16F32 rl d a part _ _ => decide (part ≤ 1) && !d.isQueue && rlOk rl [d.isQueue, a.isQueue]
  | .vcvtF32Bf16 rl d a part _ _ => decide (part ≤ 1) && rlOk rl [d.isQueue, a.isQueue]
  | .vcvtF32F16 rl d a part _ _ => decide (part ≤ 1) && rlOk rl [d.isQueue, a.isQueue]
  | .vcvtI32F32 rl d a part _ _ => decide (part ≤ 0) && rlOk rl [d.isQueue, a.isQueue]
  | .vcvtF32I32 rl d a part _ _ => decide (part ≤ 0) && rlOk rl [d.isQueue, a.isQueue]
  | .vcvtUi32F32 rl d a part _ _ => decide (part ≤ 0) && rlOk rl [d.isQueue, a.isQueue]
  | .vcvtF32Ui32 rl d a part _ _ => decide (part ≤ 0) && rlOk rl [d.isQueue, a.isQueue]
  | .vcvtE4F32 rl d a part _ _ => decide (part ≤ 3) && !d.isQueue && rlOk rl [d.isQueue, a.isQueue]
  | .vcvtE5F32 rl d a part _ _ => decide (part ≤ 3) && !d.isQueue && rlOk rl [d.isQueue, a.isQueue]
  | .vcvtF32E4 rl d a part _ _ => decide (part ≤ 3) && rlOk rl [d.isQueue, a.isQueue]
  | .vcvtF32E5 rl d a part _ _ => decide (part ≤ 3) && rlOk rl [d.isQueue, a.isQueue]
  | .vcvtF4F32 rl d a part _ _ => decide (part ≤ 7) && !d.isQueue && rlOk rl [d.isQueue, a.isQueue]
  | .vcvtF32F4 rl d a part _ _ => decide (part ≤ 7) && rlOk rl [d.isQueue, a.isQueue]
  | .vcvtI8I32 rl d a part _ _ => decide (part ≤ 3) && !d.isQueue && rlOk rl [d.isQueue, a.isQueue]
  | .vcvtI16I32 rl d a part _ _ => decide (part ≤ 1) && !d.isQueue && rlOk rl [d.isQueue, a.isQueue]
  | .vamax _ _ _ => true
  | .vamaxr _ _ _ => true
  | .vquantE4 _ _ _ _ => true
  | .vquantE5 _ _ _ _ => true
  | .vquantF4 _ _ _ _ => true
  | .vdeqE4 _ _ _ _ => true
  | .vdeqE5 _ _ _ _ => true
  | .vdeqF4 _ _ _ _ => true
  | .vrsumF32 _ _ _ => true
  | .vrmaxF32 _ _ _ => true
  | .vrminF32 _ _ _ => true
  | .vrsumI32 _ _ _ => true
  | .vrmaxI32 _ _ _ => true
  | .vrminI32 _ _ _ => true
  | .vperm rl d a b _ => rlOk rl [d.isQueue, a.isQueue, b.isQueue]
  | .vbcast rl d a _ _ => rlOk rl [d.isQueue, a.isQueue]
  | .vext rl d a _ _ => rlOk rl [d.isQueue, a.isQueue]
  | .vins rl d a _ _ => !d.isQueue && rlOk rl [d.isQueue, a.isQueue]
  | .vmov _ _ _ => true
  | .vsetview _ _ => true
  | .vsetwview _ _ => true
  | .vgetview _ _ => true
  | .vld rl d _ _ _ => rlOk rl [d.isQueue]
  | .vldW _ _ _ _ _ => true
  | .vst rl _ a _ _ => rlOk rl [a.isQueue]
  | .vstW _ _ _ _ _ => true
  | .vlds rl d _ _ _ => rlOk rl [d.isQueue]
  | .vsts rl _ a _ _ => rlOk rl [a.isQueue]
  | .vgath rl d _ b _ => rlOk rl [d.isQueue, b.isQueue]
  | .vscat rl _ a b _ => rlOk rl [a.isQueue, b.isQueue]
  | .vcpush _ _ _ => true
  | .vcpop _ _ => true
  | .vccnt _ _ => true
  | .vimm _ _ _ _ => true
  | .vxexp _ _ _ => true
  | .vxmant _ _ _ => true
  | .vldexp _ _ _ _ => true
  | .vaccRd _ _ _ _ => true
  | .vaccWr _ _ _ _ => true
  | .vheapm _ _ _ _ => true
  | .vnormm _ _ _ _ => true
  | .vsig _ ofs _ => ofs != some 0
  | .vwait _ _ => true
  | .vgset _ n _ _ => decide (2 ≤ n)
  | .mma _ _ _ _ _ _ _ _ _ => true
  | .mzero mask _ => mask != 0
  | .mvpBegin _ _ _ _ _ => true
  | .mvpTile _ _ => true
  | .mvpEnd _ => true
  | .mvpEndDrop _ => true
  | .mvpRegen _ _ _ _ => true
  | .mrel _ => true
  | .msig _ ofs _ => ofs != some 0
  | .mwait _ _ => true
  | .ccopy _ _ _ _ _ => true
  | .cplane _ _ _ _ _ => true
  | .cconv _ _ _ _ _ _ => true
  | .cgath _ _ _ _ _ _ => true
  | .cscat _ _ _ _ _ _ => true
  | .cfill _ _ _ _ _ => true
  | .cdrain _ _ _ _ _ _ _ => true
  | .ctxb _ => true
  | .ctxe _ => true
  | .cput _ _ => true
  | .cputNf _ _ => true
  | .cputred _ _ => true
  | .cputredNf _ _ => true
  | .carm _ => true
  | .cadd _ _ => true
  | .caddNf _ _ => true
  | .csend _ _ _ => true
  | .crecv _ _ _ => true
  | .crel _ _ => true
  | .cstash _ _ _ _ => true
  | .cfetch _ _ _ _ => true
  | .cdrop _ _ => true
  | .cpref _ _ => true
  | .csig _ ofs _ => ofs != some 0
  | .csigNf _ ofs _ => ofs != some 0
  | .cwait _ _ => true
  | .cfence _ => true
  | .commandComplete c _ => decide (c < 128)
  | .discard c _ => decide (c < 128)
  | .trapEntry c => decide (c < 128)
  | .eccUncorrectable _ _ => true
  | .leaseGrant cluster => decide (cluster < 32)
  | .relocationTake owner _ sib => decide (owner < 128) && decide (sib < 128)
  | .postedStorePerform c _ => decide (c < 128)
  | .redPerform c _ => decide (c < 128)
  | .signalArrival _ => true
  | .create _ _ _ => true
  | .bind _ _ _ => true
  | .hostLaunch _ _ _ => true
  | .preempt _ _ _ => true
  | .resume _ _ _ => true
  | .destroy _ _ _ => true
  | .setprio _ _ _ => true
  | .coreAcknowledge c => decide (c < 128)
  | .groupSelect => true
  | .jobStartComplete c => decide (c < 128)
  | .jobEnded c => decide (c < 128)
  | .groupRetire _ => true
  | .weirHeldSubmit => true
  | .transferDecrement _ => true
  | .barrierCompletion _ => true
  | .faultBufferWrite => true
  | .replay _ => true
  | .replayAbort _ => true
  | .hostTlbinvPage _ _ => true
  | .hostTlbinvCtx _ => true
  | .hostTlbinvAll => true
  | .demotion _ _ => true
  | .promotion _ _ => true
  | .sumpMoveComplete _ => true
  | .flitReceive port _ => decide (port < 10)
  | .flitTimeout port => decide (port < 10)
  | .laneLoss port => decide (port < 10)
  | .chctlWrite _ _ => true
  | .culvertDelivery _ _ => true
  | .culvertAck _ => true
  | .windowUpdate _ _ => true
  | .csendTimeout _ => true
  | .entryFire _ => true
  | .entrySend _ => true
  | .qpDelivery _ => true
  | .qpAcknowledgement _ _ => true
  | .qpRefusal _ _ => true
  | .qpRetransmit _ => true
  | .qpEntryTimeout _ => true
  | .reducerStep _ => true
  | .compressionComplete _ => true
  | .grottoPromotionComplete _ => true
  | .dbgStop c => decide (c < 128)
  | .dbgGo c => decide (c < 128)
  | .dbgStep c => decide (c < 128)
  | .debugStopEntered c => decide (c < 128)
  | .debugWrite c _ _ => decide (c < 128)
  | .freeze => true
  | .unfreeze => true
  | .traceSample => true
  | .pcselWrite _ => true
  | .pcvalRead => true
  | .attestationRequest => true
  | .attestationReport => true
  | .powerEvaluation _ => true
  | .powerOnReset _ => true
  | .hostReset _ => true
  | .hostAccess _ _ => true
  | .registerWrite _ _ => true
  | .linkTrainingComplete port => decide (port < 10)

end Sys2Proof
end

