-- ==== Sys2Proof/Decode.lean ====
section
/-! DEFINITION. Decode.lean: the slot words (R47 to R69): field extraction, the decoder of each slot, total on any
word and answering none where R50 says ILLEGAL, the encoder written from the same tables, and the host's
decodeTableWord. -/

namespace Sys2Proof

-- Instr has more constructors than Lean's compiled code can tag, so what builds every one of them is not compiled;
-- the kernel evaluates it.
noncomputable section

/-! ## Fields and formats -/

/-- Bits lo + len - 1 down to lo of a slot word. -/
def fld (w : Word) (lo len : Nat) : BitVec len := w.extractLsb' lo len

/-- Format S-R (R54). -/
def packSR (op : BitVec 6) (d a b : XReg) (fn : BitVec 11) : Word := op ++ d ++ a ++ b ++ fn
/-- Format S-R in a grouped major: fn11 is sel and func (R54). -/
def packSG (op : BitVec 6) (d a b : XReg) (sel : BitVec 7) (func : BitVec 4) : Word := op ++ d ++ a ++ b ++ sel ++ func
/-- Formats S-I and S-B (R54): two registers and a 16-bit field. -/
def packSI (op : BitVec 6) (d a : XReg) (imm : Half) : Word := op ++ d ++ a ++ imm
/-- Format S-J (R54). -/
def packSJ (op : BitVec 6) (off : BitVec 26) : Word := op ++ off
/-- Format S-L (R54). -/
def packSL (op : BitVec 6) (sel : BitVec 1) (a : XReg) (off : BitVec 20) : Word := op ++ sel ++ a ++ off
/-- Format V-R (R62), the relocatable bit (R65) apart from the low five bits of the major. -/
def packVR (rl : BitVec 1) (op : BitVec 5) (fn : BitVec 4) (d a b : BitVec 6) (g : BitVec 4) : Word :=
  rl ++ op ++ fn ++ d ++ a ++ b ++ g
/-- Format V-I (R62). -/
def packVI (op : BitVec 6) (fmt : BitVec 2) (d : BitVec 6) (imm : Half) (g : BitVec 2) : Word := op ++ fmt ++ d ++ imm ++ g
/-- The layout of `mma` (R66). -/
def packMma (op : BitVec 6) (t : BitVec 3) (a b p : BitVec 4) (z ta tb : BitVec 1) (pl g : BitVec 4) : Word :=
  op ++ t ++ a ++ b ++ p ++ z ++ ta ++ tb ++ pl ++ g
/-- Format M-G (R67), its operand field cut as the M instructions and the signal words use it. -/
def packMG (op : BitVec 6) (fn : BitVec 4) (x : BitVec 18) (g : BitVec 4) : Word := op ++ fn ++ x ++ g
/-- Format C-G (R68). -/
def packCG (op : BitVec 6) (fn : BitVec 4) (rl nf : BitVec 1) (d a b m g : BitVec 4) : Word :=
  op ++ fn ++ rl ++ nf ++ d ++ a ++ b ++ m ++ g

/-- A field that the instruction does not use must be zero (R50, R55). -/
def needZero {n : Nat} (x : BitVec n) (r : Option Instr) : Option Instr := if x = 0#n then r else none

/-- A one-bit field as a Bool. -/
def bit1 (x : BitVec 1) : Bool := x == 1#1

/-- A Bool as a one-bit field. -/
def ofBit (b : Bool) : BitVec 1 := if b then 1#1 else 0#1

/-! ## Operand codes -/

/-- The source operand codes of R63; the W codes belong to the four-wide forms' own fields. -/
def VSrc.ofCode (c : BitVec 6) : Option VSrc :=
  match (c.extractLsb' 4 2).toNat with
  | 0 => some (.v (c.extractLsb' 0 4))
  | 1 => some (.o (c.extractLsb' 0 4))
  | 2 =>
    match (c.extractLsb' 0 4).toNat with
    | 0 => some .lrl
    | 1 => some .zero
    | 2 => some .laneid
    | 8 => some (.q 0)
    | 9 => some (.q 1)
    | 10 => some (.q 2)
    | 11 => some (.q 3)
    | _ => none
  | _ => none

/-- The code of a source operand (R63). -/
def VSrc.code : VSrc → BitVec 6
  | .v k => 0#2 ++ k
  | .o k => 1#2 ++ k
  | .lrl => 0x20#6
  | .zero => 0x21#6
  | .laneid => 0x22#6
  | .q k => 0b1010#4 ++ k

/-- The destination operand codes of R63. -/
def VDst.ofCode (c : BitVec 6) : Option VDst :=
  match (c.extractLsb' 4 2).toNat with
  | 0 => some (.v (c.extractLsb' 0 4))
  | 1 => some (.o (c.extractLsb' 0 4))
  | 2 =>
    match (c.extractLsb' 0 4).toNat with
    | 0 => some .lrl
    | 8 => some (.q 0)
    | 9 => some (.q 1)
    | 10 => some (.q 2)
    | 11 => some (.q 3)
    | _ => none
  | _ => none

/-- The code of a destination operand (R63). -/
def VDst.code : VDst → BitVec 6
  | .v k => 0#2 ++ k
  | .o k => 1#2 ++ k
  | .lrl => 0x20#6
  | .q k => 0b1010#4 ++ k

/-- A four-wide operand: the codes 0x30 to 0x33 name W0 to W3 (R63). -/
def wOfCode (c : BitVec 6) : Option (BitVec 2) :=
  if c.extractLsb' 2 4 = 0b1100#4 then some (c.extractLsb' 0 2) else none

/-- The code of a W register (R63). -/
def wCode (w : BitVec 2) : BitVec 6 := 0b1100#4 ++ w

/-- A layout-record, tile or normaliser number in a 6-bit operand field: bits 5:3 are zero. -/
def n3OfCode (c : BitVec 6) : Option (BitVec 3) :=
  if c.extractLsb' 3 3 = 0#3 then some (c.extractLsb' 0 3) else none

/-- A 3-bit number as a 6-bit operand field. -/
def n3Code (n : BitVec 3) : BitVec 6 := 0#3 ++ n

/-- An MX number in a 6-bit operand field (R192). -/
def n2OfCode (c : BitVec 6) : Option (BitVec 2) :=
  if c.extractLsb' 2 4 = 0#4 then some (c.extractLsb' 0 2) else none

/-- An MX number as a 6-bit operand field. -/
def n2Code (n : BitVec 2) : BitVec 6 := 0#4 ++ n

/-- An LY or BD number in a 4-bit C field: bit 3 is zero (R243). -/
def ly4 (c : BitVec 4) : Option (BitVec 3) :=
  if c.extractLsb' 3 1 = 0#1 then some (c.extractLsb' 0 3) else none

/-- A 3-bit number as a 4-bit C field (R243). -/
def ly4Code (n : BitVec 3) : BitVec 4 := 0#1 ++ n

/-- The conversion modes (R30). -/
def RMode.ofCode (c : BitVec 3) : Option RMode :=
  match c.toNat with
  | 0 => some .rne
  | 1 => some .rtz
  | 2 => some .rdn
  | 3 => some .rup
  | 4 => some .sat
  | _ => none

/-- The code of a conversion mode (R30). -/
def RMode.code : RMode → BitVec 3
  | .rne => 0
  | .rtz => 1
  | .rdn => 2
  | .rup => 3
  | .sat => 4

/-- The block sizes' codes (R193). -/
def BlkG.ofCode (c : BitVec 2) : Option BlkG :=
  match c.toNat with
  | 0 => some .g16
  | 1 => some .g32
  | 2 => some .g64
  | _ => none

/-- The code of a block size (R193). -/
def BlkG.code : BlkG → BitVec 2
  | .g16 => 0
  | .g32 => 1
  | .g64 => 2

/-- The modes of `vgset` (R144). -/
def GsetMode.ofCode (c : BitVec 2) : Option GsetMode :=
  match c.toNat with
  | 0 => some .any
  | 1 => some .all
  | 2 => some .lane0
  | _ => none

/-- The code of a `vgset` mode (R144). -/
def GsetMode.code : GsetMode → BitVec 2
  | .any => 0
  | .all => 1
  | .lane0 => 2

/-- The A field of `mma` (R66). -/
def ASrc.ofCode (c : BitVec 4) : ASrc :=
  if c.extractLsb' 3 1 = 1#1 then .gn (c.extractLsb' 0 3) else .ly (c.extractLsb' 0 3)

/-- The code of the A field (R66). -/
def ASrc.code : ASrc → BitVec 4
  | .ly n => 0#1 ++ n
  | .gn n => 1#1 ++ n

/-- The B field of `mma` (R66). -/
def BSrc.ofCode (c : BitVec 4) : BSrc :=
  if c.extractLsb' 3 1 = 1#1 then .gn (c.extractLsb' 0 3) else .bd (c.extractLsb' 0 3)

/-- The code of the B field (R66). -/
def BSrc.code : BSrc → BitVec 4
  | .bd n => 0#1 ++ n
  | .gn n => 1#1 ++ n

/-- The barrier select of R244; the outer none is ILLEGAL. -/
def barOfCode (c : BitVec 4) : Option (Option BarSel) :=
  match c.toNat with
  | 0 => some none
  | 8 => some (some ⟨false, false⟩)
  | 10 => some (some ⟨false, true⟩)
  | 12 => some (some ⟨true, false⟩)
  | 14 => some (some ⟨true, true⟩)
  | _ => none

/-- The code of a barrier select (R244). -/
def barCode : Option BarSel → BitVec 4
  | none => 0
  | some ⟨false, false⟩ => 8
  | some ⟨false, true⟩ => 10
  | some ⟨true, false⟩ => 12
  | some ⟨true, true⟩ => 14

/-- The target of a signal word: bit 14 marks a remote target, whose offset is not zero; a local one has offset 0
(R151). -/
def ofsOfCode (e : BitVec 1) (o : BitVec 7) : Option (Option (BitVec 7)) :=
  if e = 1#1 then (if o = 0#7 then none else some (some o)) else (if o = 0#7 then some none else none)

/-- The remote bit of a signal word (R151). -/
def ofsBit : Option (BitVec 7) → BitVec 1
  | none => 0
  | some _ => 1

/-- The offset field of a signal word (R151). -/
def ofsCode : Option (BitVec 7) → BitVec 7
  | none => 0
  | some o => o

/-- The numbers of the special registers (R58). -/
def SReg.ofCode (c : BitVec 7) : Option SReg :=
  match c.toNat with
  | 0x00 => some .pc
  | 0x01 => some .sp
  | 0x02 => some .sbase
  | 0x03 => some .slimit
  | 0x04 => some .tvec
  | 0x05 => some .tpc
  | 0x06 => some .tcause
  | 0x07 => some .tinfo
  | 0x08 => some .tqueue
  | 0x09 => some .tseq
  | 0x0a => some .aflags
  | 0x0b => some .afmask
  | 0x0c => some .loopst
  | 0x0d => some .sloopst
  | 0x0e => some .saflags
  | 0x10 => some .l0s
  | 0x11 => some .l0e
  | 0x12 => some .l0c
  | 0x13 => some .l1s
  | 0x14 => some .l1e
  | 0x15 => some .l1c
  | 0x16 => some .sl0s
  | 0x17 => some .sl0e
  | 0x18 => some .sl0c
  | 0x19 => some .sl1s
  | 0x1a => some .sl1e
  | 0x1b => some .sl1c
  | 0x1c => some .lidx
  | 0x1d => some .ncore
  | 0x20 => some (.lix 0)
  | 0x21 => some (.lix 1)
  | 0x22 => some (.lix 2)
  | 0x23 => some (.lix 3)
  | 0x24 => some (.lix 4)
  | 0x25 => some (.lix 5)
  | 0x26 => some (.lix 6)
  | 0x27 => some (.lix 7)
  | 0x28 => some .tag
  | 0x29 => some .stage
  | 0x2a => some .wver
  | 0x2b => some .wbase
  | 0x30 => some .ctxid
  | 0x31 => some .prio
  | 0x32 => some .seed
  | 0x38 => some .slipmax
  | 0x39 => some .lrun
  | _ => none

/-- The number of a special register (R58). -/
def SReg.code : SReg → BitVec 7
  | .pc => 0x00
  | .sp => 0x01
  | .sbase => 0x02
  | .slimit => 0x03
  | .tvec => 0x04
  | .tpc => 0x05
  | .tcause => 0x06
  | .tinfo => 0x07
  | .tqueue => 0x08
  | .tseq => 0x09
  | .aflags => 0x0a
  | .afmask => 0x0b
  | .loopst => 0x0c
  | .sloopst => 0x0d
  | .saflags => 0x0e
  | .l0s => 0x10
  | .l0e => 0x11
  | .l0c => 0x12
  | .l1s => 0x13
  | .l1e => 0x14
  | .l1c => 0x15
  | .sl0s => 0x16
  | .sl0e => 0x17
  | .sl0c => 0x18
  | .sl1s => 0x19
  | .sl1e => 0x1a
  | .sl1c => 0x1b
  | .lidx => 0x1c
  | .ncore => 0x1d
  | .lix k => 0b0100#4 ++ k
  | .tag => 0x28
  | .stage => 0x29
  | .wver => 0x2a
  | .wbase => 0x2b
  | .ctxid => 0x30
  | .prio => 0x31
  | .seed => 0x32
  | .slipmax => 0x38
  | .lrun => 0x39

/-! ## The S slot -/

/-- The SYS group (R57). -/
def decodeSys (d a b : XReg) (sel : BitVec 7) (func : BitVec 4) : Option Instr :=
  match func.toNat with
  | 0 => needZero (d ++ a ++ b ++ sel) (some .nop)
  | 1 => needZero (d ++ a ++ b ++ sel) (some .halt)
  | 2 => needZero (d ++ a ++ b) (some (.brk sel))
  | 3 => needZero (d ++ a ++ b) (some (.trap sel))
  | 4 => needZero (d ++ a ++ b ++ sel) (some .eret)
  | 5 => needZero (d ++ a ++ b ++ sel) (some .tfence)
  | 6 => needZero (d ++ a ++ b ++ sel.extractLsb' 3 4) (some (.qfence (sel.extractLsb' 0 3)))
  | 7 => needZero (a ++ b) ((SReg.ofCode sel).map fun r => .srr d r)
  | 8 => needZero (d ++ b) ((SReg.ofCode sel).map fun r => .srw r a)
  | 9 => needZero (d ++ a ++ b ++ sel) (some .endJob)
  | _ => none

/-- The ALU-R group (R59). -/
def decodeAlu (d a b : XReg) (fn : BitVec 11) : Option Instr :=
  match fn.toNat with
  | 0 => some (.add d a b)
  | 1 => some (.sub d a b)
  | 2 => some (.mul d a b)
  | 3 => some (.mulh d a b)
  | 4 => some (.mulhs d a b)
  | 5 => some (.div d a b)
  | 6 => some (.divs d a b)
  | 7 => some (.rem d a b)
  | 8 => some (.rems d a b)
  | 9 => some (.and d a b)
  | 10 => some (.or d a b)
  | 11 => some (.xor d a b)
  | 12 => some (.andn d a b)
  | 13 => some (.shl d a b)
  | 14 => some (.shr d a b)
  | 15 => some (.sra d a b)
  | 16 => some (.minu d a b)
  | 17 => some (.maxu d a b)
  | 18 => some (.mins d a b)
  | 19 => some (.maxs d a b)
  | 20 => some (.slt d a b)
  | 21 => some (.sltu d a b)
  | 22 => some (.seq d a b)
  | 23 => some (.sne d a b)
  | 24 => needZero b (some (.clz d a))
  | 25 => needZero b (some (.popc d a))
  | 26 => needZero b (some (.brev d a))
  | _ => none

/-- The immediate shifts of major 0x06 (R56). -/
def decodeShift (d a : XReg) (imm : Half) : Option Instr :=
  needZero (imm.extractLsb' 8 8) <|
  match (imm.extractLsb' 6 2).toNat with
  | 0 => some (.shli d a (imm.extractLsb' 0 6))
  | 1 => some (.shri d a (imm.extractLsb' 0 6))
  | 2 => some (.srai d a (imm.extractLsb' 0 6))
  | _ => none

/-- The reduction atomics (R60). -/
def decodeRed (d a b : XReg) (fn : BitVec 11) : Option Instr :=
  needZero d <| needZero (fn.extractLsb' 5 6) <|
  match (fn.extractLsb' 0 4).toNat with
  | 0 => some (.redAdd a b (bit1 (fn.extractLsb' 4 1)))
  | 1 => some (.redAnd a b (bit1 (fn.extractLsb' 4 1)))
  | 2 => some (.redOr a b (bit1 (fn.extractLsb' 4 1)))
  | 3 => some (.redXor a b (bit1 (fn.extractLsb' 4 1)))
  | 4 => some (.redMax a b (bit1 (fn.extractLsb' 4 1)))
  | 5 => some (.redMin a b (bit1 (fn.extractLsb' 4 1)))
  | 6 => needZero (fn.extractLsb' 4 1) (some (.redFmax a b))
  | 7 => needZero (fn.extractLsb' 4 1) (some (.redFmin a b))
  | _ => none

/-- `sig` (R148): sel holds the flag, the remote bit and `.nf`; `.nf` needs remote, a local `sig` has xa = 0. -/
def decodeSig (d a b : XReg) (sel : BitVec 7) : Option Instr :=
  needZero d <|
  match (sel.extractLsb' 5 2).toNat with
  | 0 => needZero a (some (.sig (sel.extractLsb' 0 5) b))
  | 1 => some (.sigRemote (sel.extractLsb' 0 5) a b)
  | 3 => some (.sigNf (sel.extractLsb' 0 5) a b)
  | _ => none

/-- `bar.arrive` and `bar.arrive.nf` (R310). -/
def decodeBarArrive (d a b : XReg) (sel : BitVec 7) : Option Instr :=
  needZero d <|
  match sel.toNat with
  | 0 => some (.barArrive a b)
  | 64 => some (.barArriveNf a b)
  | _ => none

/-- `pg.hint` (R343). -/
def decodeHint (d a b : XReg) (sel : BitVec 7) : Option Instr :=
  needZero d <|
  match sel.toNat with
  | 0 => some (.pgHintUp a b)
  | 1 => some (.pgHintDown a b)
  | _ => none

/-- `tlb.inv` (R344). -/
def decodeTlb (d a b : XReg) (sel : BitVec 7) : Option Instr :=
  needZero (d ++ b) <|
  match sel.toNat with
  | 0 => some (.tlbInvPage a)
  | 1 => needZero a (some .tlbInvCtx)
  | 2 => needZero a (some .tlbInvAll)
  | _ => none

/-- `mb.post` (R395). -/
def decodePost (d a b : XReg) (sel : BitVec 7) : Option Instr :=
  needZero (d ++ b ++ sel.extractLsb' 3 4) <|
  match (sel.extractLsb' 0 1).toNat with
  | 0 => some (.mbPostF a (sel.extractLsb' 1 2))
  | _ => some (.mbPostB a (sel.extractLsb' 1 2))

/-- `mb.ver` (R398). -/
def decodeVer (d a b : XReg) (sel : BitVec 7) : Option Instr :=
  needZero (a ++ b) <|
  match sel.toNat with
  | 0 => some (.mbVerCur d)
  | 1 => some (.mbVerNew d)
  | _ => none

/-- The grouped majors 0x30 to 0x3B (R61, with each instruction's chapter for sel, xd, xa and xb). -/
def decodeGroup (major : Nat) (d a b : XReg) (sel : BitVec 7) (func : BitVec 4) : Option Instr :=
  match major, func.toNat with
  | 0x30, 0 => needZero (d ++ a ++ b ++ sel.extractLsb' 4 3) (some (.gopen (sel.extractLsb' 0 4)))
  | 0x30, 1 => needZero (d ++ b ++ sel.extractLsb' 4 3) (some (.gset (sel.extractLsb' 0 4) a))
  | 0x31, 0 => decodeSig d a b sel
  | 0x32, 0 => needZero (d ++ a ++ sel.extractLsb' 5 2) (some (.wait (sel.extractLsb' 0 5) b))
  | 0x33, 0 => needZero (d ++ b ++ sel.extractLsb' 4 3) (some (.qput (sel.extractLsb' 0 4) a))
  | 0x33, 1 => needZero (a ++ b ++ sel.extractLsb' 4 3) (some (.qget d (sel.extractLsb' 0 4)))
  | 0x34, 0 => needZero (d ++ sel) (some (.barInit a b))
  | 0x34, 1 => decodeBarArrive d a b sel
  | 0x34, 2 => needZero (d ++ sel) (some (.barWait a b))
  | 0x34, 3 => needZero (d ++ sel) (some (.barXin a b))
  | 0x34, 4 => needZero (d ++ sel) (some (.barXout a b))
  | 0x35, 0 => needZero (d ++ b ++ sel.extractLsb' 2 5) (some (.evSet a (sel.extractLsb' 0 2)))
  | 0x35, 1 => needZero (d ++ b ++ sel.extractLsb' 2 5) (some (.evClr a (sel.extractLsb' 0 2)))
  | 0x35, 2 => needZero (d ++ b ++ sel.extractLsb' 2 5) (some (.evWait a (sel.extractLsb' 0 2)))
  | 0x36, 0 => needZero (d ++ b ++ sel) (some (.childLaunch a))
  | 0x36, 1 => needZero (a ++ b ++ sel) (some (.lsqNext d))
  | 0x36, 2 => needZero (a ++ b) (some (.lsqInfo d sel))
  | 0x37, 0 => needZero (d ++ sel) (some (.pgCnt a b))
  | 0x37, 1 => decodeHint d a b sel
  | 0x37, 2 => decodeTlb d a b sel
  | 0x38, 0 => decodePost d a b sel
  | 0x38, 1 => needZero (d ++ a ++ b ++ sel.extractLsb' 3 4 ++ sel.extractLsb' 0 1) (some (.mbDone (sel.extractLsb' 1 2)))
  | 0x38, 2 => needZero (d ++ b ++ sel) (some (.mbPol a))
  | 0x38, 3 => decodeVer d a b sel
  | 0x39, 0 => needZero (d ++ b ++ sel.extractLsb' 3 4) (some (.gnset (sel.extractLsb' 0 3) a))
  | 0x3a, 0 => needZero (d ++ b ++ sel.extractLsb' 3 4) (some (.lyset (sel.extractLsb' 0 3) a))
  | 0x3a, 1 => needZero (d ++ sel.extractLsb' 3 4) (some (.lyseth (sel.extractLsb' 0 3) a b))
  | 0x3a, 2 => needZero (d ++ b ++ sel.extractLsb' 3 4) (some (.bdset (sel.extractLsb' 0 3) a))
  | 0x3b, 0 => needZero (d ++ b ++ sel) (some (.trcMark a))
  | 0x3b, 1 => needZero (a ++ b ++ sel.extractLsb' 2 5) (some (.digRd d (sel.extractLsb' 0 2)))
  | 0x3b, 2 => needZero (d ++ a ++ b ++ sel) (some .digClr)
  | _, _ => none

/-- The instruction fields of an S word, major by major (R56). -/
def parseS (w : Word) : Option Instr :=
  let d := fld w 21 5
  let a := fld w 16 5
  let b := fld w 11 5
  let fn := fld w 0 11
  let imm := fld w 0 16
  match (fld w 26 6).toNat with
  | 0x00 => decodeSys d a b (fld w 4 7) (fld w 0 4)
  | 0x01 => decodeAlu d a b fn
  | 0x02 => some (.addi d a imm)
  | 0x03 => some (.andi d a imm)
  | 0x04 => some (.ori d a imm)
  | 0x05 => some (.xori d a imm)
  | 0x06 => decodeShift d a imm
  | 0x07 => some (.slti d a imm)
  | 0x08 => some (.sltiu d a imm)
  | 0x09 => some (.hii d a imm)
  | 0x0c => some (.ldB d a imm)
  | 0x0d => some (.ldH d a imm)
  | 0x0e => some (.ldW d a imm)
  | 0x0f => some (.ldD d a imm)
  | 0x10 => some (.ldsB d a imm)
  | 0x11 => some (.ldsH d a imm)
  | 0x12 => some (.ldsW d a imm)
  | 0x13 => some (.ldf d a imm)
  | 0x14 => some (.stB d a imm)
  | 0x15 => some (.stH d a imm)
  | 0x16 => some (.stW d a imm)
  | 0x17 => some (.stD d a imm)
  | 0x18 => decodeRed d a b fn
  | 0x20 => some (.beq d a imm)
  | 0x21 => some (.bne d a imm)
  | 0x22 => some (.blt d a imm)
  | 0x23 => some (.bge d a imm)
  | 0x24 => some (.bltu d a imm)
  | 0x25 => some (.bgeu d a imm)
  | 0x26 => some (.j (fld w 0 26))
  | 0x27 => some (.jal (fld w 0 26))
  | 0x28 => needZero b <|
    match fn.toNat with
    | 0 => needZero d (some (.jr a))
    | 1 => some (.jalr d a)
    | _ => none
  | 0x29 => some (.call (fld w 0 26))
  | 0x2a => needZero (fld w 0 26) (some .ret)
  | 0x2c => some (.loop (bit1 (fld w 25 1)) (fld w 20 5) (fld w 0 20))
  | 0x2e => needZero (d ++ fn) (some (.pushm a b))
  | 0x2f => needZero (d ++ fn) (some (.popm a b))
  | 0x30 => decodeGroup 0x30 d a b (fld w 4 7) (fld w 0 4)
  | 0x31 => decodeGroup 0x31 d a b (fld w 4 7) (fld w 0 4)
  | 0x32 => decodeGroup 0x32 d a b (fld w 4 7) (fld w 0 4)
  | 0x33 => decodeGroup 0x33 d a b (fld w 4 7) (fld w 0 4)
  | 0x34 => decodeGroup 0x34 d a b (fld w 4 7) (fld w 0 4)
  | 0x35 => decodeGroup 0x35 d a b (fld w 4 7) (fld w 0 4)
  | 0x36 => decodeGroup 0x36 d a b (fld w 4 7) (fld w 0 4)
  | 0x37 => decodeGroup 0x37 d a b (fld w 4 7) (fld w 0 4)
  | 0x38 => decodeGroup 0x38 d a b (fld w 4 7) (fld w 0 4)
  | 0x39 => decodeGroup 0x39 d a b (fld w 4 7) (fld w 0 4)
  | 0x3a => decodeGroup 0x3a d a b (fld w 4 7) (fld w 0 4)
  | 0x3b => decodeGroup 0x3b d a b (fld w 4 7) (fld w 0 4)
  | _ => none

/-! ## The V slot

A family's decoder takes the relocatable bit, the function code and the operand fields (R62 to R65). -/

/-- A three-operand form. -/
def vForm3 (k : VDst → VSrc → VSrc → Instr) (d a b : BitVec 6) : Option Instr := do
  let d ← VDst.ofCode d
  let a ← VSrc.ofCode a
  let b ← VSrc.ofCode b
  return k d a b

/-- A two-operand form; the b field is zero. -/
def vForm2 (k : VDst → VSrc → Instr) (d a b : BitVec 6) : Option Instr :=
  needZero b do
    let d ← VDst.ofCode d
    let a ← VSrc.ofCode a
    return k d a

/-- A conversion: the b field is part and mode (R191). -/
def vFormCvt (k : VDst → VSrc → BitVec 3 → RMode → Instr) (d a b : BitVec 6) : Option Instr := do
  let d ← VDst.ofCode d
  let a ← VSrc.ofCode a
  let m ← RMode.ofCode (b.extractLsb' 0 3)
  return k d a (b.extractLsb' 3 3) m

/-- A quantising form: the b field is the block size (R193). -/
def vFormBlk (k : VDst → VSrc → BlkG → Instr) (d a b : BitVec 6) : Option Instr :=
  needZero (b.extractLsb' 2 4) do
    let d ← VDst.ofCode d
    let a ← VSrc.ofCode a
    let s ← BlkG.ofCode (b.extractLsb' 0 2)
    return k d a s

/-- The operand field of the signal forms (R151): flag, remote bit and offset; its low three bits are zero. -/
def decodeSignal (k : BitVec 5 → Option (BitVec 7) → Instr) (x : BitVec 18) : Option Instr :=
  needZero (x.extractLsb' 16 2 ++ x.extractLsb' 0 3) do
    let o ← ofsOfCode (x.extractLsb' 10 1) (x.extractLsb' 3 7)
    return k (x.extractLsb' 11 5) o

/-- The operand field of the wait forms (R151). -/
def decodeWait (k : BitVec 5 → Instr) (x : BitVec 18) : Option Instr :=
  needZero (x.extractLsb' 16 2 ++ x.extractLsb' 0 11) (some (k (x.extractLsb' 11 5)))

/-- The operand field of a signal or wait form (R151). -/
def signalField (f : BitVec 5) (ofs : Option (BitVec 7)) : BitVec 18 :=
  0#2 ++ f ++ ofsBit ofs ++ ofsCode ofs ++ 0#3

/-- V major 0x01 (R64). -/
def decodeVF32 (rl : Bool) (fn : BitVec 4) (d a b : BitVec 6) (g : Guard) : Option Instr :=
  match fn.toNat with
  | 0 => vForm3 (fun d a b => .vaddF32 rl d a b g) d a b
  | 1 => vForm3 (fun d a b => .vsubF32 rl d a b g) d a b
  | 2 => vForm3 (fun d a b => .vmulF32 rl d a b g) d a b
  | 3 => vForm3 (fun d a b => .vmaxF32 rl d a b g) d a b
  | 4 => vForm3 (fun d a b => .vminF32 rl d a b g) d a b
  | 5 => vForm2 (fun d a => .vabsF32 rl d a g) d a b
  | 6 => vForm2 (fun d a => .vnegF32 rl d a g) d a b
  | _ => none

/-- V major 0x02 (R64). -/
def decodeVBf16 (rl : Bool) (fn : BitVec 4) (d a b : BitVec 6) (g : Guard) : Option Instr :=
  match fn.toNat with
  | 0 => vForm3 (fun d a b => .vaddBf16 rl d a b g) d a b
  | 1 => vForm3 (fun d a b => .vsubBf16 rl d a b g) d a b
  | 2 => vForm3 (fun d a b => .vmulBf16 rl d a b g) d a b
  | 3 => vForm3 (fun d a b => .vmaxBf16 rl d a b g) d a b
  | 4 => vForm3 (fun d a b => .vminBf16 rl d a b g) d a b
  | 5 => vForm2 (fun d a => .vabsBf16 rl d a g) d a b
  | 6 => vForm2 (fun d a => .vnegBf16 rl d a g) d a b
  | _ => none

/-- V major 0x03 (R64). -/
def decodeVF16 (rl : Bool) (fn : BitVec 4) (d a b : BitVec 6) (g : Guard) : Option Instr :=
  match fn.toNat with
  | 0 => vForm3 (fun d a b => .vaddF16 rl d a b g) d a b
  | 1 => vForm3 (fun d a b => .vsubF16 rl d a b g) d a b
  | 2 => vForm3 (fun d a b => .vmulF16 rl d a b g) d a b
  | 3 => vForm3 (fun d a b => .vmaxF16 rl d a b g) d a b
  | 4 => vForm3 (fun d a b => .vminF16 rl d a b g) d a b
  | 5 => vForm2 (fun d a => .vabsF16 rl d a g) d a b
  | 6 => vForm2 (fun d a => .vnegF16 rl d a g) d a b
  | _ => none

/-- V major 0x04 (R64). -/
def decodeVFma (rl : Bool) (fn : BitVec 4) (d a b : BitVec 6) (g : Guard) : Option Instr :=
  match fn.toNat with
  | 0 => vForm3 (fun d a b => .vfmaF32 rl d a b g) d a b
  | 1 => vForm3 (fun d a b => .vfmsF32 rl d a b g) d a b
  | 2 => vForm3 (fun d a b => .vfnmaF32 rl d a b g) d a b
  | 3 => vForm3 (fun d a b => .vfnmsF32 rl d a b g) d a b
  | _ => none

/-- V major 0x05 (R64). -/
def decodeVFmaHalf (rl : Bool) (fn : BitVec 4) (d a b : BitVec 6) (g : Guard) : Option Instr :=
  match fn.toNat with
  | 0 => vForm3 (fun d a b => .vfmaBf16 rl d a b g) d a b
  | 1 => vForm3 (fun d a b => .vfmsBf16 rl d a b g) d a b
  | 2 => vForm3 (fun d a b => .vfnmaBf16 rl d a b g) d a b
  | 3 => vForm3 (fun d a b => .vfnmsBf16 rl d a b g) d a b
  | 4 => vForm3 (fun d a b => .vfmaF16 rl d a b g) d a b
  | 5 => vForm3 (fun d a b => .vfmsF16 rl d a b g) d a b
  | 6 => vForm3 (fun d a b => .vfnmaF16 rl d a b g) d a b
  | 7 => vForm3 (fun d a b => .vfnmsF16 rl d a b g) d a b
  | _ => none

/-- V major 0x06 (R64). -/
def decodeVI32 (rl : Bool) (fn : BitVec 4) (d a b : BitVec 6) (g : Guard) : Option Instr :=
  match fn.toNat with
  | 0 => vForm3 (fun d a b => .vaddI32 rl d a b g) d a b
  | 1 => vForm3 (fun d a b => .vsubI32 rl d a b g) d a b
  | 2 => vForm3 (fun d a b => .vmulI32 rl d a b g) d a b
  | 3 => vForm3 (fun d a b => .vmulhI32 rl d a b g) d a b
  | 4 => vForm3 (fun d a b => .vminI32 rl d a b g) d a b
  | 5 => vForm3 (fun d a b => .vmaxI32 rl d a b g) d a b
  | 6 => vForm3 (fun d a b => .vminuI32 rl d a b g) d a b
  | 7 => vForm3 (fun d a b => .vmaxuI32 rl d a b g) d a b
  | 8 => vForm3 (fun d a b => .vaddsI32 rl d a b g) d a b
  | 9 => vForm3 (fun d a b => .vsubsI32 rl d a b g) d a b
  | 10 => vForm2 (fun d a => .vabsI32 rl d a g) d a b
  | 11 => vForm2 (fun d a => .vnegI32 rl d a g) d a b
  | _ => none

/-- V major 0x07 (R64). -/
def decodeVI16 (rl : Bool) (fn : BitVec 4) (d a b : BitVec 6) (g : Guard) : Option Instr :=
  match fn.toNat with
  | 0 => vForm3 (fun d a b => .vaddI16 rl d a b g) d a b
  | 1 => vForm3 (fun d a b => .vsubI16 rl d a b g) d a b
  | 2 => vForm3 (fun d a b => .vmulI16 rl d a b g) d a b
  | 3 => vForm3 (fun d a b => .vmulhI16 rl d a b g) d a b
  | 4 => vForm3 (fun d a b => .vminI16 rl d a b g) d a b
  | 5 => vForm3 (fun d a b => .vmaxI16 rl d a b g) d a b
  | 6 => vForm3 (fun d a b => .vminuI16 rl d a b g) d a b
  | 7 => vForm3 (fun d a b => .vmaxuI16 rl d a b g) d a b
  | 8 => vForm3 (fun d a b => .vaddsI16 rl d a b g) d a b
  | 9 => vForm3 (fun d a b => .vsubsI16 rl d a b g) d a b
  | 10 => vForm2 (fun d a => .vabsI16 rl d a g) d a b
  | 11 => vForm2 (fun d a => .vnegI16 rl d a g) d a b
  | _ => none

/-- V major 0x08 (R64). -/
def decodeVLogic (rl : Bool) (fn : BitVec 4) (d a b : BitVec 6) (g : Guard) : Option Instr :=
  match fn.toNat with
  | 0 => vForm3 (fun d a b => .vand rl d a b g) d a b
  | 1 => vForm3 (fun d a b => .vor rl d a b g) d a b
  | 2 => vForm3 (fun d a b => .vxor rl d a b g) d a b
  | 3 => vForm3 (fun d a b => .vandn rl d a b g) d a b
  | 4 => vForm2 (fun d a => .vnot rl d a g) d a b
  | 5 => vForm3 (fun d a b => .vshl rl d a b g) d a b
  | 6 => vForm3 (fun d a b => .vshr rl d a b g) d a b
  | 7 => vForm3 (fun d a b => .vsra rl d a b g) d a b
  | _ => none

/-- V major 0x09 (R64). -/
def decodeVCompare (rl : Bool) (fn : BitVec 4) (d a b : BitVec 6) (g : Guard) : Option Instr :=
  match fn.toNat with
  | 0 => vForm3 (fun d a b => .vceqF32 rl d a b g) d a b
  | 1 => vForm3 (fun d a b => .vcneF32 rl d a b g) d a b
  | 2 => vForm3 (fun d a b => .vcltF32 rl d a b g) d a b
  | 3 => vForm3 (fun d a b => .vcleF32 rl d a b g) d a b
  | 4 => vForm3 (fun d a b => .vceqI32 rl d a b g) d a b
  | 5 => vForm3 (fun d a b => .vcneI32 rl d a b g) d a b
  | 6 => vForm3 (fun d a b => .vcltI32 rl d a b g) d a b
  | 7 => vForm3 (fun d a b => .vcleI32 rl d a b g) d a b
  | 8 => vForm3 (fun d a b => .vcltUi32 rl d a b g) d a b
  | 9 => vForm3 (fun d a b => .vcleUi32 rl d a b g) d a b
  | _ => none

/-- V major 0x0a (R64). -/
def decodeVSel (rl : Bool) (fn : BitVec 4) (d a b : BitVec 6) (g : Guard) : Option Instr :=
  match fn.toNat with
  | 0 => vForm3 (fun d a b => .vsel rl d a b g) d a b
  | _ => none

/-- V major 0x0b (R64). -/
def decodeVCvt (rl : Bool) (fn : BitVec 4) (d a b : BitVec 6) (g : Guard) : Option Instr :=
  match fn.toNat with
  | 0 => vFormCvt (fun d a p m => .vcvtBf16F32 rl d a p m g) d a b
  | 1 => vFormCvt (fun d a p m => .vcvtF16F32 rl d a p m g) d a b
  | 2 => vFormCvt (fun d a p m => .vcvtF32Bf16 rl d a p m g) d a b
  | 3 => vFormCvt (fun d a p m => .vcvtF32F16 rl d a p m g) d a b
  | 4 => vFormCvt (fun d a p m => .vcvtI32F32 rl d a p m g) d a b
  | 5 => vFormCvt (fun d a p m => .vcvtF32I32 rl d a p m g) d a b
  | 6 => vFormCvt (fun d a p m => .vcvtUi32F32 rl d a p m g) d a b
  | 7 => vFormCvt (fun d a p m => .vcvtF32Ui32 rl d a p m g) d a b
  | 8 => vFormCvt (fun d a p m => .vcvtE4F32 rl d a p m g) d a b
  | 9 => vFormCvt (fun d a p m => .vcvtE5F32 rl d a p m g) d a b
  | 10 => vFormCvt (fun d a p m => .vcvtF32E4 rl d a p m g) d a b
  | 11 => vFormCvt (fun d a p m => .vcvtF32E5 rl d a p m g) d a b
  | 12 => vFormCvt (fun d a p m => .vcvtF4F32 rl d a p m g) d a b
  | 13 => vFormCvt (fun d a p m => .vcvtF32F4 rl d a p m g) d a b
  | 14 => vFormCvt (fun d a p m => .vcvtI8I32 rl d a p m g) d a b
  | 15 => vFormCvt (fun d a p m => .vcvtI16I32 rl d a p m g) d a b
  | _ => none

/-- V major 0x0c (R64). -/
def decodeVQuant (fn : BitVec 4) (d a b : BitVec 6) (g : Guard) : Option Instr :=
  match fn.toNat with
  | 0 => needZero b do return .vamax (← n2OfCode d) (← VSrc.ofCode a) g
  | 1 => needZero b do return .vamaxr (← VDst.ofCode d) (← n2OfCode a) g
  | 2 => vFormBlk (fun d a s => .vquantE4 d a s g) d a b
  | 3 => vFormBlk (fun d a s => .vquantE5 d a s g) d a b
  | 4 => vFormBlk (fun d a s => .vquantF4 d a s g) d a b
  | 5 => vFormBlk (fun d a s => .vdeqE4 d a s g) d a b
  | 6 => vFormBlk (fun d a s => .vdeqE5 d a s g) d a b
  | 7 => vFormBlk (fun d a s => .vdeqF4 d a s g) d a b
  | _ => none

/-- V major 0x0d (R64). -/
def decodeVReduce (fn : BitVec 4) (d a b : BitVec 6) (g : Guard) : Option Instr :=
  match fn.toNat with
  | 0 => vForm2 (fun d a => .vrsumF32 d a g) d a b
  | 1 => vForm2 (fun d a => .vrmaxF32 d a g) d a b
  | 2 => vForm2 (fun d a => .vrminF32 d a g) d a b
  | 3 => vForm2 (fun d a => .vrsumI32 d a g) d a b
  | 4 => vForm2 (fun d a => .vrmaxI32 d a g) d a b
  | 5 => vForm2 (fun d a => .vrminI32 d a g) d a b
  | _ => none

/-- V major 0x0e (R64). -/
def decodeVPerm (rl : Bool) (fn : BitVec 4) (d a b : BitVec 6) (g : Guard) : Option Instr :=
  match fn.toNat with
  | 0 => vForm3 (fun d a b => .vperm rl d a b g) d a b
  | 1 => do return .vbcast rl (← VDst.ofCode d) (← VSrc.ofCode a) b g
  | 2 => do return .vext rl (← VDst.ofCode d) (← VSrc.ofCode a) b g
  | 3 => do return .vins rl (← VDst.ofCode d) (← VSrc.ofCode a) b g
  | _ => none

/-- V major 0x0f (R64). -/
def decodeVMove (fn : BitVec 4) (d a b : BitVec 6) (g : Guard) : Option Instr :=
  match fn.toNat with
  | 0 => vForm2 (fun d a => .vmov d a g) d a b
  | 1 => needZero (d ++ b) do return .vsetview (← VSrc.ofCode a) g
  | 2 => needZero (d ++ b) do return .vsetwview (← VSrc.ofCode a) g
  | 3 => needZero (a ++ b) do return .vgetview (← VDst.ofCode d) g
  | _ => none

/-- V major 0x10 (R64). -/
def decodeVLoad (rl : Bool) (fn : BitVec 4) (d a b : BitVec 6) (g : Guard) : Option Instr :=
  match fn.toNat with
  | 0 => do return .vld rl (← VDst.ofCode d) (← n3OfCode a) b g
  | 1 => do return .vldW rl (← wOfCode d) (← n3OfCode a) b g
  | _ => none

/-- V major 0x11 (R64). -/
def decodeVStore (rl : Bool) (fn : BitVec 4) (d a b : BitVec 6) (g : Guard) : Option Instr :=
  match fn.toNat with
  | 0 => do return .vst rl (← n3OfCode d) (← VSrc.ofCode a) b g
  | 1 => do return .vstW rl (← n3OfCode d) (← wOfCode a) b g
  | _ => none

/-- V major 0x12 (R64). -/
def decodeVIndexed (rl : Bool) (fn : BitVec 4) (d a b : BitVec 6) (g : Guard) : Option Instr :=
  match fn.toNat with
  | 0 => do return .vlds rl (← VDst.ofCode d) (← n3OfCode a) b g
  | 1 => do return .vsts rl (← n3OfCode d) (← VSrc.ofCode a) b g
  | 2 => do return .vgath rl (← VDst.ofCode d) (← n3OfCode a) (← VSrc.ofCode b) g
  | 3 => do return .vscat rl (← n3OfCode d) (← VSrc.ofCode a) (← VSrc.ofCode b) g
  | _ => none

/-- V major 0x13 (R64). -/
def decodeVCond (fn : BitVec 4) (d a b : BitVec 6) (g : Guard) : Option Instr :=
  match fn.toNat with
  | 0 => needZero d do return .vcpush (← VSrc.ofCode a) (← VSrc.ofCode b) g
  | 1 => needZero (a ++ b) do return .vcpop (← VDst.ofCode d) g
  | 2 => needZero (a ++ b) do return .vccnt (← VDst.ofCode d) g
  | _ => none

/-- V major 0x15 (R64). -/
def decodeVExp (fn : BitVec 4) (d a b : BitVec 6) (g : Guard) : Option Instr :=
  match fn.toNat with
  | 0 => vForm2 (fun d a => .vxexp d a g) d a b
  | 1 => vForm2 (fun d a => .vxmant d a g) d a b
  | 2 => vForm3 (fun d a b => .vldexp d a b g) d a b
  | _ => none

/-- V major 0x16 (R64). -/
def decodeVAcc (fn : BitVec 4) (d a b : BitVec 6) (g : Guard) : Option Instr :=
  match fn.toNat with
  | 0 => do return .vaccRd (← VDst.ofCode d) (← n3OfCode a) b g
  | 1 => do return .vaccWr (← n3OfCode d) (← VSrc.ofCode a) b g
  | _ => none

/-- V major 0x17 (R64). -/
def decodeVMerge (fn : BitVec 4) (d a b : BitVec 6) (g : Guard) : Option Instr :=
  match fn.toNat with
  | 0 => do return .vheapm (← n3OfCode d) (← n3OfCode a) (← n3OfCode b) g
  | 1 => do return .vnormm (← n3OfCode d) (← n3OfCode a) (← n3OfCode b) g
  | _ => none

/-- V major 0x18 (R64). -/
def decodeVSync (fn : BitVec 4) (d a b : BitVec 6) (g : Guard) : Option Instr :=
  match fn.toNat with
  | 0 => decodeSignal (fun f o => .vsig f o g) (d ++ a ++ b)
  | 1 => decodeWait (fun f => .vwait f g) (d ++ a ++ b)
  | 2 => needZero b do return .vgset (← GsetMode.ofCode (d.extractLsb' 4 2)) (d.extractLsb' 0 4) (← VSrc.ofCode a) g
  | _ => none

/-- The instruction fields of a V word. The major's bit 5 marks a relocatable command, and only the families of R65
have one. -/
def parseV (w : Word) : Option Instr :=
  let rl := bit1 (fld w 31 1)
  let fn := fld w 22 4
  let d := fld w 16 6
  let a := fld w 10 6
  let b := fld w 4 6
  let g := fld w 0 4
  match (fld w 26 5).toNat, rl with
  | 0x01, rl => decodeVF32 rl fn d a b g
  | 0x02, rl => decodeVBf16 rl fn d a b g
  | 0x03, rl => decodeVF16 rl fn d a b g
  | 0x04, rl => decodeVFma rl fn d a b g
  | 0x05, rl => decodeVFmaHalf rl fn d a b g
  | 0x06, rl => decodeVI32 rl fn d a b g
  | 0x07, rl => decodeVI16 rl fn d a b g
  | 0x08, rl => decodeVLogic rl fn d a b g
  | 0x09, rl => decodeVCompare rl fn d a b g
  | 0x0a, rl => decodeVSel rl fn d a b g
  | 0x0b, rl => decodeVCvt rl fn d a b g
  | 0x0c, false => decodeVQuant fn d a b g
  | 0x0d, false => decodeVReduce fn d a b g
  | 0x0e, rl => decodeVPerm rl fn d a b g
  | 0x0f, false => decodeVMove fn d a b g
  | 0x10, rl => decodeVLoad rl fn d a b g
  | 0x11, rl => decodeVStore rl fn d a b g
  | 0x12, rl => decodeVIndexed rl fn d a b g
  | 0x13, false => decodeVCond fn d a b g
  | 0x14, false => do return .vimm (fld w 24 2) (← VDst.ofCode (fld w 18 6)) (fld w 2 16) (fld w 0 2)
  | 0x15, false => decodeVExp fn d a b g
  | 0x16, false => decodeVAcc fn d a b g
  | 0x17, false => decodeVMerge fn d a b g
  | 0x18, false => decodeVSync fn d a b g
  | _, _ => none

/-! ## The M slot -/

/-- The instruction fields of an M word (R66, R67). -/
def parseM (w : Word) : Option Instr :=
  let x := fld w 4 18
  let g := fld w 0 4
  match (fld w 26 6).toNat, (fld w 22 4).toNat with
  | 0x01, _ => some (.mma (fld w 23 3) (ASrc.ofCode (fld w 19 4)) (BSrc.ofCode (fld w 15 4)) (fld w 11 4)
      (bit1 (fld w 10 1)) (bit1 (fld w 9 1)) (bit1 (fld w 8 1)) (fld w 4 4) g)
  | 0x02, 0 => needZero (x.extractLsb' 0 10) (some (.mzero (x.extractLsb' 10 8) g))
  | 0x03, 0 => needZero (x.extractLsb' 0 7)
      (some (.mvpBegin (x.extractLsb' 15 3) (x.extractLsb' 12 3) (x.extractLsb' 8 4) (bit1 (x.extractLsb' 7 1)) g))
  | 0x03, 1 => needZero (x.extractLsb' 0 15) (some (.mvpTile (x.extractLsb' 15 3) g))
  | 0x03, 2 => needZero (x.extractLsb' 0 17)
      (if x.extractLsb' 17 1 = 1#1 then some (.mvpEndDrop g) else some (.mvpEnd g))
  | 0x03, 3 => needZero (x.extractLsb' 0 11)
      (some (.mvpRegen (x.extractLsb' 15 3) (x.extractLsb' 12 3) (bit1 (x.extractLsb' 11 1)) g))
  | 0x04, 0 => needZero x (some (.mrel g))
  | 0x04, 1 => decodeSignal (fun f o => .msig f o g) x
  | 0x04, 2 => decodeWait (fun f => .mwait f g) x
  | _, _ => none

/-! ## The C slot -/

/-- A Q14 or Q15 selector in a 4-bit field whose upper bits are zero. -/
def q15OfCode (c : BitVec 4) : Option Bool :=
  if c.extractLsb' 1 3 = 0#3 then some (bit1 (c.extractLsb' 0 1)) else none

/-- The code of a Q14 or Q15 selector. -/
def q15Code (q : Bool) : BitVec 4 := 0#3 ++ ofBit q

/-- The data commands of majors 0x01 to 0x06 (R243); a tile code of 8 to 15 of `cdrain` is a reserved operand code (R50).
Log entry 74: DEDUCED, unsafe. -/
def parseCData (op fn : Nat) (rl : Bool) (d a b m : BitVec 4) (g : Guard) : Option Instr :=
  match op, fn with
  | 0x01, 0 => needZero m do return .ccopy rl (← ly4 d) (← ly4 a) (← barOfCode b) g
  | 0x02, 0 => needZero m do return .cplane rl (← ly4 d) (← ly4 a) (← barOfCode b) g
  | 0x03, 0 => do
      let m ← ly4 m
      return .cconv rl (← ly4 d) (← ly4 a) (← barOfCode b) (← RMode.ofCode m) g
  | 0x04, 0 => do return .cgath rl (← ly4 d) (← ly4 a) (← barOfCode b) (← ly4 m) g
  | 0x04, 1 => do return .cscat rl (← ly4 d) (← ly4 a) (← barOfCode b) (← ly4 m) g
  | 0x05, 0 => needZero a do return .cfill rl (← ly4 d) (← barOfCode b) (← q15OfCode m) g
  | 0x06, 0 => do
      return .cdrain rl (← ly4 d) (← ly4 a) (← barOfCode b) (bit1 (m.extractLsb' 3 1)) (← RMode.ofCode (m.extractLsb' 0 3)) g
  | _, _ => none

/-- The other C commands (R69), whose rl bit is zero; nf is legal on the releases only. -/
def parseCOther (op fn : Nat) (nf : BitVec 1) (d a b m : BitVec 4) (x16 : BitVec 16) (g : Guard) : Option Instr :=
  match op, fn with
  | 0x07, 0 => needZero (nf ++ x16) (some (.ctxb g))
  | 0x07, 1 => needZero (nf ++ x16) (some (.ctxe g))
  | 0x08, 0 => needZero (d ++ a ++ b) do
      let q ← q15OfCode m
      return if bit1 nf then .cputNf q g else .cput q g
  | 0x08, 1 => needZero (d ++ a ++ b) do
      let q ← q15OfCode m
      return if bit1 nf then .cputredNf q g else .cputred q g
  | 0x09, 0 => needZero (nf ++ x16) (some (.carm g))
  | 0x09, 1 => needZero (d ++ a ++ b) do
      let q ← q15OfCode m
      return if bit1 nf then .caddNf q g else .cadd q g
  | 0x0a, 0 => needZero (nf ++ b ++ m.extractLsb' 1 3) do return .csend (m.extractLsb' 0 1 ++ d) (← ly4 a) g
  | 0x0a, 1 => needZero (nf ++ a ++ b ++ m.extractLsb' 2 2)
      (some (.crecv (m.extractLsb' 0 1 ++ d) (bit1 (m.extractLsb' 1 1)) g))
  | 0x0a, 2 => needZero (nf ++ a ++ b ++ m.extractLsb' 1 3) (some (.crel (m.extractLsb' 0 1 ++ d) g))
  | 0x0b, 0 => needZero (nf ++ d) do return .cstash (← ly4 a) b (← q15OfCode m) g
  | 0x0b, 1 => needZero (nf ++ a) do return .cfetch (← ly4 d) b (← q15OfCode m) g
  | 0x0b, 2 => needZero (nf ++ d ++ a ++ m) (some (.cdrop b g))
  | 0x0b, 3 => needZero (nf ++ d ++ a ++ b) do return .cpref (← q15OfCode m) g
  | 0x0c, 0 => decodeSignal (fun f o => if bit1 nf then .csigNf f o g else .csig f o g) (0#2 ++ x16)
  | 0x0c, 1 => needZero nf (decodeWait (fun f => .cwait f g) (0#2 ++ x16))
  | 0x0c, 2 => needZero (nf ++ x16) (some (.cfence g))
  | _, _ => none

/-- The instruction fields of a C word (R68). -/
def parseC (w : Word) : Option Instr :=
  let op := (fld w 26 6).toNat
  let fn := (fld w 22 4).toNat
  if op ≤ 6 then needZero (fld w 20 1) (parseCData op fn (bit1 (fld w 21 1)) (fld w 16 4) (fld w 12 4) (fld w 8 4) (fld w 4 4) (fld w 0 4))
  else needZero (fld w 21 1) (parseCOther op fn (fld w 20 1) (fld w 16 4) (fld w 12 4) (fld w 8 4) (fld w 4 4) (fld w 4 16) (fld w 0 4))

/-! ## Decoding and encoding -/

/-- The instruction of a slot word before the checks that depend on field values. -/
def parse (sl : Slot) (w : Word) : Option Instr :=
  match sl with
  | .s => parseS w
  | .v => parseV w
  | .m => parseM w
  | .c => parseC w

/-- The instruction of a slot word, or none where R50 says ILLEGAL. The all-zero word of an engine slot is no
instruction either (R49): the bundle's issue skips it before it decodes.
Log entry 86: DESIGN CHOICE, safe. -/
def decode (sl : Slot) (w : Word) : Option Instr :=
  match parse sl w with
  | some i => if i.wf then some i else none
  | none => none

/-- The slot and the word of an instruction, from the encoding tables of the spec; an event has no encoding. -/
def encode : Instr → Option (Slot × Word)
  | .nop => some (.s, packSG 0 0 0 0 0 0)
  | .halt => some (.s, packSG 0 0 0 0 0 1)
  | .brk code => some (.s, packSG 0 0 0 0 code 2)
  | .trap code => some (.s, packSG 0 0 0 0 code 3)
  | .eret => some (.s, packSG 0 0 0 0 0 4)
  | .tfence => some (.s, packSG 0 0 0 0 0 5)
  | .qfence mask => some (.s, packSG 0 0 0 0 (0#4 ++ mask) 6)
  | .srr d r => some (.s, packSG 0 d 0 0 r.code 7)
  | .srw r a => some (.s, packSG 0 0 a 0 r.code 8)
  | .endJob => some (.s, packSG 0 0 0 0 0 9)
  | .add d a b => some (.s, packSR 1 d a b 0)
  | .sub d a b => some (.s, packSR 1 d a b 1)
  | .mul d a b => some (.s, packSR 1 d a b 2)
  | .mulh d a b => some (.s, packSR 1 d a b 3)
  | .mulhs d a b => some (.s, packSR 1 d a b 4)
  | .div d a b => some (.s, packSR 1 d a b 5)
  | .divs d a b => some (.s, packSR 1 d a b 6)
  | .rem d a b => some (.s, packSR 1 d a b 7)
  | .rems d a b => some (.s, packSR 1 d a b 8)
  | .and d a b => some (.s, packSR 1 d a b 9)
  | .or d a b => some (.s, packSR 1 d a b 10)
  | .xor d a b => some (.s, packSR 1 d a b 11)
  | .andn d a b => some (.s, packSR 1 d a b 12)
  | .shl d a b => some (.s, packSR 1 d a b 13)
  | .shr d a b => some (.s, packSR 1 d a b 14)
  | .sra d a b => some (.s, packSR 1 d a b 15)
  | .minu d a b => some (.s, packSR 1 d a b 16)
  | .maxu d a b => some (.s, packSR 1 d a b 17)
  | .mins d a b => some (.s, packSR 1 d a b 18)
  | .maxs d a b => some (.s, packSR 1 d a b 19)
  | .slt d a b => some (.s, packSR 1 d a b 20)
  | .sltu d a b => some (.s, packSR 1 d a b 21)
  | .seq d a b => some (.s, packSR 1 d a b 22)
  | .sne d a b => some (.s, packSR 1 d a b 23)
  | .clz d a => some (.s, packSR 1 d a 0 24)
  | .popc d a => some (.s, packSR 1 d a 0 25)
  | .brev d a => some (.s, packSR 1 d a 0 26)
  | .addi d a imm => some (.s, packSI 0x02 d a imm)
  | .andi d a imm => some (.s, packSI 0x03 d a imm)
  | .ori d a imm => some (.s, packSI 0x04 d a imm)
  | .xori d a imm => some (.s, packSI 0x05 d a imm)
  | .shli d a n => some (.s, packSI 6 d a (0#8 ++ 0#2 ++ n))
  | .shri d a n => some (.s, packSI 6 d a (0#8 ++ 1#2 ++ n))
  | .srai d a n => some (.s, packSI 6 d a (0#8 ++ 2#2 ++ n))
  | .slti d a imm => some (.s, packSI 0x07 d a imm)
  | .sltiu d a imm => some (.s, packSI 0x08 d a imm)
  | .hii d a imm => some (.s, packSI 0x09 d a imm)
  | .ldB d a imm => some (.s, packSI 0x0c d a imm)
  | .ldH d a imm => some (.s, packSI 0x0d d a imm)
  | .ldW d a imm => some (.s, packSI 0x0e d a imm)
  | .ldD d a imm => some (.s, packSI 0x0f d a imm)
  | .ldsB d a imm => some (.s, packSI 0x10 d a imm)
  | .ldsH d a imm => some (.s, packSI 0x11 d a imm)
  | .ldsW d a imm => some (.s, packSI 0x12 d a imm)
  | .ldf d a imm => some (.s, packSI 0x13 d a imm)
  | .stB d a imm => some (.s, packSI 0x14 d a imm)
  | .stH d a imm => some (.s, packSI 0x15 d a imm)
  | .stW d a imm => some (.s, packSI 0x16 d a imm)
  | .stD d a imm => some (.s, packSI 0x17 d a imm)
  | .redAdd a b dbl => some (.s, packSR 0x18 0 a b (0#6 ++ ofBit dbl ++ 0#4))
  | .redAnd a b dbl => some (.s, packSR 0x18 0 a b (0#6 ++ ofBit dbl ++ 1#4))
  | .redOr a b dbl => some (.s, packSR 0x18 0 a b (0#6 ++ ofBit dbl ++ 2#4))
  | .redXor a b dbl => some (.s, packSR 0x18 0 a b (0#6 ++ ofBit dbl ++ 3#4))
  | .redMax a b dbl => some (.s, packSR 0x18 0 a b (0#6 ++ ofBit dbl ++ 4#4))
  | .redMin a b dbl => some (.s, packSR 0x18 0 a b (0#6 ++ ofBit dbl ++ 5#4))
  | .redFmax a b => some (.s, packSR 0x18 0 a b 6)
  | .redFmin a b => some (.s, packSR 0x18 0 a b 7)
  | .beq a b off => some (.s, packSI 0x20 a b off)
  | .bne a b off => some (.s, packSI 0x21 a b off)
  | .blt a b off => some (.s, packSI 0x22 a b off)
  | .bge a b off => some (.s, packSI 0x23 a b off)
  | .bltu a b off => some (.s, packSI 0x24 a b off)
  | .bgeu a b off => some (.s, packSI 0x25 a b off)
  | .j off => some (.s, packSJ 0x26 off)
  | .jal off => some (.s, packSJ 0x27 off)
  | .jr a => some (.s, packSR 0x28 0 a 0 0)
  | .jalr d a => some (.s, packSR 0x28 d a 0 1)
  | .call off => some (.s, packSJ 0x29 off)
  | .ret => some (.s, packSJ 0x2a 0)
  | .loop l1 a off => some (.s, packSL 0x2c (ofBit l1) a off)
  | .pushm a b => some (.s, packSR 0x2e 0 a b 0)
  | .popm a b => some (.s, packSR 0x2f 0 a b 0)
  | .gopen n => some (.s, packSG 0x30 0 0 0 (0#3 ++ n) 0)
  | .gset n a => some (.s, packSG 0x30 0 a 0 (0#3 ++ n) 1)
  | .sig f b => some (.s, packSG 0x31 0 0 b (0#2 ++ f) 0)
  | .sigRemote f a b => some (.s, packSG 0x31 0 a b (1#2 ++ f) 0)
  | .sigNf f a b => some (.s, packSG 0x31 0 a b (3#2 ++ f) 0)
  | .wait f b => some (.s, packSG 0x32 0 0 b (0#2 ++ f) 0)
  | .qput n a => some (.s, packSG 0x33 0 a 0 (0#3 ++ n) 0)
  | .qget d n => some (.s, packSG 0x33 d 0 0 (0#3 ++ n) 1)
  | .barInit a b => some (.s, packSG 0x34 0 a b 0 0)
  | .barArrive a b => some (.s, packSG 0x34 0 a b 0 1)
  | .barArriveNf a b => some (.s, packSG 0x34 0 a b 64 1)
  | .barWait a b => some (.s, packSG 0x34 0 a b 0 2)
  | .barXin a b => some (.s, packSG 0x34 0 a b 0 3)
  | .barXout a b => some (.s, packSG 0x34 0 a b 0 4)
  | .evSet a q => some (.s, packSG 0x35 0 a 0 (0#5 ++ q) 0)
  | .evClr a q => some (.s, packSG 0x35 0 a 0 (0#5 ++ q) 1)
  | .evWait a q => some (.s, packSG 0x35 0 a 0 (0#5 ++ q) 2)
  | .childLaunch a => some (.s, packSG 0x36 0 a 0 0 0)
  | .lsqNext d => some (.s, packSG 0x36 d 0 0 0 1)
  | .lsqInfo d item => some (.s, packSG 0x36 d 0 0 item 2)
  | .pgCnt a b => some (.s, packSG 0x37 0 a b 0 0)
  | .pgHintUp a b => some (.s, packSG 0x37 0 a b 0 1)
  | .pgHintDown a b => some (.s, packSG 0x37 0 a b 1 1)
  | .tlbInvPage a => some (.s, packSG 0x37 0 a 0 0 2)
  | .tlbInvCtx => some (.s, packSG 0x37 0 0 0 1 2)
  | .tlbInvAll => some (.s, packSG 0x37 0 0 0 2 2)
  | .mbPostF a s => some (.s, packSG 0x38 0 a 0 (0#4 ++ s ++ 0#1) 0)
  | .mbPostB a s => some (.s, packSG 0x38 0 a 0 (0#4 ++ s ++ 1#1) 0)
  | .mbDone s => some (.s, packSG 0x38 0 0 0 (0#4 ++ s ++ 0#1) 1)
  | .mbPol a => some (.s, packSG 0x38 0 a 0 0 2)
  | .mbVerCur d => some (.s, packSG 0x38 d 0 0 0 3)
  | .mbVerNew d => some (.s, packSG 0x38 d 0 0 1 3)
  | .gnset n a => some (.s, packSG 0x39 0 a 0 (0#4 ++ n) 0)
  | .lyset n a => some (.s, packSG 0x3a 0 a 0 (0#4 ++ n) 0)
  | .lyseth n a b => some (.s, packSG 0x3a 0 a b (0#4 ++ n) 1)
  | .bdset n a => some (.s, packSG 0x3a 0 a 0 (0#4 ++ n) 2)
  | .trcMark a => some (.s, packSG 0x3b 0 a 0 0 0)
  | .digRd d w => some (.s, packSG 0x3b d 0 0 (0#5 ++ w) 1)
  | .digClr => some (.s, packSG 0x3b 0 0 0 0 2)
  | .vaddF32 rl d a b g => some (.v, packVR (ofBit rl) 0x01 0 d.code a.code b.code g)
  | .vsubF32 rl d a b g => some (.v, packVR (ofBit rl) 0x01 1 d.code a.code b.code g)
  | .vmulF32 rl d a b g => some (.v, packVR (ofBit rl) 0x01 2 d.code a.code b.code g)
  | .vmaxF32 rl d a b g => some (.v, packVR (ofBit rl) 0x01 3 d.code a.code b.code g)
  | .vminF32 rl d a b g => some (.v, packVR (ofBit rl) 0x01 4 d.code a.code b.code g)
  | .vabsF32 rl d a g => some (.v, packVR (ofBit rl) 0x01 5 d.code a.code 0 g)
  | .vnegF32 rl d a g => some (.v, packVR (ofBit rl) 0x01 6 d.code a.code 0 g)
  | .vaddBf16 rl d a b g => some (.v, packVR (ofBit rl) 0x02 0 d.code a.code b.code g)
  | .vsubBf16 rl d a b g => some (.v, packVR (ofBit rl) 0x02 1 d.code a.code b.code g)
  | .vmulBf16 rl d a b g => some (.v, packVR (ofBit rl) 0x02 2 d.code a.code b.code g)
  | .vmaxBf16 rl d a b g => some (.v, packVR (ofBit rl) 0x02 3 d.code a.code b.code g)
  | .vminBf16 rl d a b g => some (.v, packVR (ofBit rl) 0x02 4 d.code a.code b.code g)
  | .vabsBf16 rl d a g => some (.v, packVR (ofBit rl) 0x02 5 d.code a.code 0 g)
  | .vnegBf16 rl d a g => some (.v, packVR (ofBit rl) 0x02 6 d.code a.code 0 g)
  | .vaddF16 rl d a b g => some (.v, packVR (ofBit rl) 0x03 0 d.code a.code b.code g)
  | .vsubF16 rl d a b g => some (.v, packVR (ofBit rl) 0x03 1 d.code a.code b.code g)
  | .vmulF16 rl d a b g => some (.v, packVR (ofBit rl) 0x03 2 d.code a.code b.code g)
  | .vmaxF16 rl d a b g => some (.v, packVR (ofBit rl) 0x03 3 d.code a.code b.code g)
  | .vminF16 rl d a b g => some (.v, packVR (ofBit rl) 0x03 4 d.code a.code b.code g)
  | .vabsF16 rl d a g => some (.v, packVR (ofBit rl) 0x03 5 d.code a.code 0 g)
  | .vnegF16 rl d a g => some (.v, packVR (ofBit rl) 0x03 6 d.code a.code 0 g)
  | .vfmaF32 rl d a b g => some (.v, packVR (ofBit rl) 0x04 0 d.code a.code b.code g)
  | .vfmsF32 rl d a b g => some (.v, packVR (ofBit rl) 0x04 1 d.code a.code b.code g)
  | .vfnmaF32 rl d a b g => some (.v, packVR (ofBit rl) 0x04 2 d.code a.code b.code g)
  | .vfnmsF32 rl d a b g => some (.v, packVR (ofBit rl) 0x04 3 d.code a.code b.code g)
  | .vfmaBf16 rl d a b g => some (.v, packVR (ofBit rl) 0x05 0 d.code a.code b.code g)
  | .vfmsBf16 rl d a b g => some (.v, packVR (ofBit rl) 0x05 1 d.code a.code b.code g)
  | .vfnmaBf16 rl d a b g => some (.v, packVR (ofBit rl) 0x05 2 d.code a.code b.code g)
  | .vfnmsBf16 rl d a b g => some (.v, packVR (ofBit rl) 0x05 3 d.code a.code b.code g)
  | .vfmaF16 rl d a b g => some (.v, packVR (ofBit rl) 0x05 4 d.code a.code b.code g)
  | .vfmsF16 rl d a b g => some (.v, packVR (ofBit rl) 0x05 5 d.code a.code b.code g)
  | .vfnmaF16 rl d a b g => some (.v, packVR (ofBit rl) 0x05 6 d.code a.code b.code g)
  | .vfnmsF16 rl d a b g => some (.v, packVR (ofBit rl) 0x05 7 d.code a.code b.code g)
  | .vaddI32 rl d a b g => some (.v, packVR (ofBit rl) 0x06 0 d.code a.code b.code g)
  | .vsubI32 rl d a b g => some (.v, packVR (ofBit rl) 0x06 1 d.code a.code b.code g)
  | .vmulI32 rl d a b g => some (.v, packVR (ofBit rl) 0x06 2 d.code a.code b.code g)
  | .vmulhI32 rl d a b g => some (.v, packVR (ofBit rl) 0x06 3 d.code a.code b.code g)
  | .vminI32 rl d a b g => some (.v, packVR (ofBit rl) 0x06 4 d.code a.code b.code g)
  | .vmaxI32 rl d a b g => some (.v, packVR (ofBit rl) 0x06 5 d.code a.code b.code g)
  | .vminuI32 rl d a b g => some (.v, packVR (ofBit rl) 0x06 6 d.code a.code b.code g)
  | .vmaxuI32 rl d a b g => some (.v, packVR (ofBit rl) 0x06 7 d.code a.code b.code g)
  | .vaddsI32 rl d a b g => some (.v, packVR (ofBit rl) 0x06 8 d.code a.code b.code g)
  | .vsubsI32 rl d a b g => some (.v, packVR (ofBit rl) 0x06 9 d.code a.code b.code g)
  | .vabsI32 rl d a g => some (.v, packVR (ofBit rl) 0x06 10 d.code a.code 0 g)
  | .vnegI32 rl d a g => some (.v, packVR (ofBit rl) 0x06 11 d.code a.code 0 g)
  | .vaddI16 rl d a b g => some (.v, packVR (ofBit rl) 0x07 0 d.code a.code b.code g)
  | .vsubI16 rl d a b g => some (.v, packVR (ofBit rl) 0x07 1 d.code a.code b.code g)
  | .vmulI16 rl d a b g => some (.v, packVR (ofBit rl) 0x07 2 d.code a.code b.code g)
  | .vmulhI16 rl d a b g => some (.v, packVR (ofBit rl) 0x07 3 d.code a.code b.code g)
  | .vminI16 rl d a b g => some (.v, packVR (ofBit rl) 0x07 4 d.code a.code b.code g)
  | .vmaxI16 rl d a b g => some (.v, packVR (ofBit rl) 0x07 5 d.code a.code b.code g)
  | .vminuI16 rl d a b g => some (.v, packVR (ofBit rl) 0x07 6 d.code a.code b.code g)
  | .vmaxuI16 rl d a b g => some (.v, packVR (ofBit rl) 0x07 7 d.code a.code b.code g)
  | .vaddsI16 rl d a b g => some (.v, packVR (ofBit rl) 0x07 8 d.code a.code b.code g)
  | .vsubsI16 rl d a b g => some (.v, packVR (ofBit rl) 0x07 9 d.code a.code b.code g)
  | .vabsI16 rl d a g => some (.v, packVR (ofBit rl) 0x07 10 d.code a.code 0 g)
  | .vnegI16 rl d a g => some (.v, packVR (ofBit rl) 0x07 11 d.code a.code 0 g)
  | .vand rl d a b g => some (.v, packVR (ofBit rl) 0x08 0 d.code a.code b.code g)
  | .vor rl d a b g => some (.v, packVR (ofBit rl) 0x08 1 d.code a.code b.code g)
  | .vxor rl d a b g => some (.v, packVR (ofBit rl) 0x08 2 d.code a.code b.code g)
  | .vandn rl d a b g => some (.v, packVR (ofBit rl) 0x08 3 d.code a.code b.code g)
  | .vnot rl d a g => some (.v, packVR (ofBit rl) 0x08 4 d.code a.code 0 g)
  | .vshl rl d a b g => some (.v, packVR (ofBit rl) 0x08 5 d.code a.code b.code g)
  | .vshr rl d a b g => some (.v, packVR (ofBit rl) 0x08 6 d.code a.code b.code g)
  | .vsra rl d a b g => some (.v, packVR (ofBit rl) 0x08 7 d.code a.code b.code g)
  | .vceqF32 rl d a b g => some (.v, packVR (ofBit rl) 0x09 0 d.code a.code b.code g)
  | .vcneF32 rl d a b g => some (.v, packVR (ofBit rl) 0x09 1 d.code a.code b.code g)
  | .vcltF32 rl d a b g => some (.v, packVR (ofBit rl) 0x09 2 d.code a.code b.code g)
  | .vcleF32 rl d a b g => some (.v, packVR (ofBit rl) 0x09 3 d.code a.code b.code g)
  | .vceqI32 rl d a b g => some (.v, packVR (ofBit rl) 0x09 4 d.code a.code b.code g)
  | .vcneI32 rl d a b g => some (.v, packVR (ofBit rl) 0x09 5 d.code a.code b.code g)
  | .vcltI32 rl d a b g => some (.v, packVR (ofBit rl) 0x09 6 d.code a.code b.code g)
  | .vcleI32 rl d a b g => some (.v, packVR (ofBit rl) 0x09 7 d.code a.code b.code g)
  | .vcltUi32 rl d a b g => some (.v, packVR (ofBit rl) 0x09 8 d.code a.code b.code g)
  | .vcleUi32 rl d a b g => some (.v, packVR (ofBit rl) 0x09 9 d.code a.code b.code g)
  | .vsel rl d a b g => some (.v, packVR (ofBit rl) 0x0a 0 d.code a.code b.code g)
  | .vcvtBf16F32 rl d a part mode g => some (.v, packVR (ofBit rl) 0x0b 0 d.code a.code (part ++ mode.code) g)
  | .vcvtF16F32 rl d a part mode g => some (.v, packVR (ofBit rl) 0x0b 1 d.code a.code (part ++ mode.code) g)
  | .vcvtF32Bf16 rl d a part mode g => some (.v, packVR (ofBit rl) 0x0b 2 d.code a.code (part ++ mode.code) g)
  | .vcvtF32F16 rl d a part mode g => some (.v, packVR (ofBit rl) 0x0b 3 d.code a.code (part ++ mode.code) g)
  | .vcvtI32F32 rl d a part mode g => some (.v, packVR (ofBit rl) 0x0b 4 d.code a.code (part ++ mode.code) g)
  | .vcvtF32I32 rl d a part mode g => some (.v, packVR (ofBit rl) 0x0b 5 d.code a.code (part ++ mode.code) g)
  | .vcvtUi32F32 rl d a part mode g => some (.v, packVR (ofBit rl) 0x0b 6 d.code a.code (part ++ mode.code) g)
  | .vcvtF32Ui32 rl d a part mode g => some (.v, packVR (ofBit rl) 0x0b 7 d.code a.code (part ++ mode.code) g)
  | .vcvtE4F32 rl d a part mode g => some (.v, packVR (ofBit rl) 0x0b 8 d.code a.code (part ++ mode.code) g)
  | .vcvtE5F32 rl d a part mode g => some (.v, packVR (ofBit rl) 0x0b 9 d.code a.code (part ++ mode.code) g)
  | .vcvtF32E4 rl d a part mode g => some (.v, packVR (ofBit rl) 0x0b 10 d.code a.code (part ++ mode.code) g)
  | .vcvtF32E5 rl d a part mode g => some (.v, packVR (ofBit rl) 0x0b 11 d.code a.code (part ++ mode.code) g)
  | .vcvtF4F32 rl d a part mode g => some (.v, packVR (ofBit rl) 0x0b 12 d.code a.code (part ++ mode.code) g)
  | .vcvtF32F4 rl d a part mode g => some (.v, packVR (ofBit rl) 0x0b 13 d.code a.code (part ++ mode.code) g)
  | .vcvtI8I32 rl d a part mode g => some (.v, packVR (ofBit rl) 0x0b 14 d.code a.code (part ++ mode.code) g)
  | .vcvtI16I32 rl d a part mode g => some (.v, packVR (ofBit rl) 0x0b 15 d.code a.code (part ++ mode.code) g)
  | .vamax n a g => some (.v, packVR 0 0x0c 0 (n2Code n) a.code 0 g)
  | .vamaxr d n g => some (.v, packVR 0 0x0c 1 d.code (n2Code n) 0 g)
  | .vquantE4 d a bs g => some (.v, packVR 0 0x0c 2 d.code a.code (0#4 ++ bs.code) g)
  | .vquantE5 d a bs g => some (.v, packVR 0 0x0c 3 d.code a.code (0#4 ++ bs.code) g)
  | .vquantF4 d a bs g => some (.v, packVR 0 0x0c 4 d.code a.code (0#4 ++ bs.code) g)
  | .vdeqE4 d a bs g => some (.v, packVR 0 0x0c 5 d.code a.code (0#4 ++ bs.code) g)
  | .vdeqE5 d a bs g => some (.v, packVR 0 0x0c 6 d.code a.code (0#4 ++ bs.code) g)
  | .vdeqF4 d a bs g => some (.v, packVR 0 0x0c 7 d.code a.code (0#4 ++ bs.code) g)
  | .vrsumF32 d a g => some (.v, packVR 0 0x0d 0 d.code a.code 0 g)
  | .vrmaxF32 d a g => some (.v, packVR 0 0x0d 1 d.code a.code 0 g)
  | .vrminF32 d a g => some (.v, packVR 0 0x0d 2 d.code a.code 0 g)
  | .vrsumI32 d a g => some (.v, packVR 0 0x0d 3 d.code a.code 0 g)
  | .vrmaxI32 d a g => some (.v, packVR 0 0x0d 4 d.code a.code 0 g)
  | .vrminI32 d a g => some (.v, packVR 0 0x0d 5 d.code a.code 0 g)
  | .vperm rl d a b g => some (.v, packVR (ofBit rl) 0x0e 0 d.code a.code b.code g)
  | .vbcast rl d a n g => some (.v, packVR (ofBit rl) 0x0e 1 d.code a.code n g)
  | .vext rl d a n g => some (.v, packVR (ofBit rl) 0x0e 2 d.code a.code n g)
  | .vins rl d a n g => some (.v, packVR (ofBit rl) 0x0e 3 d.code a.code n g)
  | .vmov d a g => some (.v, packVR 0 0x0f 0 d.code a.code 0 g)
  | .vsetview a g => some (.v, packVR 0 0x0f 1 0 a.code 0 g)
  | .vsetwview a g => some (.v, packVR 0 0x0f 2 0 a.code 0 g)
  | .vgetview d g => some (.v, packVR 0 0x0f 3 d.code 0 0 g)
  | .vld rl d n k g => some (.v, packVR (ofBit rl) 0x10 0 d.code (n3Code n) k g)
  | .vldW rl w n k g => some (.v, packVR (ofBit rl) 0x10 1 (wCode w) (n3Code n) k g)
  | .vst rl n a k g => some (.v, packVR (ofBit rl) 0x11 0 (n3Code n) a.code k g)
  | .vstW rl n w k g => some (.v, packVR (ofBit rl) 0x11 1 (n3Code n) (wCode w) k g)
  | .vlds rl d n k g => some (.v, packVR (ofBit rl) 0x12 0 d.code (n3Code n) k g)
  | .vsts rl n a k g => some (.v, packVR (ofBit rl) 0x12 1 (n3Code n) a.code k g)
  | .vgath rl d n b g => some (.v, packVR (ofBit rl) 0x12 2 d.code (n3Code n) b.code g)
  | .vscat rl n a b g => some (.v, packVR (ofBit rl) 0x12 3 (n3Code n) a.code b.code g)
  | .vcpush a b g => some (.v, packVR 0 0x13 0 0 a.code b.code g)
  | .vcpop d g => some (.v, packVR 0 0x13 1 d.code 0 0 g)
  | .vccnt d g => some (.v, packVR 0 0x13 2 d.code 0 0 g)
  | .vimm fmt d imm g => some (.v, packVI 0x14 fmt d.code imm g)
  | .vxexp d a g => some (.v, packVR 0 0x15 0 d.code a.code 0 g)
  | .vxmant d a g => some (.v, packVR 0 0x15 1 d.code a.code 0 g)
  | .vldexp d a b g => some (.v, packVR 0 0x15 2 d.code a.code b.code g)
  | .vaccRd d t row g => some (.v, packVR 0 0x16 0 d.code (n3Code t) row g)
  | .vaccWr t a row g => some (.v, packVR 0 0x16 1 (n3Code t) a.code row g)
  | .vheapm d a b g => some (.v, packVR 0 0x17 0 (n3Code d) (n3Code a) (n3Code b) g)
  | .vnormm d a b g => some (.v, packVR 0 0x17 1 (n3Code d) (n3Code a) (n3Code b) g)
  | .vsig f ofs g => some (.v, packMG 0x18 0 (signalField f ofs) g)
  | .vwait f g => some (.v, packMG 0x18 1 (signalField f none) g)
  | .vgset mode n a g => some (.v, packVR 0 0x18 2 (mode.code ++ n) a.code 0 g)
  | .mma t a b prof zf ta tb pl g => some (.m, packMma 1 t a.code b.code prof (ofBit zf) (ofBit ta) (ofBit tb) pl g)
  | .mzero mask g => some (.m, packMG 2 0 (mask ++ 0#10) g)
  | .mvpBegin a w prof q13 g => some (.m, packMG 3 0 (a ++ w ++ prof ++ ofBit q13 ++ 0#7) g)
  | .mvpTile t g => some (.m, packMG 3 1 (t ++ 0#15) g)
  | .mvpEnd g => some (.m, packMG 3 2 0 g)
  | .mvpEndDrop g => some (.m, packMG 3 2 (1#1 ++ 0#17) g)
  | .mvpRegen t r q13 g => some (.m, packMG 3 3 (t ++ r ++ ofBit q13 ++ 0#11) g)
  | .mrel g => some (.m, packMG 4 0 0 g)
  | .msig f ofs g => some (.m, packMG 4 1 (signalField f ofs) g)
  | .mwait f g => some (.m, packMG 4 2 (signalField f none) g)
  | .ccopy rl d a b g => some (.c, packCG 1 0 (ofBit rl) 0 (ly4Code d) (ly4Code a) (barCode b) 0 g)
  | .cplane rl d a b g => some (.c, packCG 2 0 (ofBit rl) 0 (ly4Code d) (ly4Code a) (barCode b) 0 g)
  | .cconv rl d a b mode g => some (.c, packCG 3 0 (ofBit rl) 0 (ly4Code d) (ly4Code a) (barCode b) (0#1 ++ mode.code) g)
  | .cgath rl d a b idx g => some (.c, packCG 4 0 (ofBit rl) 0 (ly4Code d) (ly4Code a) (barCode b) (ly4Code idx) g)
  | .cscat rl d a b idx g => some (.c, packCG 4 1 (ofBit rl) 0 (ly4Code d) (ly4Code a) (barCode b) (ly4Code idx) g)
  | .cfill rl d b q15 g => some (.c, packCG 5 0 (ofBit rl) 0 (ly4Code d) 0 (barCode b) (q15Code q15) g)
  | .cdrain rl d t b int mode g => some (.c, packCG 6 0 (ofBit rl) 0 (ly4Code d) (ly4Code t) (barCode b) (ofBit int ++ mode.code) g)
  | .ctxb g => some (.c, packCG 7 0 0 0 0 0 0 0 g)
  | .ctxe g => some (.c, packCG 7 1 0 0 0 0 0 0 g)
  | .cput q15 g => some (.c, packCG 8 0 0 0 0 0 0 (q15Code q15) g)
  | .cputNf q15 g => some (.c, packCG 8 0 0 1 0 0 0 (q15Code q15) g)
  | .cputred q15 g => some (.c, packCG 8 1 0 0 0 0 0 (q15Code q15) g)
  | .cputredNf q15 g => some (.c, packCG 8 1 0 1 0 0 0 (q15Code q15) g)
  | .carm g => some (.c, packCG 9 0 0 0 0 0 0 0 g)
  | .cadd q15 g => some (.c, packCG 9 1 0 0 0 0 0 (q15Code q15) g)
  | .caddNf q15 g => some (.c, packCG 9 1 0 1 0 0 0 (q15Code q15) g)
  | .csend ch n g => some (.c, packCG 0x0a 0 0 0 (ch.extractLsb' 0 4) (ly4Code n) 0 (0#3 ++ ch.extractLsb' 4 1) g)
  | .crecv ch q7 g => some (.c, packCG 0x0a 1 0 0 (ch.extractLsb' 0 4) 0 0 (0#2 ++ ofBit q7 ++ ch.extractLsb' 4 1) g)
  | .crel ch g => some (.c, packCG 0x0a 2 0 0 (ch.extractLsb' 0 4) 0 0 (0#3 ++ ch.extractLsb' 4 1) g)
  | .cstash n slot rc g => some (.c, packCG 0x0b 0 0 0 0 (ly4Code n) slot (q15Code rc) g)
  | .cfetch n slot q7 g => some (.c, packCG 0x0b 1 0 0 (ly4Code n) 0 slot (q15Code q7) g)
  | .cdrop slot g => some (.c, packCG 0x0b 2 0 0 0 0 slot 0 g)
  | .cpref q15 g => some (.c, packCG 0x0b 3 0 0 0 0 0 (q15Code q15) g)
  | .csig f ofs g => some (.c, packMG 0x0c 0 (signalField f ofs) g)
  | .csigNf f ofs g => some (.c, 0x0c#6 ++ 0#4 ++ 1#2 ++ f ++ ofsBit ofs ++ ofsCode ofs ++ 0#3 ++ g)
  | .cwait f g => some (.c, packMG 0x0c 1 (signalField f none) g)
  | .cfence g => some (.c, packCG 0x0c 2 0 0 0 0 0 0 g)
  | .commandComplete _ _ => none
  | .discard _ _ => none
  | .trapEntry _ => none
  | .eccUncorrectable _ _ => none
  | .leaseGrant _ => none
  | .relocationTake _ _ _ => none
  | .postedStorePerform _ _ => none
  | .redPerform _ _ => none
  | .signalArrival _ => none
  | .create _ _ _ => none
  | .bind _ _ _ => none
  | .hostLaunch _ _ _ => none
  | .preempt _ _ _ => none
  | .resume _ _ _ => none
  | .destroy _ _ _ => none
  | .setprio _ _ _ => none
  | .coreAcknowledge _ => none
  | .groupSelect => none
  | .jobStartComplete _ => none
  | .jobEnded _ => none
  | .groupRetire _ => none
  | .weirHeldSubmit => none
  | .transferDecrement _ => none
  | .barrierCompletion _ => none
  | .faultBufferWrite => none
  | .replay _ => none
  | .replayAbort _ => none
  | .hostTlbinvPage _ _ => none
  | .hostTlbinvCtx _ => none
  | .hostTlbinvAll => none
  | .demotion _ _ => none
  | .promotion _ _ => none
  | .sumpMoveComplete _ => none
  | .flitReceive _ _ => none
  | .flitTimeout _ => none
  | .laneLoss _ => none
  | .chctlWrite _ _ => none
  | .culvertDelivery _ _ => none
  | .culvertAck _ => none
  | .windowUpdate _ _ => none
  | .csendTimeout _ => none
  | .entryFire _ => none
  | .entrySend _ => none
  | .qpDelivery _ => none
  | .qpAcknowledgement _ _ => none
  | .qpRefusal _ _ => none
  | .qpRetransmit _ => none
  | .qpEntryTimeout _ => none
  | .reducerStep _ => none
  | .compressionComplete _ => none
  | .grottoPromotionComplete _ => none
  | .dbgStop _ => none
  | .dbgGo _ => none
  | .dbgStep _ => none
  | .debugStopEntered _ => none
  | .debugWrite _ _ _ => none
  | .freeze => none
  | .unfreeze => none
  | .traceSample => none
  | .pcselWrite _ => none
  | .pcvalRead => none
  | .attestationRequest => none
  | .attestationReport => none
  | .powerEvaluation _ => none
  | .powerOnReset _ => none
  | .hostReset _ => none
  | .hostAccess _ _ => none
  | .registerWrite _ _ => none
  | .linkTrainingComplete _ => none

/-- The four slot words of a bundle (R47). -/
def Bundle.slot (b : Bundle) : Slot → Word
  | .s => b.extractLsb' 0 32
  | .v => b.extractLsb' 32 32
  | .m => b.extractLsb' 64 32
  | .c => b.extractLsb' 96 32

/-- The first of two answers. -/
def orDecode (a b : Option Instr) : Option Instr :=
  match a with
  | some i => some i
  | none => b

/-- The instruction of a lone 32-bit word of the opcode table. The table does not name a word's slot and one word can
be an instruction of several slots, so the slots are asked in a fixed order. -/
def decodeWord (w : Word) : Option Instr :=
  orDecode (decode .c w) (orDecode (decode .v w) (orDecode (decode .s w) (decode .m w)))

/-- The instruction the decoder reads from the bits of an opcode-table row: a 32-bit word, or a whole bundle, of which
the first slot that holds an instruction answers.
Log entry 75: DESIGN CHOICE, safe. -/
def decodeTableWord (nbits w : Nat) : Option Instr :=
  let b : Bundle := BitVec.ofNat 128 (w % 2 ^ nbits)
  if nbits ≤ 32 then decodeWord (b.slot .s)
  else if b.slot .v ≠ 0 then orDecode (decode .v (b.slot .v)) (decode .s (b.slot .s))
  else if b.slot .m ≠ 0 then decode .m (b.slot .m)
  else if b.slot .c ≠ 0 then decode .c (b.slot .c)
  else decode .s (b.slot .s)

end

end Sys2Proof
end

