-- ==== Sys2Proof/Config.lean ====
section
/-! DEFINITION. Config.lean: what an implementation fixes and the values the spec leaves open. A constant without a
body is a free value: nothing can be proved about which value it is. -/

namespace Sys2Proof

/-- The package cycle count of a trace record (TIME, R444), by the count of free values drawn.
Log entry 6: DESIGN CHOICE, safe. -/
opaque Config.freeTime : Nat → DWord

/-- A byte of an area of a core image whose record layout R100 does not state, and a spill-area byte of the
projection unit (R424), by the count of free values drawn and the offset. -/
opaque Config.freeByte : Nat → Nat → Byte

/-- A heap entry (value, index) after a program has written the spill area of a BOUND unit (R424), by the count of free
values drawn and its rank. -/
opaque Config.freeEntry : Nat → Nat → Word × Word

/-- The die of a line's home slice, for LPDDR-6 memory, of which the spec does not say which die has which device (R9,
R14). -/
opaque Config.homeDie : Nat → Bool

/-- The lines of one HBM stack: 64 GB in lines of 64 bytes (R6). -/
def Config.stackLines : Nat := 1000000000

/-- The lines of the package's HBM: eight stacks (R6). -/
def Config.hbmLines : Nat := 8 * Config.stackLines

/-- The interleave of HBM, which the spec does not give (R6, R378), as the exchanges of two lines that make it. -/
opaque Config.hbmSwaps : List (Nat × Nat)

/-- The place of an HBM line among the lines of the eight stacks, stack by stack: exchanges of lines can make every order
and no other function, so that each stack holds its 64 GB whatever the interleave (R6). -/
def Config.hbmPlace (line : Nat) : Nat :=
  Config.hbmSwaps.foldl (fun k p =>
    if Config.hbmLines ≤ p.1 ∨ Config.hbmLines ≤ p.2 then k else if k = p.1 then p.2 else if k = p.2 then p.1 else k) line

/-- The SM3 digest of the running firmware (R458). -/
opaque Config.firmwareDigest : BitVec 256

/-- The SM3 digest of the configuration block, whose byte layout the spec does not give (R455, R458). -/
opaque Config.configDigest : BitVec 256

/-- The PUF public key, x then y (R455, R458). -/
opaque Config.pufPublicKey : BitVec 512

/-- The SM2 signature (r, s) under the PUF private key over a message, for the n-th signing (R456, R458). -/
opaque Config.sm2Sign : Nat → List Byte → BitVec 512

/-- The address ranges of R315, each with its first address and the address after its last. -/
def Config.hbmEnd : Nat := 0x7735940000
/-- LPDDR-6. -/
def Config.lpddrBase : Nat := 0x10000000000
/-- LPDDR-6. -/
def Config.lpddrEnd : Nat := 0x1EE6B280000
/-- CXL. -/
def Config.cxlBase : Nat := 0x100000000000
/-- The most CXL memory two expanders may total, in bytes (R14, R364). -/
def Config.cxlMax : Nat := 16000000000000
/-- Host memory through SCL. -/
def Config.hostBase : Nat := 0x1000000000000
/-- Host memory through SCL. -/
def Config.hostEnd : Nat := 0x4000000000000
/-- The aperture window. -/
def Config.apertureBase : Nat := 0x7F00000000000
/-- The aperture window. -/
def Config.apertureEnd : Nat := 0x8000000000000

end Sys2Proof
end

