-- ==== Sys2Proof/Machine/Types.lean ====
section
/-! DEFINITION. Machine/Types.lean: the kinds of value the numbers chapter names: floating-point formats, exact
values, and the parameters of a format (R21 to R28). -/

namespace Sys2Proof.Machine

/-- The floating-point formats of R23. -/
inductive FFmt where
  | f32 | f16 | bf16 | e5m2 | e4m3 | e2m1
deriving DecidableEq, Repr

/-- An exact value: a NaN, a signed infinity, or (-1)^s m 2^e, where m = 0 is a signed zero (R23, R27). -/
inductive Val where
  | nan
  | inf (s : Bool)
  | fin (s : Bool) (m : Nat) (e : Int)
deriving DecidableEq, Repr

/-- A 256-byte register: 64 lanes of 32 bits or 128 elements of 16 (R181). -/
abbrev VReg := BitVec 2048

/-- The sticky flags an operation raises, laid out as AFLAGS bits 5:0 (R37). -/
abbrev Flags := BitVec 6

/-- The numerics profiles of R41. -/
inductive Profile where
  | np1 | np2 | np3 | np4
deriving DecidableEq, Repr

/-- The formats an element of memory, of a record or of an operand can have, with the codes the records give them
(R223, R320). -/
inductive EFmt where
  | f32 | f16 | bf16 | e5m2 | e4m3 | e2m1 | int4 | int8 | int16 | int32 | cb4 | raw8 | raw16 | raw32 | raw64
deriving DecidableEq, Repr

/-- The little-endian value of bytes (R1). -/
def leNat : List Byte → Nat
  | [] => 0
  | x :: xs => x.toNat + 256 * leNat xs

/-- The n little-endian bytes of a value (R1). -/
def leBytes : Nat → Nat → List Byte
  | 0, _ => []
  | n + 1, x => BitVec.ofNat 8 x :: leBytes n (x / 256)

end Sys2Proof.Machine
end

