-- ==== Sys2Proof/Machine/CoreTypes.lean ====
section
/-! DEFINITION. Machine/CoreTypes.lean: the state of one core: the sequencer's registers, the engines' registers, the
command queues and the park area, the local spaces and what a cut or a fault leaves behind (R58, R88, R91, R100,
R133 to R146, R156, R172, R178, R179, R218, R223, R231). -/

namespace Sys2Proof.Machine

/-- Bytes by address: addresses strictly rising, no entry 0, which is what an unlisted address reads as. -/
abbrev Mem := List Host.Cell

/-- Values by key: keys strictly rising, no entry equal to the default value. -/
abbrev Sparse (β : Type) := List (Nat × β)

/-- The causes of R89. -/
inductive Cause where
  | illegal | poolFetch | priv | misalign | page | window | conflict | handle | stack | overlap | arith | heapSpill
  | barrier | format | software | brk | queue | guard | launch | profile | ecc | link
deriving DecidableEq, Repr

/-- The special registers a program reads and writes by number (R58), those that are not another piece of state. -/
structure SRegs where
  sp : DWord
  sbase : DWord
  slimit : DWord
  tvec : DWord
  tpc : DWord
  tcause : DWord
  tinfo : DWord
  tqueue : DWord
  tseq : DWord
  aflags : DWord
  afmask : DWord
  loopst : DWord
  sloopst : DWord
  saflags : DWord
  l0s : DWord
  l0e : DWord
  l0c : DWord
  l1s : DWord
  l1e : DWord
  l1c : DWord
  sl0s : DWord
  sl0e : DWord
  sl0c : DWord
  sl1s : DWord
  sl1e : DWord
  sl1c : DWord
  lix : Vector DWord 8
  tag : DWord
  stage : DWord
  wver : DWord
  wbase : DWord
  slipmax : DWord
  lrun : DWord
deriving DecidableEq, Repr

/-- Every register of SRegs at its job-start value: zero, but SLIPMAX 32 (R135) and LRUN 16 (R221). -/
def SRegs.start : SRegs where
  sp := 0
  sbase := 0
  slimit := 0
  tvec := 0
  tpc := 0
  tcause := 0
  tinfo := 0
  tqueue := 0
  tseq := 0
  aflags := 0
  afmask := 0
  loopst := 0
  sloopst := 0
  saflags := 0
  l0s := 0
  l0e := 0
  l0c := 0
  l1s := 0
  l1e := 0
  l1c := 0
  sl0s := 0
  sl0e := 0
  sl0c := 0
  sl1s := 0
  sl1e := 0
  sl1c := 0
  lix := Vector.replicate 8 0
  tag := 0
  stage := 0
  wver := 0
  wbase := 0
  slipmax := 32
  lrun := 16

/-- A guard pair (R140): RESOLVED with the even slot's value, or OPEN. -/
structure GuardPair where
  isOpen : Bool
  even : Bool
deriving DecidableEq, Repr

/-- The snapshot a queue entry carries (R134). -/
structure Snapshot where
  ly : Vector (BitVec 512) 8
  bd : Vector DWord 8
  gn : Vector (BitVec 512) 8
  tag : DWord
  stage : DWord
  wver : DWord
  wbase : DWord
  lrun : DWord
deriving DecidableEq, Repr

/-- Where a queue entry stands: not started; started and stopped at a restart point; executed, its completion to
come; or posted, so that later commands of its queue may start (R374). -/
inductive Phase where
  | waiting | stopped | executed | posted
deriving DecidableEq, Repr

/-- The class of the head of a slot that did not go on (R154, R155): blocked on an object, or waiting on an engine, the
scoreboard or memory. -/
inductive Head where
  | issuing
  | waitFlag (n : BitVec 7)
  | waitScoreboard
  | waitEngine
deriving DecidableEq, Repr

/-- A command of an engine queue (R133, R134), with its progress (R91, R100). -/
structure Cmd where
  instr : Instr
  iseq : Word
  snap : Snapshot
  phase : Phase
  /-- MODEL: what its engine's last attempt found it held on, and its progress then (R154) -/
  held : Option (Nat × Head)
  /-- what its start has read: the indices or the codebook table of a copy command (R254, R323) -/
  table : List Nat
  /-- the next chunk or K-step (R239, R247, R430) -/
  progress : Nat
  /-- the queue entries it has popped, in the order of its pops (R137, R262) -/
  popped : List DWord
  /-- the angle table entries it has read, of A then of B (R418) -/
  angles : List Word
  /-- its guard has been read true: its group has been aborted, and it runs again without reading it (R142, R262) -/
  consumed : Bool
  /-- a sibling has taken it, so it is offered no more (R153) -/
  relocated : Bool
  /-- it stands inside an open transaction group (R259) -/
  inGroup : Bool
  /-- the posted entry it stands for has failed (R374) -/
  failed : Bool
  /-- it has faulted, and stands at its restart point until the cut (R91) -/
  faulted : Bool
  /-- flags to OR into AFLAGS at its completion (R39) -/
  flags : Flags
  /-- queue registers to push at its completion (R137) -/
  pushes : List (Nat × DWord)
  /-- the barrier count to decrement when it completes: handle, and true for OUTBOUND (R258) -/
  barrier : Option (BitVec 24 × Bool)
deriving DecidableEq, Repr

/-- What parked a command or a posted store: a trap's cut or a stop's cut (R100, R101). -/
inductive ParkedBy where
  | trap | stop
deriving DecidableEq, Repr

/-- A parked command: its queue, the command and what parked it (R91). -/
structure Parked where
  eng : Eng
  cmd : Cmd
  by_ : ParkedBy
deriving DecidableEq, Repr

/-- The reduction atomics (R128). -/
inductive RedOp where
  | add | and | or | xor | max | min | fmax | fmin
deriving DecidableEq, Repr

/-- What a write does at its home with each byte: the whole of it, bits 3:0 or bits 7:4 alone (R22), or a reduction
(R128). -/
inductive HomeOp where
  | store | low | high
  | red (op : RedOp)
deriving DecidableEq, Repr

/-- A cached leaf (R316 to R319): context, first VA and size of its page, the leaf entry and whether its D is known
set. -/
structure TlbEntry where
  ctx : CtxId
  va : BitVec 57
  size : Nat
  leaf : DWord
  pteAddr : BitVec 51
deriving DecidableEq, Repr

/-- Where the bytes of a translated address lie: in memory; in a compressed page, by the leaf's PA and the offset; in
the view of an aperture (R333, R338). -/
inductive Loc where
  | plain (pa : Nat)
  | packed (leafPa off : Nat)
  | view (n off : Nat)
deriving DecidableEq, Repr

/-- A posted S-slot store or `red.*` on its way to its home, or parked (R115, R128, R166). -/
structure Posted where
  va : BitVec 57
  /-- its translation, completed at issue -/
  leaf : TlbEntry
  loc : Loc
  width : Nat
  data : DWord
  /-- none for a store -/
  op : Option RedOp
  iseq : Word
  parked : Option ParkedBy
  /-- its home holds it until the page's promotion (R337) -/
  held : Bool
deriving DecidableEq, Repr

/-- A path stopped on a replayable fault (R322, R323): true for MIGRATING, else NOT_PRESENT; the VA and the access
(0 read, 1 write, 2 fetch) of its fault-buffer entry (R325). -/
structure PathStop where
  migrating : Bool
  va : BitVec 57
  acc : BitVec 2
  iseq : Word
deriving DecidableEq, Repr

/-- Where the sequencer stands: it may execute its next bundle; it has issued `end` and drains (R299), having
issued it at an address. -/
inductive SeqState where
  | fetching
  | draining (at_ : DWord)
deriving DecidableEq, Repr, Inhabited

/-- Why a meaning stops short of its effect: a precise trap with its TINFO (R89, R90); a replayable outcome on a page
(R322), with the access of R325; a fatal event (R87); a wait in class WAIT-FLAG(n), on the scoreboard or on an engine
(R154). Whatever the meaning did before it is undone. -/
inductive Stop where
  | trap (cause : Cause) (info : DWord)
  | notPresent (va : BitVec 57) (acc : BitVec 2)
  | migrating (va : BitVec 57) (acc : BitVec 2)
  | fatal (code : Byte)
  | flag (n : Nat)
  | scoreboard
  | engine
deriving DecidableEq, Repr

/-- The spaces a footprint has granules in (R113, R183): XS, WS, accumulator rows (row r of tile t is at
256·(64·t + r)), global memory, the projection unit (R421), URS rows (row r is at 256·r), and the vector engine's other
registers (O0 to O15, LRL, MX0 to MX3 and the conditional stream, granules 0 to 21). -/
inductive Space where
  | xs | ws | acc | glob | proj | urs | eng
deriving DecidableEq, Repr

/-- A range of a footprint: [lo, hi), and whether the command writes it. -/
structure Range where
  space : Space
  lo : Nat
  hi : Nat
  write : Bool
deriving DecidableEq, Repr

/-- What the last S word did to its bundle (R48, R174): nothing executed yet, completed, or did not complete. -/
inductive Issue where
  | none_ | done | notDone
deriving DecidableEq, Repr

/-- A barrier operation waiting at a home (R308): the core that issued it, its kind and its operand. -/
inductive BarKind where
  | init (expect : BitVec 12) (action : Word)
  | arrive (g : BitVec 4)
  | wait (g : BitVec 4)
  | xin (n : BitVec 24)
  | xout (n : BitVec 24)
  | decIn
  | decOut
deriving DecidableEq, Repr

/-- A barrier operation with its issuer. -/
structure BarOp where
  core : Fin 128
  handle : BitVec 24
  kind : BarKind
  /-- a wait of the generation then current, held by an ARMED barrier: it blocks -/
  blocked : Bool
deriving DecidableEq, Repr

/-- How an S-slot barrier instruction that its home keeps stands at its core (R306, R308): `pending` with the engine
words of its bundle, which issues when the home has performed it. -/
inductive BarWait where
  | idle
  | pending (words : List (Eng × Instr))
  | faulted
  | gone
deriving DecidableEq, Repr

/-- A staged 64-byte line of an open transaction group (R22, R259): its physical address, its VA, the bytes staged and
which of their nibbles are: bit 2k for bits 3:0 of byte k, bit 2k + 1 for bits 7:4. -/
structure StagedLine where
  pa : BitVec 51
  va : BitVec 57
  /-- the translation of its first write -/
  leaf : TlbEntry
  bytes : BitVec 512
  mask : BitVec 128
deriving DecidableEq, Repr

/-- An open transaction group (R259 to R262). -/
structure TxGroup where
  lines : List StagedLine
  /-- the commands of the group that have completed, from its `ctxb` on -/
  members : List Cmd
  /-- deferred barrier decrements, in program order -/
  decrements : List (BitVec 24 × Bool)
deriving DecidableEq, Repr

/-- The vector engine's own state (R178, R179). -/
structure VecState where
  /-- URS rows by number -/
  urs : Sparse VReg
  vview : Byte
  wview : Byte
  o : Vector VReg 16
  lrl : VReg
  mx : Vector Word 4
  cond : List Word
deriving DecidableEq, Repr

/-- The vector engine's state at job start (R105). -/
def VecState.start : VecState where
  urs := []
  vview := 0
  wview := 0
  o := Vector.replicate 16 0
  lrl := 0
  mx := Vector.replicate 4 0
  cond := []

/-- One row of the projection unit: its heap of (logit, index) pairs, its normaliser and its label logit (R421 to
R426). -/
structure ProjRow where
  heap : List (Word × Word)
  m : Word
  s : Word
  label : Word
  llog : Word
  lfound : Bool
deriving DecidableEq, Repr

/-- The projection unit (R424, R426): UNBOUND is none; a binding holds its snapshot records, profile, descriptor and
next block. -/
structure ProjUnit where
  lya : BitVec 512
  lyw : BitVec 512
  prof : BitVec 4
  desc : BitVec 512
  descAddr : Word
  next : Nat
  rows : List ProjRow
  /-- the free values its spill area holds (R424) -/
  spill : Nat
  /-- while it keeps ranks there, the entries it has inserted, and the words that a program has written there -/
  seen : List (Word × Word)
  written : List Word
deriving DecidableEq, Repr

/-- A carm watch (R375). -/
structure Watch where
  cn : BitVec 12
  thresh : DWord
  flag : BitVec 5
deriving DecidableEq, Repr

/-- A debug stop of a core (R438, R439). -/
inductive DebugStop where
  | running
  | stopping (reason : BitVec 4)
  | stopped (reason : BitVec 4)
  | stepping
deriving DecidableEq, Repr

/-- The job a core holds (R274, R276, R281, R296). -/
structure Job where
  ctx : CtxId
  slot : Nat
  /-- job index and partition size -/
  j : Nat
  p : Nat
  starting : Bool
  preempted : Bool
  ended : Bool
  /-- the stop of R99 has reached the core and it has not acknowledged -/
  stopping : Bool
  /-- a trap has escalated and the job waits for the drain -/
  escalated : Bool
  code : BitVec 57
  nbun : Nat
  poolmap : BitVec 57
  khandle : Word
  param : DWord
  xsb : Nat
  wsb : Nat
  acct : Nat
  nbar : Nat
  /-- levels: (kind, extent), and PERM restricted to them -/
  levels : List (BitVec 2 × Nat)
  perm : List Nat
  tiles : Nat
  left : Nat
  /-- next walk index -/
  nextWalk : Nat
  sliceLo : Nat
  sliceHi : Nat
  /-- window k: output and byte range [lo, hi), absent or empty when none -/
  windows : List (Option (Nat × Nat × Nat))
deriving DecidableEq, Repr

/-- One core. -/
structure Core where
  job : Option Job
  pc : DWord
  x : Vector DWord 32
  sr : SRegs
  iseq : Word
  seq : SeqState
  /-- the `end` whose drain a trap interrupted (R299) -/
  drainAt : Option DWord
  head : Head
  /-- the class of the S head when a stop reached it, which its image records (R296) -/
  stopHead : Head
  issue : Issue
  barWait : BarWait
  vq : List Cmd
  mq : List Cmd
  cq : List Cmd
  q : Vector (List DWord) 16
  guards : Vector GuardPair 8
  flags : Vector Byte 32
  /-- held increments in arrival order: flag and amount (R146) -/
  heldFlags : List (BitVec 5 × Byte)
  ly : Vector (BitVec 512) 8
  bd : Vector DWord 8
  gn : Vector (BitVec 512) 8
  vec : VecState
  /-- accumulator rows by tile · 64 + row -/
  acc : Sparse VReg
  lyconf : Word
  xs : Mem
  ws : Mem
  posted : List Posted
  parked : List Parked
  tx : Option TxGroup
  proj : Option ProjUnit
  watches : List Watch
  barHeld : List BarOp
  sStop : Option PathStop
  mStop : Option PathStop
  cStop : Option PathStop
  /-- faults found and not yet taken: queue, cause, TINFO, ISEQ (R91, R92) -/
  pendingTrap : Option (Option Eng × Cause × DWord × Word)
  /-- the sibling that executes an offered command of V, of C, and the command's issue sequence (R152) -/
  takenV : Option (Fin 128 × Word)
  takenC : Option (Fin 128 × Word)
  debug : DebugStop
  /-- its debug stop is one of the whole context (R440) -/
  dbgCtx : Bool
  dbgArm : Bool
  dbgStopCtx : Bool
  /-- issue sequence at which a STEP ends, and whether its bundle has issued (R441) -/
  stepTo : Option Word
  perf : DWord
  stalls : Sparse DWord
  /-- MODEL: the free values that the areas of its image without a stated layout were written with (R100) -/
  imageKey : Nat
deriving DecidableEq, Repr

end Sys2Proof.Machine
end

