-- ==== Sys2Proof/Machine/PkgTypes.lean ====
section
/-! DEFINITION. Machine/PkgTypes.lean: the package's tables for contexts, launches, groups, live outputs,
translation and Sump (R80 to R87, R120, R123, R286 to R298, R320 to R345). -/

namespace Sys2Proof.Machine

/-- The states of a context (R83). -/
inductive CtxState where
  | free | loaded | runnable | running | faultWait | draining | saved | trapped | error | retired
deriving DecidableEq, Repr

/-- The reason of a drain (R83). -/
inductive DrainReason where
  | save | trap | destroy
deriving DecidableEq, Repr

/-- A scale-map register (R320). -/
structure SmapEntry where
  valid : Bool
  dbase : BitVec 57
  dlimit : BitVec 57
  sbase : BitVec 57
  g : BitVec 2
  cb : BitVec 6
deriving DecidableEq, Repr

/-- The kinds of live output (R120). -/
inductive OutKind where
  | sliced | reduce | priv | exchange
deriving DecidableEq, Repr

/-- A live output entry (R120); an entry in the table is VALID. -/
structure LiveOut where
  base : BitVec 57
  limit : Nat
  kind : OutKind
  outidx : BitVec 3
  /-- the phase barrier's handle when PHB is 1 -/
  phbar : Option (BitVec 24)
  slot : Nat
  cn : BitVec 12
  complete : DWord
  /-- MODEL: the number of the registration or of its last tag reset (R123, R125) -/
  reg : Nat
deriving DecidableEq, Repr

/-- A line tag (R123): phase and core of the last write, of the last read (0xFE several, 0xFF none) and the operation
of the `red.*` in phase WPH; the registration it was set under. -/
structure LineTag where
  wph : Byte
  wr : Byte
  rph : Byte
  rd : Byte
  rop : BitVec 4
  /-- EXCHANGE: one more than the number of the first stream that delivered to the line (R371), 0 for none -/
  stream : Nat
  /-- the registration, or tag reset (R125), it was set under -/
  reg : Nat
deriving DecidableEq, Repr

/-- A launch record (R286). -/
structure LaunchRec where
  khandle : Word
  gprio : Byte
  phb : Bool
  pblen : Nat
  param : DWord
  part : BitVec 128
  wait : BitVec 256
  set : BitVec 256
deriving DecidableEq, Repr

/-- What a Weir pick adds to a launch record (R388): stage, step kind (0 F, 1 B, 2 W), tag and its record's sequence,
version and slot base. -/
structure WeirPick where
  stage : BitVec 2
  step : BitVec 2
  tag : Half
  asn : Nat
  wver : DWord
  wbase : DWord
deriving DecidableEq, Repr

/-- A record in the pending pool or a spill queue (R291, R297): the context, the record, its depth, the parameter copy
it holds, DESC as resolved at submission, and for a pool entry when it became READY. -/
structure PoolRec where
  ctx : CtxId
  record : LaunchRec
  depth : Nat
  /-- logical index and number of the parameter copy (R298) -/
  copy : Option (BitVec 7 × Nat)
  desc : BitVec 57
  /-- the ready count r, none while PENDING -/
  ready : Option Nat
  reserve : Bool
  pick : Option WeirPick
deriving DecidableEq, Repr

/-- The states of a group that holds a dispatch slot (R291). -/
inductive GroupState where
  | dispatching | running | draining
deriving DecidableEq, Repr

/-- A group in a dispatch slot (R291 to R295). -/
structure Group where
  ctx : CtxId
  src : PoolRec
  state : GroupState
  /-- the moment of its selection, which orders placement (R294) -/
  seqno : Nat
  /-- what its dispatch has read, by address and length, the kernel-table entry by handle and 0: each is read once
  (R268, R323) -/
  reads : List ((Nat × Nat) × Nat)
  /-- it has been validated and its outputs are registered -/
  registered : Bool
  cosched : Bool
  nbar : Nat
  /-- the jobs it will start, by logical index, once it is validated -/
  jobs : List (Fin 128 × Job)
  /-- live outputs that wait for free entries of the table (R120) -/
  outs : List LiveOut
  /-- cores given to it and not yet started -/
  given : List (Fin 128)
  /-- cores whose job has been placed -/
  placed : List (Fin 128)
  /-- cores whose job has reached ENDED -/
  ended : List (Fin 128)
deriving DecidableEq, Repr

/-- A path of the package, not of a core, stopped on a replayable fault (R323): a dispatch read of a slot, a LAUNCH
command's read. -/
inductive PkgPath where
  | dispatch (slot : Nat)
  | mailbox
  | qpSource (qp : BitVec 12)
  | qpDelivery (qp : BitVec 12)
  | culvert (ch : BitVec 5)
deriving DecidableEq, Repr

/-- A mailbox command in the queue or under execution (R84, R361, R362). -/
inductive MbOp where
  | create | bind | launch | preempt | resume | destroy | setprio
deriving DecidableEq, Repr

/-- A context slot (R80, R81, R83). -/
structure Context where
  state : CtxState
  ctxid : CtxId
  prio : Byte
  cls : BitVec 2
  priv : Bool
  record : BitVec 51
  ptroot : BitVec 51
  seed : DWord
  image : BitVec 57
  cores : BitVec 128
  shapes : BitVec 57
  shapen : Nat
  scalemap : BitVec 57
  codebooks : BitVec 57
  spillq : BitVec 57
  spilln : Nat
  qpBase : Nat
  qpCount : Nat
  cnBase : Nat
  cnCount : Nat
  chBase : Nat
  chCount : Nat
  ev : BitVec 256
  /-- live output entries by number 0 to 63 -/
  outs : Sparse (Option LiveOut)
  smap : List SmapEntry
  drain : DrainReason
  /-- cores whose acknowledgement the collector still awaits -/
  awaiting : List (Fin 128)
  replayRecorded : Bool
  /-- recorded while DRAINING: the last unretired group has retired -/
  quiet : Bool
  status : Half
  /-- pairs of 4 KiB page and access with an outstanding KIND 0 entry (R326) -/
  outstanding : List (Nat × BitVec 2)
  spill : List PoolRec
  /-- the records it has ever spilled, which says where the next one goes (R297) -/
  spilled : Nat
  /-- parameter copies held: logical index and number (R298) -/
  copies : List (BitVec 7 × Nat)
  ktbase : BitVec 57
  ktlen : Nat
  /-- bits awaited by blocked `ev.wait`s: core and mask (R290) -/
  evWaits : List (Fin 128 × BitVec 256)
  dgctl : DWord
  dg : BitVec 256
  /-- jobs stopped by the collector: the core each was on and what the image's areas without a stated layout hold
  (R99 to R101) -/
  saved : List (Fin 128 × Core)
deriving DecidableEq, Repr

/-- The accesses a translation serves (R316): a read, a write, a `red.*`, a fetch. -/
inductive Access where
  | load | store | red | fetch
deriving DecidableEq, Repr

/-- The outcome of a walk (R316): a leaf, NOT_PRESENT, MIGRATING, PAGE of kind 4, or a table entry outside TIER 0 and
TIER 1, which is fatal (R311). -/
inductive WalkOut where
  | leaf (e : TlbEntry)
  | absent
  | migrating
  | page
  | badTable
deriving DecidableEq, Repr

/-- A cached table entry (R312, R318): its context, the level it stands at, the part of the VA that leads to it, and the
next table's PA. -/
structure TableEntry where
  ctx : CtxId
  level : Nat
  index : Nat
  next : BitVec 51
deriving DecidableEq, Repr

/-- What an invalidation covers: a page of a context, a context, everything (R344, R345). -/
inductive InvScope where
  | page (id : CtxId) (va : Nat)
  | ctx (id : CtxId)
  | all
deriving DecidableEq, Repr

/-- A use of a cached translation that an invalidation waits for (R344): a posted access of a core by its issue sequence,
a line that a core's group stages, a line of a reducer's step by its queue pair, a write that the home of a page holds. -/
inductive CopyUse where
  | posted (core : Fin 128) (iseq : Word)
  | staged (core : Fin 128) (line : BitVec 51)
  | step (rqp : BitVec 12) (line : BitVec 51)
  | held (pte : BitVec 51)
deriving DecidableEq, Repr

/-- A write that its home holds (R337): where in the compressed page's group, its bytes or the operand of a `red.*`, and
the command that waits for it, by its core and issue sequence; none waits for a write of the device. -/
structure HeldWrite where
  pa : Nat
  bytes : List Byte
  op : HomeOp
  by_ : Option (Fin 128 × Word)
deriving DecidableEq, Repr

/-- A page in Sump's in-flight table (R331): its context, VA and PTE address, whether the move promotes, and the writes
held for it (R337). -/
structure SumpMove where
  ctx : CtxId
  va : BitVec 57
  pte : BitVec 51
  promote : Bool
  /-- it stands in the table; false while held writes wait for a free entry -/
  entered : Bool
  /-- the held writes in arrival order -/
  held : List HeldWrite
deriving DecidableEq, Repr

/-- A managed range (R330). -/
structure SumpRange where
  base : DWord
  lim : DWord
  ctl : DWord
deriving DecidableEq, Repr

/-- A transform aperture's registers (R339). -/
structure Aperture where
  ctl : DWord
  buf : DWord
  size : DWord
  geo : DWord
deriving DecidableEq, Repr

/-- A fault-buffer entry waiting to be written (R324, R325): its first three words; SEQ is added when it is written. -/
structure FbEntry where
  w0 : DWord
  w1 : DWord
  w2 : DWord
deriving DecidableEq, Repr

/-- A held remote signal on its way (R146, R147): target core and job slot, flag, amount, and the sender, whose signals
to one flag arrive in order. -/
structure Signal where
  target : Fin 128
  slot : Nat
  flag : BitVec 5
  amount : Byte
  sender : Fin 128
deriving DecidableEq, Repr

/-- A barrier decrement on its way to its home (R258). -/
structure Decrement where
  handle : BitVec 24
  outbound : Bool
  slot : Nat
  core : Fin 128
deriving DecidableEq, Repr

end Sys2Proof.Machine
end

