-- ==== Sys2Proof/Machine/LinkTypes.lean ====
section
/-! DEFINITION. Machine/LinkTypes.lean: the link units, Weir and Grotto: channel endpoints, queue pairs, counters'
entries, the reducers' steps, the stages and the stash entries (R346 to R408). -/

namespace Sys2Proof.Machine

/-- The state of a port (R348). -/
inductive PortState where
  | down | training | up
deriving DecidableEq, Repr

/-- A torus, Levee or CXL port (R15, R348): its state, its retry and FEC counts and whether a CRC failure waits for
its replay (R347). -/
structure Port where
  state : PortState
  retry : Half
  feccor : Half
  replaying : Bool
deriving DecidableEq, Repr

/-- A port in a state, its counts at their reset values (R348). -/
def Port.fresh (x : PortState) : Port := { state := x, retry := 0, feccor := 0, replaying := false }

/-- The state of a receive slot (R352), with the sender's sequence and tag once FILLED. -/
inductive SlotState where
  | empty
  | filled (seq : Word) (tag : Half)
  | held
deriving DecidableEq, Repr

/-- A channel endpoint (R350): its registers as the host wrote them, its state and sequences. -/
structure Channel where
  ctl : DWord
  peer : DWord
  ring : DWord
  cn : DWord
  /-- 0 DISABLED, 1 ACTIVE, 2 ERROR -/
  state : BitVec 2
  /-- WLIM or RLSEQ -/
  hi : Word
  /-- SSEQ or RSEQ -/
  lo : Word
  /-- receive slots by number; an unlisted slot is EMPTY -/
  slots : Sparse SlotState
  /-- the HELD slots, oldest first -/
  heldSlots : List Nat
  /-- a delivery that waits on a replayable fault or for a Weir record (R352, R385) -/
  waiting : Option CulvertMsg
  waitVa : Option (BitVec 57)
  /-- a delivery of which the home of a compressed page holds writes (R337): its slot is not yet FILLED -/
  landing : Option CulvertMsg
  /-- a send endpoint whose `csend` awaits its acknowledgement: the core that issued it -/
  unacked : Option (Fin 128)
deriving DecidableEq, Repr

/-- Where a posted entry stands (R368, R369). -/
inductive EntryState where
  | waiting
  | reading
  | stopped (va : BitVec 57)
  | sent (seq : Word)
deriving DecidableEq, Repr

/-- A posted work entry (R367, R368): the descriptor it copied, who posted it and where it stands. -/
structure WorkEntry where
  desc : BitVec 512
  core : Fin 128
  slot : Nat
  iseq : Word
  red : Bool
  state : EntryState
  /-- the source's bytes, once they have been read -/
  bytes : List Byte
deriving DecidableEq, Repr

/-- A queue pair (R366). -/
structure Qp where
  /-- 0 UNBOUND, 1 BOUND, 2 ERROR -/
  state : BitVec 2
  peer : BitVec 26
  pqp : BitVec 12
  sseq : Word
  aseq : Word
  rseq : Word
  /-- entries posted and not completed, oldest first -/
  entries : List WorkEntry
  /-- a delivery that waits on a replayable fault (R371) -/
  waiting : Option QpMsg
  waitVa : Option (BitVec 57)
deriving DecidableEq, Repr

/-- A reduction step (R378): the part of one delivery that falls in a stack: its lines' addresses, each with its 64
delivered bytes, and the translations they were made with. The first 64 steps of a stack are its reducer's queue; the
others stand in their port's flit window. -/
structure RedStep where
  stack : Nat
  lines : List (BitVec 51 × BitVec 512)
  leaves : List TlbEntry
  /-- the receiving queue pair whose delivery it is a part of -/
  rqp : BitVec 12
  bf16 : Bool
deriving DecidableEq, Repr

/-- What the package sends out through its ports (R355 to R357, R368 to R370). In a queue-pair entry that is sent,
`peer` says where it goes: the PEER of its queue pair.
Log entry 88: DESIGN CHOICE, safe. -/
inductive Outgoing where
  | culvert (peer : DWord) (m : CulvertMsg)
  | culvertAck (peer : DWord) (seq : Word)
  | culvertRefusal (peer : DWord) (seq : Word)
  | window (peer : DWord) (wlim : Word)
  | qpEntry (m : QpMsg)
  | qpAck (peer : BitVec 26) (pqp : BitVec 12) (seq : Word)
  | qpRefusal (peer : BitVec 26) (pqp : BitVec 12) (seq : Word)
  | flitReplay (port : Nat)
deriving DecidableEq, Repr

/-- The states of a Weir record (R386). -/
inductive RecState where
  | arrivedF | fRunning | stashed | arrivedB | bRunning | wPending | wRunning
deriving DecidableEq, Repr

/-- A Weir record (R384). -/
structure WeirRec where
  tag : Half
  asn : Nat
  state : RecState
  bpend : Bool
  /-- the version it holds, from its F pick on -/
  held : Option Nat
  /-- its F pick decremented WARM (R384, R388) -/
  warmed : Bool
  /-- the moment of its B arrival, which orders the B queue -/
  since : Nat
deriving DecidableEq, Repr

/-- A source of F arrivals (R384, R385): a core or a Culvert endpoint. -/
inductive FSource where
  | core (lidx : BitVec 7)
  | channel (ch : BitVec 5)
deriving DecidableEq, Repr

/-- A stage of Weir (R384, R390, R391, R396). -/
structure WeirStage where
  sd : BitVec 512
  valid : Bool
  recs : List WeirRec
  nextAsn : Nat
  infl : Nat
  warm : Nat
  fsrc : Option FSource
  halt : Bool
  head : Nat
  /-- the highest published version -/
  published : Nat
  /-- slot k serves versions lo to hi, or none -/
  slots : List (Option (Nat × Nat))
  /-- the slot reserved by `mb.ver.new` and the dispatch slot of the group that did -/
  reserved : Option (Nat × Nat)
  /-- the marker recorded and not applied (R396) -/
  marker : Option Nat
  /-- tags named to Grotto after the last evaluation (R393) -/
  lookahead : List Half
  /-- unretired picked groups -/
  picked : Nat
deriving DecidableEq, Repr

/-- Weir (R381): the context it is bound to, its rows and stages, the picks held for want of room, its event count. -/
structure Weir where
  ctx : Option CtxId
  rows : List DWord
  stages : List WeirStage
  held : List PoolRec
  clock : Nat
deriving DecidableEq, Repr

/-- The states of a stash entry (R401); RELEASED is the absence of an entry. -/
inductive StashState where
  | placing | resident | compressing | spilled | dropped | prefetching | ready
deriving DecidableEq, Repr

/-- A stash entry (R400, R401): its key code, its bytes where they are kept as frames or as an encoded image, and its
placing job. -/
structure StashEntry where
  key : BitVec 22
  state : StashState
  bytes : Nat
  recomputable : Bool
  slot : Nat
  core : Fin 128
  /-- HBM frames it occupies, by frame number -/
  frames : List Nat
  /-- page groups it occupies, by physical address -/
  groups : List (BitVec 51)
  /-- SPILLED, with a prefetch requested that waits for free frames (R403) -/
  wantFrames : Bool
  /-- MODEL: pages whose blocks found no room in their page group, by frame -/
  kept : List (Nat × List Byte)
deriving DecidableEq, Repr

/-- Grotto (R399, R400). -/
structure Grotto where
  ctl : DWord
  hbase : DWord
  hlim : DWord
  clim : DWord
  entries : List StashEntry
deriving DecidableEq, Repr

end Sys2Proof.Machine
end

