-- ==== Sys2Proof/Machine/Sm3.lean ====
section
/-! DEFINITION. Machine/Sm3.lean: the SM3 hash that R450 and R458 name; the spec does not define it, and the model takes
it from GB/T 32905 (PRESUMED). -/

namespace Sys2Proof.Machine

/-- The initial value. -/
def sm3Init : List Word :=
  [0x7380166F, 0x4914B2B9, 0x172442D7, 0xDA8A0600, 0xA96F30BC, 0x163138AA, 0xE38DEE4D, 0xB0FB0E4E]

/-- P0. -/
def sm3P0 (x : Word) : Word := x ^^^ x.rotateLeft 9 ^^^ x.rotateLeft 17

/-- P1. -/
def sm3P1 (x : Word) : Word := x ^^^ x.rotateLeft 15 ^^^ x.rotateLeft 23

/-- The message words W 0 to W 67, extended one at a time; the list holds the latest first. -/
def sm3Expand : Nat → List Word → List Word
  | 0, w => w
  | n + 1, w =>
    let at_ := fun k => w.getD (k - 1) 0
    let x := sm3P1 (at_ 16 ^^^ at_ 9 ^^^ (at_ 3).rotateLeft 15) ^^^ (at_ 13).rotateLeft 7 ^^^ at_ 6
    sm3Expand n (x :: w)

/-- One round on the registers A to H. -/
def sm3Round (j : Nat) (v : List Word) (w w' : Word) : List Word :=
  match v with
  | [a, b, c, d, e, f, g, h] =>
    let t : Word := if j < 16 then 0x79CC4519 else 0x7A879D8A
    let ss1 := (a.rotateLeft 12 + e + t.rotateLeft (j % 32)).rotateLeft 7
    let ss2 := ss1 ^^^ a.rotateLeft 12
    let ff := if j < 16 then a ^^^ b ^^^ c else (a &&& b) ||| (a &&& c) ||| (b &&& c)
    let gg := if j < 16 then e ^^^ f ^^^ g else (e &&& f) ||| (~~~e &&& g)
    let tt1 := ff + d + ss2 + w'
    let tt2 := gg + h + ss1 + w
    [tt1, a, b.rotateLeft 9, c, sm3P0 tt2, e, f.rotateLeft 19, g]
  | _ => v

/-- The compression of one block of 16 words. -/
def sm3Block (v : List Word) (block : List Word) : List Word :=
  let w := (sm3Expand 52 block.reverse).reverse
  let r := (List.range 64).foldl (fun v j => sm3Round j v (w.getD j 0) (w.getD j 0 ^^^ w.getD (j + 4) 0)) v
  List.zipWith (· ^^^ ·) r v

/-- Big-endian words of bytes. -/
def beWords : List Byte → List Word
  | a :: b :: c :: d :: rest => (a ++ b ++ c ++ d) :: beWords rest
  | _ => []

/-- The padded message. -/
def sm3Pad (m : List Byte) : List Byte :=
  let zeros := (119 - m.length % 64) % 64
  let bitLen : BitVec 64 := BitVec.ofNat 64 (8 * m.length)
  m ++ [0x80] ++ List.replicate zeros 0 ++ (List.range 8).map fun k => bitLen.extractLsb' (56 - 8 * k) 8

/-- Blocks of 16 words compressed one after the other. -/
def sm3Blocks : Nat → List Word → List Word → List Word
  | 0, v, _ => v
  | n + 1, v, w => sm3Blocks n (sm3Block v (w.take 16)) (w.drop 16)

/-- SM3 of a message: 32 bytes.
Log entry 12: PRESUMED, unsafe. -/
def sm3 (m : List Byte) : List Byte :=
  let w := beWords (sm3Pad m)
  (sm3Blocks (w.length / 16) sm3Init w).flatMap fun x =>
    [x.extractLsb' 24 8, x.extractLsb' 16 8, x.extractLsb' 8 8, x.extractLsb' 0 8]

/-- The SM3 digest of this package's PUF public key (R455). -/
def pufDigest : BitVec 256 :=
  BitVec.ofNat 256 (leNat (sm3 ((List.range 64).map fun k => Config.pufPublicKey.extractLsb' (8 * k) 8)))

end Sys2Proof.Machine
end

