-- ==== Sys2Proof/Machine/State.lean ====
section
/-! DEFINITION. Machine/State.lean: the state of a package and what reset leaves, the faults and refusals of a step,
and what can come next (R6 to R20, R80, R118, R222, R286 to R297, R320 to R345, R346 to R408, R437 to R460). -/

namespace Sys2Proof.Machine

/-- Why a step of the machine stops. No instruction of a program ends in one: program faults are traps (R89). -/
inductive Fault where
  /-- Raised by a host access to a physical address in no range of R315: the spec gives no memory there. Safe. -/
  | noMemory (pa : Nat)
deriving DecidableEq, Repr

/-- Why a step is refused. -/
inductive Refusal where
  /-- Raised by the dispatch of an instruction that has no meaning yet. Safe. -/
  | notModelled (mnemonic : String)
deriving DecidableEq, Repr

/-- What can happen next: an event of the opcode table with its operands; a slot of a core; a cached translation,
or a cached table entry after the translations, dropped (R318, R319); the command at the head of the command ring taken (R361). -/
inductive Action where
  | event (i : Instr)
  | run (c : Fin 128) (q : Slot)
  | evict (k : Nat)
  | doorbell
deriving DecidableEq, Repr

/-- The lease of a cluster's array (R221, R222): its holder, the last holder's position, the array commands the holder
has started, its length. -/
structure Lease where
  holder : Option (Fin 128)
  lastPos : Nat
  started : Nat
  len : Nat
deriving DecidableEq, Repr

/-- An access counter (R328): its context, its 64 KiB region and its count. -/
structure AccessCounter where
  ctx : CtxId
  region : Nat
  count : Nat
deriving DecidableEq, Repr

/-- The plain registers of the register window (R98, R324, R329, R349, R358, R361, R363, R364, R443, R448, R458,
R459). -/
structure Regs where
  mcoord : DWord
  tdim : DWord
  pdorig : DWord
  ltmo : DWord
  pgran : Vector DWord 4
  fbbase : DWord
  fbctl : DWord
  fbwr : DWord
  fbrd : DWord
  acbase : DWord
  acctl : DWord
  acwr : DWord
  acrd : DWord
  srfbase : DWord
  srfprod : DWord
  srfcons : DWord
  srgbase : DWord
  srgprod : DWord
  srgcons : DWord
  srrbase : DWord
  srrprod : DWord
  srrcons : DWord
  smark : DWord
  mqbase : DWord
  mcbase : DWord
  mqprod : DWord
  mqcons : DWord
  mcwr : DWord
  mcrd : DWord
  cxsz0 : DWord
  cxsz1 : DWord
  trbase : DWord
  trctl : DWord
  trwr : DWord
  trrd : DWord
  pcsel : DWord
  pcval : DWord
  atnonce : Vector DWord 4
  atresp : DWord
  atcmd : DWord
  pwrcap : DWord
  pwrstat : DWord
  temp : DWord
  /-- the low half of TLBINV, written first (R360), the accesses that its invalidation still waits for: BUSY; and the
  writes that wait for it (R345) -/
  tlbinvLow : DWord
  tlbinvWait : List CopyUse
  tlbinvNext : List InvScope
deriving DecidableEq, Repr

/-- The values the rules give the registers at reset.
Log entry 3: DESIGN CHOICE, unsafe. -/
def Regs.start : Regs where
  mcoord := 0
  tdim := 0
  pdorig := 0
  ltmo := 10000
  pgran := Vector.replicate 4 3
  fbbase := 0
  fbctl := 6
  fbwr := 0
  fbrd := 0
  acbase := 0
  acctl := 0x600000000
  acwr := 0
  acrd := 0
  srfbase := 0
  srfprod := 0
  srfcons := 0
  srgbase := 0
  srgprod := 0
  srgcons := 0
  srrbase := 0
  srrprod := 0
  srrcons := 0
  smark := 0
  mqbase := 6
  mcbase := 6
  mqprod := 0
  mqcons := 0
  mcwr := 0
  mcrd := 0
  cxsz0 := 0
  cxsz1 := 0
  trbase := 6
  trctl := 0
  trwr := 0
  trrd := 0
  pcsel := 0
  pcval := 0
  atnonce := Vector.replicate 4 0
  atresp := 0
  atcmd := 0
  pwrcap := 2500
  pwrstat := 0x70800000000
  temp := 0
  tlbinvLow := 0
  tlbinvWait := []
  tlbinvNext := []

/-- The configuration block of module flash and the rollback counter (R455, R456). -/
structure Flash where
  version : Byte
  /-- false 128 cores, true 120 -/
  grade120 : Bool
  disabled : BitVec 128
  serial : Word
  /-- the SM3 digest of the PUF public key of the package it was made for -/
  pufDigest : BitVec 256
  /-- the vendor's SM2 signature -/
  signature : BitVec 512
  rollback : DWord
deriving DecidableEq, Repr

/-- The mailbox (R361, R362): a command that waits for its drain or for a REPLAY, with its context, argument and
cookie; the two words of a completion that waits for room. -/
structure Mailbox where
  busy : Option (MbOp × CtxId × DWord × DWord)
  completion : Option (DWord × DWord)
deriving DecidableEq, Repr

/-- A core's state where no job has run on it since reset (R88, R105, R135, R140, R156).
Log entry 2: DESIGN CHOICE, unsafe. -/
def Core.start : Core where
  job := none
  pc := 0
  x := Vector.replicate 32 0
  sr := SRegs.start
  iseq := 0
  seq := .fetching
  drainAt := none
  head := .issuing
  stopHead := .issuing
  issue := .none_
  barWait := .idle
  vq := []
  mq := []
  cq := []
  q := Vector.replicate 16 []
  guards := Vector.replicate 8 ⟨false, true⟩
  flags := Vector.replicate 32 0
  heldFlags := []
  ly := Vector.replicate 8 0
  bd := Vector.replicate 8 0
  gn := Vector.replicate 8 0
  vec := VecState.start
  acc := []
  lyconf := 0
  xs := []
  ws := []
  posted := []
  parked := []
  tx := none
  proj := none
  watches := []
  barHeld := []
  sStop := none
  mStop := none
  cStop := none
  pendingTrap := none
  takenV := none
  takenC := none
  debug := .running
  dbgCtx := false
  dbgArm := false
  dbgStopCtx := false
  stepTo := none
  perf := 0
  stalls := []
  imageKey := 0

/-- A context slot that no context holds (R83, R265, R450). -/
def Context.free : Context where
  state := .free
  ctxid := 0
  prio := 0
  cls := 0
  priv := false
  record := 0
  ptroot := 0
  seed := 0
  image := 0
  cores := 0
  shapes := 0
  shapen := 0
  scalemap := 0
  codebooks := 0
  spillq := 0
  spilln := 0
  qpBase := 0
  qpCount := 0
  cnBase := 0
  cnCount := 0
  chBase := 0
  chCount := 0
  ev := 0
  outs := []
  smap := []
  drain := .save
  awaiting := []
  replayRecorded := false
  quiet := false
  status := 0
  outstanding := []
  spill := []
  spilled := 0
  copies := []
  ktbase := 0
  ktlen := 0
  evWaits := []
  dgctl := 0
  dg := 0
  saved := []

/-- A channel endpoint at reset (R350). -/
def Channel.start : Channel where
  ctl := 0
  peer := 0
  ring := 0
  cn := 0
  state := 0
  hi := 0
  lo := 0
  slots := []
  heldSlots := []
  waiting := none
  waitVa := none
  landing := none
  unacked := none

/-- A stage of Weir before any `mb.pol` (R384). -/
def WeirStage.start : WeirStage where
  sd := 0
  valid := false
  recs := []
  nextAsn := 0
  infl := 0
  warm := 0
  fsrc := none
  halt := false
  head := 0
  published := 0
  slots := []
  reserved := none
  marker := none
  lookahead := []
  picked := 0

/-- The package. -/
structure State where
  cores : Vector Core 128
  /-- the core whose word executes -/
  cur : Fin 128
  /-- MODEL: the commands at the head of an engine queue that the executing engine passes over: 1 for a taken command
  (R152) -/
  skip : Nat
  /-- MODEL: the V, M and C words of the bundle whose S word executes (R48, R299) -/
  words : List (Eng × Instr)
  /-- MODEL: what happens next, as the outside world and the device's own timing choose -/
  agenda : List Action
  /-- MODEL: whose turn it is when the agenda names nothing -/
  turn : Nat
  /-- MODEL: the count of free values drawn -/
  fresh : Nat
  /-- the phase of R454, and whether it failed -/
  phase : Nat
  phaseFailed : Bool
  frozen : Bool
  flash : Flash
  regs : Regs
  mailbox : Mailbox
  /-- physical memory: every byte a range of R315 has -/
  mem : Mem
  /-- line tags by physical line number -/
  tags : Sparse LineTag
  ctxs : Vector Context 16
  groups : Vector (Option Group) 128
  pool : List PoolRec
  /-- r and the count of selections (R293, R294) -/
  readyCount : Nat
  selectCount : Nat
  /-- the context whose spill queue is next in turn (R297) -/
  spillTurn : CtxId
  tlb : List TlbEntry
  /-- the walk caches: table entries (R318) -/
  tables : List TableEntry
  /-- access counters of die 0 and of die 1 by table position (R328) -/
  access : List (Nat × AccessCounter)
  access1 : List (Nat × AccessCounter)
  ranges : Vector SumpRange 16
  moves : List SumpMove
  /-- page groups that Sump has taken and not returned (R331, R363) -/
  sumpGroups : List (BitVec 51)
  /-- frames and groups that wait for room in the release ring (R363) -/
  returned : List DWord
  /-- hints waiting: context, 64 KiB region, true for up (R343) -/
  hints : List (CtxId × Nat × Bool)
  /-- Sump demotes: its free frames have fallen below the low mark and not yet reached the high mark (R332) -/
  demoting : Bool
  apertures : Vector Aperture 16
  /-- fault-buffer entries waiting to be written (R324) -/
  faults : List FbEntry
  /-- paths of the package stopped on a replayable fault: what, its context, VA and true for MIGRATING (R323) -/
  paths : List (PkgPath × CtxId × BitVec 57 × Bool)
  leases : Vector Lease 32
  signals : List Signal
  decrements : List Decrement
  ports : Vector Port 10
  chans : Vector Channel 32
  counters : Sparse DWord
  qps : Sparse (Option Qp)
  redsteps : List RedStep
  weir : Weir
  grotto : Grotto
  /-- what the module has sent, each with the port it leaves by (R349), none for itself; the latest first -/
  outbox : List (Option Nat × Outgoing)
  /-- the nonce and address an attestation took when BUSY rose (R458) -/
  attest : Option (BitVec 256 × BitVec 51)
deriving DecidableEq, Repr

/-- Phase 5 has been reached and has not failed: the register window and the aperture are open (R454). -/
def State.windowOpen (s : State) : Bool := s.phase == 5 && !s.phaseFailed

/-- The machine right after reset: phase 5 is reached, the register window is open, every context slot is FREE and no
core holds a job (R454).
Log entry 9: DEDUCED, unsafe.
Log entry 10: DESIGN CHOICE, unsafe. -/
def State.reset : State where
  cores := Vector.replicate 128 Core.start
  cur := 0
  skip := 0
  words := []
  agenda := []
  turn := 0
  fresh := 0
  phase := 5
  phaseFailed := false
  frozen := false
  flash := { version := 0, grade120 := false, disabled := 0, serial := 0, pufDigest := pufDigest, signature := 0, rollback := 0 }
  regs := Regs.start
  mailbox := { busy := none, completion := none }
  mem := []
  tags := []
  ctxs := Vector.replicate 16 Context.free
  groups := Vector.replicate 128 none
  pool := []
  readyCount := 0
  selectCount := 0
  spillTurn := 0
  tlb := []
  tables := []
  access := []
  access1 := []
  ranges := Vector.replicate 16 { base := 0, lim := 0, ctl := 0x40000 }
  moves := []
  sumpGroups := []
  returned := []
  hints := []
  demoting := false
  apertures := Vector.replicate 16 { ctl := 0, buf := 0, size := 0, geo := 0 }
  faults := []
  paths := []
  leases := Vector.replicate 32 { holder := none, lastPos := 3, started := 0, len := 0 }
  signals := []
  decrements := []
  ports := Vector.replicate 10 (Port.fresh .training)
  chans := Vector.replicate 32 Channel.start
  counters := []
  qps := []
  redsteps := []
  weir := { ctx := none, rows := [], stages := List.replicate 4 WeirStage.start, held := [], clock := 0 }
  grotto := { ctl := 0x40000, hbase := 0, hlim := 0, clim := 0, entries := [] }
  outbox := []
  attest := none

end Sys2Proof.Machine
end

