-- ==== Sys2Proof/Machine/Num.lean ====
section
/-! DEFINITION. Machine/Num.lean: exact values, the one rounding step, conversions, the total order and the profile
folds (R21 to R46). -/

namespace Sys2Proof.Machine

/-! ## Flags (R37) -/

/-- IV: an invalid operation or conversion. -/
def flagIV : Flags := 0b000001
/-- DZ: an integer division by zero. -/
def flagDZ : Flags := 0b000010
/-- OF: a result overflowed. -/
def flagOF : Flags := 0b000100
/-- UF: a result was tiny and inexact. -/
def flagUF : Flags := 0b001000
/-- NX: a result was inexact. -/
def flagNX : Flags := 0b010000
/-- SAT: a result was saturated or clamped. -/
def flagSAT : Flags := 0b100000

/-- A flag raised when a condition holds. -/
def flagIf (c : Bool) (f : Flags) : Flags := if c then f else 0

/-! ## Formats (R23) -/

/-- The width of a format in bits. -/
def FFmt.width : FFmt → Nat
  | .f32 => 32 | .f16 => 16 | .bf16 => 16 | .e5m2 => 8 | .e4m3 => 8 | .e2m1 => 4

/-- The width of the fraction. -/
def FFmt.frac : FFmt → Nat
  | .f32 => 23 | .f16 => 10 | .bf16 => 7 | .e5m2 => 2 | .e4m3 => 3 | .e2m1 => 1

/-- The width of the exponent field. -/
def FFmt.expBits : FFmt → Nat
  | .f32 => 8 | .f16 => 5 | .bf16 => 8 | .e5m2 => 5 | .e4m3 => 4 | .e2m1 => 2

/-- The exponent bias. -/
def FFmt.bias : FFmt → Nat
  | .f32 => 127 | .f16 => 15 | .bf16 => 127 | .e5m2 => 15 | .e4m3 => 7 | .e2m1 => 1

/-- The encoding of the largest finite magnitude. -/
def FFmt.maxBits : FFmt → Nat
  | .f32 => 0x7F7FFFFF | .f16 => 0x7BFF | .bf16 => 0x7F7F | .e5m2 => 0x7B | .e4m3 => 0x7E | .e2m1 => 0x7

/-- The format has infinities. -/
def FFmt.hasInf : FFmt → Bool
  | .e4m3 | .e2m1 => false
  | _ => true

/-- The encoding of +infinity, in a format that has one. -/
def FFmt.infBits : FFmt → Nat
  | .f32 => 0x7F800000 | .f16 => 0x7C00 | .bf16 => 0x7F80 | .e5m2 => 0x7C | .e4m3 => 0x7F | .e2m1 => 0x7

/-- The canonical NaN; E2M1 has none and a NaN converts to +0 (R32). -/
def FFmt.nanBits : FFmt → Nat
  | .f32 => 0x7FC00000 | .f16 => 0x7E00 | .bf16 => 0x7FC0 | .e5m2 => 0x7E | .e4m3 => 0x7F | .e2m1 => 0

/-- The significand width: the fraction and the leading bit (R24). -/
def FFmt.sigWidth (f : FFmt) : Nat := f.frac + 1

/-- The sign bit of an encoding, as a number. -/
def signBits (f : FFmt) (s : Bool) : Nat := if s then 2 ^ (f.width - 1) else 0

/-- The exact value of an encoding (R23, R24). -/
def decF (f : FFmt) (bits : Nat) : Val :=
  let s := bits / 2 ^ (f.width - 1) % 2 = 1
  let e := bits / 2 ^ f.frac % 2 ^ f.expBits
  let m := bits % 2 ^ f.frac
  let top := 2 ^ f.expBits - 1
  if f.hasInf ∧ e = top then (if m = 0 then .inf s else .nan)
  else if f = .e4m3 ∧ e = 15 ∧ m = 7 then .nan
  else if e = 0 then .fin s m (1 - f.bias - f.frac)
  else .fin s (2 ^ f.frac + m) ((e : Int) - f.bias - f.frac)

/-! ## Rounding (R29 to R34) -/

/-- The number of bits of a magnitude: 0 for 0, else one more than the position of its leading bit. -/
def bitLen (n : Nat) : Nat := if n = 0 then 0 else Nat.log2 n + 1

/-- m 2^e as a multiple of 2^q, rounded to an integer under the mode for sign s: the integer and whether it differs
(R30). -/
def roundQuantum (mode : RMode) (s : Bool) (m : Nat) (e q : Int) : Nat × Bool :=
  if q ≤ e then (m * 2 ^ (e - q).toNat, false)
  else
    let sh := (q - e).toNat
    let n := m / 2 ^ sh
    let r := m % 2 ^ sh
    let half := 2 ^ (sh - 1)
    let up : Bool :=
      match mode with
      | .rne | .sat => decide (half < r) || (decide (r = half) && decide (n % 2 = 1))
      | .rtz => false
      | .rdn => s && decide (r ≠ 0)
      | .rup => !s && decide (r ≠ 0)
    (if up then n + 1 else n, decide (r ≠ 0))

/-- The result of an overflow (R31): the encoding's magnitude and sign, and the flags. -/
def overflowResult (f : FFmt) (mode : RMode) (s : Bool) : Nat × Flags :=
  let big := signBits f s + f.maxBits
  let inf := if f = .e4m3 then f.nanBits else signBits f s + f.infBits
  match mode with
  | .rne => (inf, flagOF ||| flagNX)
  | .rtz => (big, flagOF ||| flagNX)
  | .rdn => (if s then inf else big, flagOF ||| flagNX)
  | .rup => (if s then big else inf, flagOF ||| flagNX)
  | .sat => (big, flagSAT ||| flagNX)

/-- A nonzero exact magnitude m 2^e with sign s, rounded once to a format (R29, R31, R33). -/
def roundFin (f : FFmt) (mode : RMode) (s : Bool) (m : Nat) (e : Int) : Nat × Flags :=
  let emin : Int := 1 - (f.bias : Int)
  let lead : Int := (bitLen m : Int) - 1 + e
  let base : Int := emin - f.frac
  let q : Int := max (lead - f.frac) base
  let (n, inexact) := roundQuantum mode s m e q
  let enc := (q - base).toNat * 2 ^ f.frac + n
  if f.maxBits < enc then overflowResult f mode s
  else
    let (nu, _) := roundQuantum mode s m e (lead - f.frac)
    -- after rounding with an unbounded exponent the magnitude nu 2^(lead - F) is below 2^emin
    let tiny := decide (bitLen nu + (lead - f.frac) ≤ emin)
    (signBits f s + enc, flagIf inexact flagNX ||| flagIf (inexact && tiny) flagUF)

/-- Conversion of an exact value to a floating-point format under a mode (R31, R32). -/
def convF (f : FFmt) (mode : RMode) (v : Val) : Nat × Flags :=
  match v with
  | .nan => (f.nanBits, if f = .e2m1 then flagIV else 0)
  | .inf s =>
    if mode = .sat then (signBits f s + f.maxBits, flagSAT)
    else if f.hasInf then (signBits f s + f.infBits, 0)
    else if f = .e4m3 then (f.nanBits, flagIV)
    else (signBits f s + f.maxBits, flagIV)
  | .fin s m e => if m = 0 then (signBits f s, 0) else roundFin f mode s m e

/-- Conversion of an exact value to an integer range (R35). -/
def convI (lo hi : Int) (mode : RMode) (v : Val) : Int × Flags :=
  match v with
  | .nan => (0, flagIV)
  | .inf s => (if s then lo else hi, flagSAT)
  | .fin s m e =>
    let (n, inexact) := roundQuantum mode s m e 0
    let x : Int := if s then -(n : Int) else n
    let nx := flagIf inexact flagNX
    if x < lo then (lo, flagSAT ||| nx) else if hi < x then (hi, flagSAT ||| nx) else (x, nx)

/-- An integer clamped to a range, SAT when that changes it (R35, R45). -/
def clampI (lo hi x : Int) : Int × Flags :=
  if x < lo then (lo, flagSAT) else if hi < x then (hi, flagSAT) else (x, 0)

/-- An integer as an exact value; zero is +0, under RDN too.
Log entry 100: DESIGN CHOICE, unsafe. -/
def valOfInt (x : Int) : Val := .fin (decide (x < 0)) x.natAbs 0

/-! ## Exact arithmetic (R29, R34, R36) -/

/-- The negation of a value. -/
def Val.neg : Val → Val
  | .nan => .nan
  | .inf s => .inf (!s)
  | .fin s m e => .fin (!s) m e

/-- The value is a NaN. -/
def Val.isNan : Val → Bool
  | .nan => true
  | _ => false

/-- The value is an infinity of the given sign. -/
def Val.isInf (s : Bool) : Val → Bool
  | .inf t => s == t
  | _ => false

/-- The value is a zero. -/
def Val.isZero : Val → Bool
  | .fin _ 0 _ => true
  | _ => false

/-- The value is a zero of the given sign. -/
def Val.isSignedZero (s : Bool) : Val → Bool
  | .fin t 0 _ => s == t
  | _ => false

/-- The exponent of a value's last place; 0 where it has none. -/
def Val.ulp : Val → Int
  | .fin _ (_ + 1) e => e
  | _ => 0

/-- A finite value as an integer multiple of 2^q, where q is at or below its last place. -/
def Val.scaled (q : Int) : Val → Int
  | .fin s m e => if m = 0 then 0 else (if s then -1 else 1) * ((m * 2 ^ (e - q).toNat : Nat) : Int)
  | _ => 0

/-- The product of two values; none is 0 × ∞ (R36, R42). -/
def mulV (a b : Val) : Option Val :=
  match a, b with
  | .nan, _ | _, .nan => some .nan
  | .inf s, .inf t => some (.inf (s != t))
  | .inf s, .fin t m _ => if m = 0 then none else some (.inf (s != t))
  | .fin s m _, .inf t => if m = 0 then none else some (.inf (s != t))
  | .fin s m e, .fin t n d => some (.fin (s != t) (m * n) (e + d))

/-- The least exponent among the nonzero finite terms. -/
def minUlp : List Val → Int
  | [] => 0
  | v :: vs =>
    match v with
    | .fin _ (_ + 1) e => vs.foldl (fun q w => match w with | .fin _ (_ + 1) d => min q d | _ => q) e
    | _ => minUlp vs

/-- The exact sum of terms with its special cases: the sum as a value and whether it is invalid (R34, R36, R44).
A zero sum is -0 only when every term is -0. -/
def sumV (ts : List Val) : Val × Bool :=
  if ts.any Val.isNan then (.nan, false)
  else if ts.any (Val.isInf false) && ts.any (Val.isInf true) then (.nan, true)
  else if ts.any (Val.isInf false) then (.inf false, false)
  else if ts.any (Val.isInf true) then (.inf true, false)
  else
    let q := minUlp ts
    let x := ts.foldl (fun acc v => acc + v.scaled q) (0 : Int)
    if x = 0 then (.fin (ts.all (Val.isSignedZero true)) 0 0, false)
    else (.fin (decide (x < 0)) x.natAbs q, false)

/-- A sum of terms rounded once to a format in RNE (R29). -/
def sumF (f : FFmt) (ts : List Val) : Nat × Flags :=
  let (v, bad) := sumV ts
  let (r, fl) := convF f .rne v
  (r, fl ||| flagIf bad flagIV)

/-- a + b rounded to a format (R185). -/
def addF (f : FFmt) (a b : Val) : Nat × Flags := sumF f [a, b]

/-- a · b rounded to a format (R185). -/
def mulF (f : FFmt) (a b : Val) : Nat × Flags :=
  match mulV a b with
  | none => (f.nanBits, flagIV)
  | some p => convF f .rne p

/-- The fused ±(a·b) ± d rounded once (R186): a NaN operand gives the canonical NaN with no flag, 0 × ∞ is
invalid. -/
def fmaF (f : FFmt) (negProd negAdd : Bool) (a b d : Val) : Nat × Flags :=
  if a.isNan || b.isNan || d.isNan then (f.nanBits, 0)
  else
    match mulV a b with
    | none => (f.nanBits, flagIV)
    | some p => sumF f [if negProd then p.neg else p, if negAdd then d.neg else d]

/-- The quotient of two values as a value to be rounded: a magnitude cut 80 bits below its leading place with a
sticky last bit, which no format of R23 rounds differently from the exact quotient. None is 0/0 or ∞/∞; a finite
nonzero number over zero is an infinity. -/
def divV (a b : Val) : Option Val :=
  match a, b with
  | .nan, _ | _, .nan => some .nan
  | .inf _, .inf _ => none
  | .inf s, .fin t _ _ => some (.inf (s != t))
  | .fin s _ _, .inf t => some (.fin (s != t) 0 0)
  | .fin s m e, .fin t n d =>
    if n = 0 then (if m = 0 then none else some (.inf (s != t)))
    else if m = 0 then some (.fin (s != t) 0 0)
    else
      let k := 80 + bitLen n
      let x := m * 2 ^ k
      some (.fin (s != t) (x / n * 2 + (if x % n = 0 then 0 else 1)) (e - d - k - 1))

/-- A signed comparison of two values that are not NaN: a < b. -/
def Val.lt (a b : Val) : Bool :=
  match a, b with
  | .inf s, .inf t => s && !t
  | .inf s, .fin _ _ _ => s
  | .fin _ _ _, .inf t => !t
  | .fin s m e, .fin t n d =>
    let q := minUlp [Val.fin s m e, Val.fin t n d]
    decide (Val.scaled q (.fin s m e) < Val.scaled q (.fin t n d))
  | _, _ => false

/-- Numerical equality of two values that are not NaN; zeros of either sign are equal. -/
def Val.eqv (a b : Val) : Bool := !a.isNan && !b.isNan && !a.lt b && !b.lt a

/-! ## The total order (R40) -/

/-- The key of an encoding of width w, read as a signed integer. -/
def totalKey (w : Nat) (x : Nat) : Int :=
  if x / 2 ^ (w - 1) % 2 = 1 then -(((x % 2 ^ (w - 1) : Nat) : Int) + 1) else (x : Int)

/-- The greater encoding under R40. -/
def totalMax (w : Nat) (a b : Nat) : Nat := if totalKey w a < totalKey w b then b else a

/-- The lesser encoding under R40. -/
def totalMin (w : Nat) (a b : Nat) : Nat := if totalKey w b < totalKey w a then b else a

/-! ## Block scales and scaled values (R25 to R28) -/

/-- The value of an SC16 block scale (R25). -/
def sc16 (x : Half) : Val :=
  let e := x.toNat / 256
  if e = 0 then .fin false 0 0
  else if e = 255 then .nan
  else .fin false (256 + x.toNat % 256) ((e : Int) - 127 - 8)

/-- The decoded value of an element under a block scale (R27). -/
def scaleV (v s : Val) : Val :=
  match s, v with
  | .nan, _ => .nan
  | _, .nan => .nan
  | .inf _, _ => .nan
  | .fin _ m _, .inf t => if m = 0 then .nan else .inf t
  | .fin _ m e, .fin t n d => .fin t (n * m) (d + e)

/-- The least SC16 value not below x, for a positive finite x; the largest SC16 is the bound (R25, R193). -/
def leastSc16 (m : Nat) (e : Int) : Half :=
  let lead : Int := (bitLen m : Int) - 1 + e
  let q : Int := max (lead - 8) (-126 - 8)
  let (n, _) := roundQuantum .rup false m e q
  let n := max n 256
  BitVec.ofNat 16 ((q + 134).toNat * 256 + n)

/-! ## Numerics profiles (R41 to R46) -/

/-- The profile of a code, or none for a code no profile has (R41). -/
def profileOf (c : BitVec 4) : Option Profile :=
  match c.toNat with
  | 1 => some .np1
  | 2 => some .np2
  | 3 => some .np3
  | 4 => some .np4
  | _ => none

/-- The group size of a profile (R43). -/
def Profile.group : Profile → Nat
  | .np1 => 16
  | .np2 => 32
  | .np3 => 1
  | .np4 => 16

/-- The top d positions of a significand, the rest cleared; the value is left as it is for d = 0 (R46). -/
def truncPlanes (f : FFmt) (d : Nat) (bits : Nat) : Nat :=
  if d = 0 ∨ f.sigWidth ≤ d then bits
  else
    match decF f bits with
    | .fin _ _ _ => bits / 2 ^ (f.sigWidth - d) * 2 ^ (f.sigWidth - d)
    | _ => bits

/-- One product term: none is 0 × ∞ (R42). -/
def prodTerm (ab : Val × Val) : Option Val := mulV ab.1 ab.2

/-- `fold` in the floating domain (R44): the accumulator's FP32 bits and the pairs of one group. The array raises
IV and OF only (R38). -/
def foldF (acc : Word) (ps : List (Val × Val)) : Word × Flags :=
  let a := decF .f32 acc.toNat
  if a.isNan || ps.any (fun p => p.1.isNan || p.2.isNan) then (BitVec.ofNat 32 FFmt.f32.nanBits, 0)
  else
    let ts := ps.map prodTerm
    if ts.any Option.isNone then (BitVec.ofNat 32 FFmt.f32.nanBits, flagIV)
    else
      let (r, fl) := sumF .f32 (a :: ts.filterMap id)
      (BitVec.ofNat 32 r, fl &&& (flagIV ||| flagOF))

/-- `fold` in the integer domain (R45). -/
def foldI (acc : Word) (ps : List (Int × Int)) : Word × Flags :=
  let x := ps.foldl (fun t p => t + p.1 * p.2) acc.toInt
  let (r, fl) := clampI (-2147483648) 2147483647 x
  (BitVec.ofInt 32 r, fl)

/-- Groups of n of a list, the last one shorter; `fuel` bounds the number of groups. -/
def groupsOf {α : Type} (n : Nat) : Nat → List α → List (List α)
  | 0, _ => []
  | _ + 1, [] => []
  | fuel + 1, xs => xs.take n :: groupsOf n fuel (xs.drop n)

/-- One output element's dot product under a profile: the accumulator folded over the groups in ascending order
(R43). -/
def dotF (p : Profile) (acc : Word) (ps : List (Val × Val)) : Word × Flags :=
  (groupsOf p.group ps.length ps).foldl (fun (a, fl) g => let (b, f) := foldF a g; (b, fl ||| f)) (acc, 0)

/-- The same in the integer domain (R43, R45). -/
def dotI (p : Profile) (acc : Word) (ps : List (Int × Int)) : Word × Flags :=
  (groupsOf p.group ps.length ps).foldl (fun (a, fl) g => let (b, f) := foldI a g; (b, fl ||| f)) (acc, 0)

/-! ## Values by format -/

/-- The value of FP32 bits. -/
def f32V (w : Word) : Val := decF .f32 w.toNat

/-- A value rounded to FP32 bits in RNE. -/
def toF32 (v : Val) : Word × Flags := let (r, fl) := convF .f32 .rne v; (BitVec.ofNat 32 r, fl)

/-- FP32 total-order maximum of two words (R40). -/
def fmaxW (a b : Word) : Word := if totalKey 32 a.toNat < totalKey 32 b.toNat then b else a

/-- FP32 total-order minimum of two words (R40). -/
def fminW (a b : Word) : Word := if totalKey 32 b.toNat < totalKey 32 a.toNat then b else a

end Sys2Proof.Machine
end

