-- ==== Sys2Proof/Machine/VecLane.lean ====
section
/-! DEFINITION. Machine/VecLane.lean: what each vector command computes on the lanes of its operands, apart from
where the operands come from and where the result goes (R181, R185 to R204). -/

namespace Sys2Proof.Machine

/-! ## Elements of a register (R181) -/

/-- The fields of width w of a number, the least significant first, as one number. -/
def packNat (w : Nat) : List Nat → Nat
  | [] => 0
  | x :: xs => x % 2 ^ w + 2 ^ w * packNat w xs

/-- Field i of width w of a number. -/
def fieldNat (w i x : Nat) : Nat := x / 2 ^ (w * i) % 2 ^ w

/-- Element i of width w of a register, as a number. -/
def elemN (w : Nat) (v : VReg) (i : Nat) : Nat := fieldNat w i v.toNat

/-- The register whose elements of width w are given. -/
def ofElems (w : Nat) (xs : List Nat) : VReg := BitVec.ofNat 2048 (packNat w xs)

/-- Lane i of a register. -/
def lane (v : VReg) (i : Nat) : Word := BitVec.ofNat 32 (elemN 32 v i)

/-- The lanes of a register. -/
def lanesOf (v : VReg) : List Word := (List.range 64).map (lane v)

/-- The register with the given lanes. -/
def ofLanes (xs : List Word) : VReg := ofElems 32 (xs.map BitVec.toNat)

/-- The register whose lanes a function gives. -/
def mkLanes (f : Nat → Word) : VReg := ofLanes ((List.range 64).map f)

/-- Every lane holds the word. -/
def bcast (x : Word) : VReg := mkLanes (fun _ => x)

/-- Lane i holds i (R63). -/
def laneIds : VReg := mkLanes (BitVec.ofNat 32)

/-- The flags of a list of results together. -/
def orFlags (xs : List (Nat × Flags)) : Flags := xs.foldl (fun f r => f ||| r.2) 0

/-- A register from element results, with their flags. -/
def ofResults (w : Nat) (xs : List (Nat × Flags)) : VReg × Flags := (ofElems w (xs.map (·.1)), orFlags xs)

/-- One-operand element-wise computation on elements of width w. -/
def map1 (w : Nat) (f : Nat → Nat × Flags) (a : VReg) : VReg × Flags :=
  ofResults w ((List.range (2048 / w)).map fun i => f (elemN w a i))

/-- Two-operand element-wise computation. -/
def map2 (w : Nat) (f : Nat → Nat → Nat × Flags) (a b : VReg) : VReg × Flags :=
  ofResults w ((List.range (2048 / w)).map fun i => f (elemN w a i) (elemN w b i))

/-- Three-operand element-wise computation. -/
def map3 (w : Nat) (f : Nat → Nat → Nat → Nat × Flags) (a b d : VReg) : VReg × Flags :=
  ofResults w ((List.range (2048 / w)).map fun i => f (elemN w a i) (elemN w b i) (elemN w d i))

/-! ## Floating point (R185, R186) -/

/-- `vadd` of a format. -/
def laneAdd (f : FFmt) (a b : VReg) : VReg × Flags := map2 f.width (fun x y => addF f (decF f x) (decF f y)) a b
/-- `vsub` of a format: a + (-b). -/
def laneSub (f : FFmt) (a b : VReg) : VReg × Flags := map2 f.width (fun x y => addF f (decF f x) (decF f y).neg) a b
/-- `vmul` of a format. -/
def laneMul (f : FFmt) (a b : VReg) : VReg × Flags := map2 f.width (fun x y => mulF f (decF f x) (decF f y)) a b
/-- `vmax` of a format, a selection (R40). -/
def laneMax (f : FFmt) (a b : VReg) : VReg × Flags := map2 f.width (fun x y => (totalMax f.width x y, 0)) a b
/-- `vmin` of a format, a selection (R40). -/
def laneMin (f : FFmt) (a b : VReg) : VReg × Flags := map2 f.width (fun x y => (totalMin f.width x y, 0)) a b
/-- `vabs` of a format: the sign bit cleared. -/
def laneAbs (f : FFmt) (a : VReg) : VReg × Flags := map1 f.width (fun x => (x % 2 ^ (f.width - 1), 0)) a
/-- `vneg` of a format: the sign bit inverted. -/
def laneNeg (f : FFmt) (a : VReg) : VReg × Flags := map1 f.width (fun x => (x ^^^ 2 ^ (f.width - 1), 0)) a
/-- The FMA forms: ±(a·b) ± d. -/
def laneFma (f : FFmt) (negProd negAdd : Bool) (a b d : VReg) : VReg × Flags :=
  map3 f.width (fun x y z => fmaF f negProd negAdd (decF f x) (decF f y) (decF f z)) a b d

/-! ## Integer, logic, compare and select (R187 to R190) -/

/-- A field as a signed integer. -/
def sgn (w x : Nat) : Int := if x / 2 ^ (w - 1) % 2 = 1 then (x : Int) - 2 ^ w else x

/-- An integer's low w bits. -/
def wrapI (w : Nat) (x : Int) : Nat := (x % (2 ^ w : Nat)).toNat

/-- An integer clamped to INTw, with SAT when it clamps (R187). -/
def satI (w : Nat) (x : Int) : Nat × Flags :=
  let (y, f) := clampI (-(2 ^ (w - 1) : Nat)) ((2 ^ (w - 1) : Nat) - 1) x
  (wrapI w y, f)

/-- A signed integer operation that wraps. -/
def laneInt2 (w : Nat) (f : Int → Int → Int) (a b : VReg) : VReg × Flags :=
  map2 w (fun x y => (wrapI w (f (sgn w x) (sgn w y)), 0)) a b
/-- An unsigned selection. -/
def laneUns2 (w : Nat) (f : Nat → Nat → Nat) (a b : VReg) : VReg × Flags := map2 w (fun x y => (f x y, 0)) a b
/-- A signed integer operation that saturates. -/
def laneSat2 (w : Nat) (f : Int → Int → Int) (a b : VReg) : VReg × Flags :=
  map2 w (fun x y => satI w (f (sgn w x) (sgn w y))) a b
/-- A signed one-operand operation that wraps. -/
def laneInt1 (w : Nat) (f : Int → Int) (a : VReg) : VReg × Flags := map1 w (fun x => (wrapI w (f (sgn w x)), 0)) a

/-- A lane-wise operation on words that raises nothing (R188, R190, R196). -/
def laneWord2 (f : Word → Word → Word) (a b : VReg) : VReg := mkLanes (fun i => f (lane a i) (lane b i))

/-- A compare writes all ones where the relation holds (R189). -/
def maskOf (c : Bool) : Word := if c then 0xFFFFFFFF else 0

/-- FP32 equal: quiet, zeros equal, a NaN unordered. -/
def feq (x y : Word) : Bool := (f32V x).eqv (f32V y)
/-- FP32 less than. -/
def flt (x y : Word) : Bool := (f32V x).lt (f32V y)
/-- FP32 less or equal. -/
def fle (x y : Word) : Bool := flt x y || feq x y

/-- `vsel`: a where the mask lane is not zero, else b (R190). -/
def laneSel (mask a b : VReg) : VReg := mkLanes (fun i => if lane mask i ≠ 0 then lane a i else lane b i)

/-! ## Conversions (R191) -/

/-- Element i of part p of width w. -/
def partElem (w p : Nat) (v : VReg) (i : Nat) : Nat := elemN w v (64 * p + i)

/-- A narrowing form: part p of d written from the lanes of a, the rest kept. -/
def laneNarrow (w p : Nat) (f : Nat → Nat × Flags) (a d : VReg) : VReg × Flags :=
  let rs := (List.range 64).map fun i => f (elemN 32 a i)
  (ofElems w ((List.range (2048 / w)).map fun k =>
    if 64 * p ≤ k ∧ k < 64 * p + 64 then (rs.getD (k - 64 * p) (0, 0)).1 else elemN w d k), orFlags rs)

/-- A widening form: every lane from part p of a, exactly; a NaN gives the canonical NaN (R32). -/
def laneWiden (f : FFmt) (p : Nat) (a : VReg) : VReg × Flags :=
  ofResults 32 ((List.range 64).map fun i => ((convF .f32 .rne (decF f (partElem f.width p a i))).1, 0))

/-- FP32 to an integer range (R35). -/
def laneToInt (lo hi : Int) (m : RMode) (a : VReg) : VReg × Flags :=
  map1 32 (fun x => let (y, f) := convI lo hi m (decF .f32 x); (wrapI 32 y, f)) a

/-- Signed or unsigned 32-bit integer to FP32. -/
def laneFromInt (signed : Bool) (m : RMode) (a : VReg) : VReg × Flags :=
  map1 32 (fun x => convF .f32 m (valOfInt (if signed then sgn 32 x else x))) a

/-! ## Block scales (R192 to R194) -/

/-- The magnitude of an FP32 lane: its sign bit cleared. -/
def magW (x : Word) : Word := x &&& 0x7FFFFFFF

/-- The greatest of a start value and the magnitudes of the lanes (R192). -/
def amaxOf (start : Word) (v : VReg) : Word := (lanesOf v).foldl (fun m x => fmaxW m (magW x)) start

/-- The number of lanes of a block. -/
def blkLanes : BlkG → Nat
  | .g16 => 16
  | .g32 => 32
  | .g64 => 64

/-- The largest element magnitude of the three quantised formats (R193). -/
def quantMax : FFmt → Nat
  | .e4m3 => 448
  | .e5m2 => 57344
  | _ => 6

/-- The scale and elements of one block (R193). -/
def quantBlock (f : FFmt) (xs : List Word) : Half × List (Nat × Flags) :=
  let mx := xs.foldl (fun m x => fmaxW m (magW x)) 0
  match f32V mx with
  | .fin _ (m + 1) e =>
    let d := bitLen (quantMax f) + 80
    let num := (m + 1) * 2 ^ d
    let k := quantMax f
    let s := leastSc16 (num / k * 2 + (if num % k = 0 then 0 else 1)) (e - d - 1)
    (s, xs.map fun x => match divV (f32V x) (sc16 s) with
      | some q => convF f .sat q
      | none => (0, 0))
  | .fin _ 0 _ => (0, xs.map fun x => (signBits f (x.toNat / 2 ^ 31 = 1), 0))
  | _ => (0xFF00, xs.map fun _ => (f.nanBits, flagIV))

/-- `vquant`: the quantised register of a (R193). -/
def laneQuant (f : FFmt) (g : BlkG) (a : VReg) : VReg × Flags :=
  let n := 64 / (blkLanes g)
  let blocks := (List.range n).map fun k => quantBlock f ((List.range (blkLanes g)).map fun i => lane a (k * blkLanes g + i))
  let elems := (blocks.map (·.2)).flatten
  let body := packNat f.width (elems.map (·.1))
  let scales := packNat 16 (blocks.map (·.1.toNat))
  (BitVec.ofNat 2048 (body + 2 ^ 512 * scales), orFlags elems)

/-- `vdeq`: lane i is element i decoded with its block's scale and rounded once (R194). -/
def laneDeq (f : FFmt) (g : BlkG) (a : VReg) : VReg × Flags :=
  ofResults 32 ((List.range 64).map fun i =>
    convF .f32 .rne (scaleV (decF f (elemN f.width a i)) (sc16 (BitVec.ofNat 16 (elemN 16 a (32 + i / (blkLanes g)))))))

/-! ## Reductions and permutes (R195, R196) -/

/-- One level of the pairwise tree. -/
def pairUp (f : Nat → Nat → Nat × Flags) : List Nat → List (Nat × Flags)
  | x :: y :: rest => f x y :: pairUp f rest
  | _ => []

/-- The pairwise tree: `levels` times neighbours are combined. -/
def treeReduce (f : Nat → Nat → Nat × Flags) : Nat → List Nat → Flags → List Nat × Flags
  | 0, xs, fl => (xs, fl)
  | n + 1, xs, fl =>
    let ys := pairUp f xs
    treeReduce f n (ys.map (·.1)) (fl ||| orFlags ys)

/-- A reduction of the 64 lanes, written to every lane (R195). -/
def laneReduce (f : Nat → Nat → Nat × Flags) (a : VReg) : VReg × Flags :=
  let (xs, fl) := treeReduce f 6 ((List.range 64).map (elemN 32 a)) 0
  (bcast (BitVec.ofNat 32 (xs.headD 0)), fl)

/-- `vperm` (R196). -/
def lanePerm (a b : VReg) : VReg := mkLanes (fun i => lane a ((lane b i).toNat % 64))
/-- `vbcast` (R196). -/
def laneBcast (a : VReg) (n : Nat) : VReg := bcast (lane a n)
/-- `vext` (R196). -/
def laneExt (a : VReg) (n : Nat) : VReg := mkLanes (fun i => if i + n < 64 then lane a (i + n) else 0)
/-- `vins` (R196). -/
def laneIns (a d : VReg) (n : Nat) : VReg := mkLanes (fun i => if i = n then lane a 0 else lane d i)

/-! ## Exponent helpers (R203) -/

/-- ⌊log2 |x|⌋ of a nonzero magnitude m 2^e. -/
def floorLog2 (m : Nat) (e : Int) : Int := (bitLen m : Int) - 1 + e

/-- `vxexp` of one lane. -/
def xexpW (x : Nat) : Nat × Flags :=
  match decF .f32 x with
  | .fin _ 0 _ => (0x80000000, 0)
  | .fin _ m e => (wrapI 32 (floorLog2 m e), 0)
  | _ => (0x7FFFFFFF, 0)

/-- `vxmant` of one lane. -/
def xmantW (x : Nat) : Nat × Flags :=
  match decF .f32 x with
  | .fin _ 0 _ => (x, 0)
  | .fin s m e => ((convF .f32 .rne (.fin s m (e - floorLog2 m e))).1, 0)
  | .inf _ => (x, 0)
  | .nan => (FFmt.f32.nanBits, 0)

/-- `vldexp` of one lane. A shift beyond ±1,000 rounds as that of ±1,000 does, whatever the significand. -/
def ldexpW (x n : Nat) : Nat × Flags :=
  match decF .f32 x with
  | .fin _ 0 _ => (x, 0)
  | .fin s m e => convF .f32 .rne (.fin s m (e + max (-1000) (min 1000 (sgn 32 n))))
  | .inf _ => (x, 0)
  | .nan => (FFmt.f32.nanBits, 0)

/-! ## The library expansion of exp2 on one lane (R207, R208)

The projection unit's normaliser evaluates these instructions on registers of its own (R425). -/

/-- The polynomial constants of R207 that `vlib.exp2` uses: lanes 6 down to 0. -/
def exp2Coeffs : List Nat := [0x3AAEC3FF, 0x3C1D955B, 0x3D635847, 0x3E75FDF0, 0x3F317218, 0x3F800000]

/-- One FP32 step whose flags are dropped. -/
def f32op (r : Nat × Flags) : Nat := r.1

/-- `vlib.exp2` of one FP32 lane, with the flags its instructions raise (R208). -/
def exp2Lane (x : Nat) : Nat × Flags :=
  let t := totalMax 32 (totalMin 32 x 0x43000000) 0xC3160000
  let (n, fl1) := convI (-2147483648) 2147483647 .rne (decF .f32 t)
  let (nf, fl2) := convF .f32 .rne (valOfInt n)
  let (f, fl3) := addF .f32 (decF .f32 t) (decF .f32 nf).neg
  let (p, fl4) := exp2Coeffs.foldl (fun (acc, fl) c =>
    let (r, g) := fmaF .f32 false false (decF .f32 acc) (decF .f32 f) (decF .f32 c); (r, fl ||| g)) (0x3921848A, 0)
  let (r, fl5) := ldexpW p (wrapI 32 n)
  let nan := (decF .f32 x).isNan
  (if nan then FFmt.f32.nanBits else r, fl1 ||| fl2 ||| fl3 ||| fl4 ||| fl5)

end Sys2Proof.Machine
end

