-- ==== Sys2Proof/Machine/Ops.lean ====
section
/-! DEFINITION. Machine/Ops.lean: the named operations over the state: sparse memories, registers, the sequencer's
advance, guards and flags, queues, the cut and trap entry, escalation and fatal events (R48, R52, R54, R58, R87 to R94,
R133 to R146, R172 to R176, R444). -/

namespace Sys2Proof.Machine

/-! ## Sparse maps -/

/-- The value at a key; an unlisted key has the default. -/
def sget {β : Type} (d : β) : List (Nat × β) → Nat → β
  | [], _ => d
  | (k, v) :: t, a => if a = k then v else if a < k then d else sget d t a

/-- A value written at a key; writing the default removes the entry. -/
def sset {β : Type} [DecidableEq β] (d : β) : List (Nat × β) → Nat → β → List (Nat × β)
  | [], a, x => if x = d then [] else [(a, x)]
  | (k, v) :: t, a, x =>
    if a < k then (if x = d then (k, v) :: t else (a, x) :: (k, v) :: t)
    else if a = k then (if x = d then t else (a, x) :: t)
    else (k, v) :: sset d t a x

/-- The canonical form above a bound: keys strictly rising from it, no entry at the default. -/
def sortedFrom {β : Type} [DecidableEq β] (d : β) : Nat → List (Nat × β) → Bool
  | _, [] => true
  | lo, (k, v) :: t => decide (lo ≤ k) && decide (v ≠ d) && sortedFrom d (k + 1) t

/-- A memory is in its canonical form. -/
def Memory.wf (m : Mem) : Bool := sortedFrom 0 0 m

/-- The byte at an address; a byte that nothing has written reads 0.
Log entry 1: DESIGN CHOICE, unsafe. -/
def readByte (m : Mem) (a : Nat) : Byte := sget 0 m a

/-- A byte written. -/
def writeByte (m : Mem) (a : Nat) (x : Byte) : Mem := sset 0 m a x

/-- The n bytes from an address, the lowest first. -/
def readBytes (m : Mem) (a n : Nat) : List Byte := (List.range n).map fun i => readByte m (a + i)

/-- Bytes written from an address upward. -/
def writeBytes (m : Mem) : Nat → List Byte → Mem
  | _, [] => m
  | a, x :: xs => writeBytes (writeByte m a x) (a + 1) xs

/-- The n-byte little-endian value in a memory. -/
def readLE (m : Mem) (a n : Nat) : Nat := leNat (readBytes m a n)

/-- A value written as n little-endian bytes. -/
def writeLE (m : Mem) (a n x : Nat) : Mem := writeBytes m a (leBytes n x)

/-- Bits h down to l of a number (R3). -/
def bits (x h l : Nat) : Nat := x / 2 ^ l % 2 ^ (h + 1 - l)

/-- Bit i of a number. -/
def bitN (x i : Nat) : Bool := x / 2 ^ i % 2 = 1

/-- A field of width w read as a signed integer. -/
def signed (w x : Nat) : Int := sgn w (x % 2 ^ w)

/-! ## The monad of a meaning -/

/-- A meaning that may stop; a stop undoes what it did, and says what the core's performance counter then stood at. -/
abbrev M := StateT State (Except (Stop × DWord))

/-- Stop here. -/
def stop {α : Type} (x : Stop) : M α := fun s => .error (x, s.cores[s.cur].perf)

/-- A precise trap with its TINFO (R5, R90). -/
def trapM {α : Type} (c : Cause) (info : DWord) : M α := stop (.trap c info)

/-- Trap when a condition holds. -/
def trapIf (b : Bool) (c : Cause) (info : DWord) : M Unit := if b then trapM c info else pure ()

/-- Wait when a condition holds. -/
def waitIf (b : Bool) (w : Stop) : M Unit := if b then stop w else pure ()

/-- The state. -/
def getS : M State := fun s => .ok (s, s)

/-- A change of the state. -/
def modS (f : State → State) : M Unit := fun s => .ok ((), f s)

/-- The core whose word executes. -/
def State.core (s : State) : Core := s.cores[s.cur]

/-- The state with that core changed. -/
def State.setCore (s : State) (c : Core) : State := { s with cores := s.cores.set s.cur c }

/-- The state with that core changed by a function. -/
def State.modCore (s : State) (f : Core → Core) : State := s.setCore (f s.core)

/-- A core by logical index. -/
def State.coreAt (s : State) (i : Fin 128) : Core := s.cores[i]

/-- A core replaced. -/
def State.setCoreAt (s : State) (i : Fin 128) (c : Core) : State := { s with cores := s.cores.set i c }

/-- The executing core. -/
def getCore : M Core := fun s => .ok (s.core, s)

/-- A change of the executing core. -/
def modCore (f : Core → Core) : M Unit := modS fun s => s.modCore f

/-- Work done on another core's behalf (R147, R306). -/
def onCore (i : Fin 128) (f : Core → Core) : M Unit := modS fun s => s.setCoreAt i (f (s.coreAt i))

/-- A fresh index for the free values. -/
def drawFree : M Nat := fun s => .ok (s.fresh, { s with fresh := s.fresh + 1 })

/-- A condition for every element of a list, in order. -/
def forM' {α : Type} (f : α → M Unit) : List α → M Unit
  | [] => pure ()
  | x :: xs => do f x; forM' f xs

/-- A result for every element of a list, in order. -/
def mapM' {α β : Type} (f : α → M β) : List α → M (List β)
  | [] => pure []
  | x :: xs => do
    let y ← f x
    let ys ← mapM' f xs
    pure (y :: ys)

/-- A result carried through the elements of a list, in order. -/
def foldM' {α β : Type} (f : β → α → M β) : β → List α → M β
  | b, [] => pure b
  | b, x :: xs => do foldM' f (← f b x) xs

/-! ## Registers (R54, R56, R156) -/

/-- An X register's value; X0 reads zero. -/
def Core.rx (c : Core) (r : XReg) : DWord := if r = 0 then 0 else c.x[r.toFin]

/-- An X register written; a write to X0 is discarded. -/
def Core.wx (c : Core) (r : XReg) (v : DWord) : Core := if r = 0 then c else { c with x := c.x.set r.toFin v }

/-- An X register in a meaning. -/
def getX (r : XReg) : M DWord := fun s => .ok (s.core.rx r, s)

/-- An X register written in a meaning. -/
def setX (r : XReg) (v : DWord) : M Unit := modCore fun c => c.wx r v

/-- Flags ORed into AFLAGS (R39). -/
def Core.orFlags (c : Core) (f : Flags) : Core := { c with sr := { c.sr with aflags := c.sr.aflags ||| f.zeroExtend 64 } }

/-! ## The sequencer (R172 to R175) -/

/-- LnE of loop n. -/
def SRegs.loopEnd (r : SRegs) (l1 : Bool) : DWord := if l1 then r.l1e else r.l0e

/-- LnS of loop n. -/
def SRegs.loopStart (r : SRegs) (l1 : Bool) : DWord := if l1 then r.l1s else r.l0s

/-- LnC of loop n. -/
def SRegs.loopCount (r : SRegs) (l1 : Bool) : DWord := if l1 then r.l1c else r.l0c

/-- LOOPST.An. -/
def SRegs.loopOn (r : SRegs) (l1 : Bool) : Bool := r.loopst.getLsbD (if l1 then 1 else 0)

/-- LnC written. -/
def SRegs.setCount (r : SRegs) (l1 : Bool) (v : DWord) : SRegs := if l1 then { r with l1c := v } else { r with l0c := v }

/-- LOOPST.An written. -/
def SRegs.setOn (r : SRegs) (l1 : Bool) (on : Bool) : SRegs :=
  let m : DWord := if l1 then 2 else 1
  { r with loopst := if on then r.loopst ||| m else r.loopst &&& ~~~m }

/-- What loop n says of a bundle at pc: loop back, end the loop, or nothing (R174). -/
def SRegs.loopBack (r : SRegs) (l1 : Bool) (pc : DWord) : SRegs × Option DWord :=
  if r.loopOn l1 && pc == r.loopEnd l1 then
    if 1 < (r.loopCount l1).toNat then (r.setCount l1 (r.loopCount l1 - 1), some (r.loopStart l1))
    else ((r.setCount l1 0).setOn l1 false, none)
  else (r, none)

/-- The loop-back decision: L1 before L0 (R174). -/
def SRegs.nextPc (r : SRegs) (pc : DWord) : SRegs × DWord :=
  match r.loopBack true pc with
  | (r1, some t) => (r1, t)
  | (r1, none) =>
    match r1.loopBack false pc with
    | (r2, some t) => (r2, t)
    | (r2, none) => (r2, pc + 16)

/-- The S word has completed without changing the flow (R174). -/
def Core.advance (c : Core) : Core :=
  let (r, t) := c.sr.nextPc c.pc
  { c with sr := r, pc := t, issue := .done, head := .issuing, barWait := .idle }

/-- The S word has completed and changes the flow to an address (R174). -/
def Core.goto (c : Core) (t : DWord) : Core :=
  { c with pc := t, issue := .done, head := .issuing, barWait := .idle }

/-- The address lies in the body of loop n (R172). -/
def SRegs.inBody (r : SRegs) (l1 : Bool) (t : DWord) : Bool :=
  decide ((r.loopStart l1).toNat ≤ t.toNat) && decide (t.toNat ≤ (r.loopEnd l1).toNat)

/-- A jump out of a body clears its loop (R175). -/
def SRegs.leave (r : SRegs) (t : DWord) : SRegs :=
  let r0 := if r.loopOn false && !r.inBody false t then r.setOn false false else r
  if r0.loopOn true && !r0.inBody true t then r0.setOn true false else r0

/-- A taken branch, `j`, `jal`, `jr` or `jalr` (R167 to R169, R175). -/
def Core.jump (c : Core) (t : DWord) : Core := { c.goto t with sr := c.sr.leave t }

/-! ## Guards and local flags (R52, R140, R146) -/

/-- The pair of a guard slot. -/
def Core.pair (c : Core) (g : Guard) : GuardPair := c.guards.getD (g.toNat / 2) ⟨false, true⟩

/-- The value of a guard slot of a resolved pair. -/
def Core.guardVal (c : Core) (g : Guard) : Bool := (c.pair g).even != g.getLsbD 0

/-- A pair resolved so that Pg has a value (R52, R143). -/
def Core.resolve (c : Core) (g : Guard) (v : Bool) : Core :=
  { c with guards := c.guards.setIfInBounds (g.toNat / 2) ⟨false, v != g.getLsbD 0⟩ }

/-- A pair marked OPEN (R142). -/
def Core.openPair (c : Core) (g : Guard) : Core :=
  { c with guards := c.guards.setIfInBounds (g.toNat / 2) { c.pair g with isOpen := true } }

/-- The count of a flag. -/
def Core.flag (c : Core) (f : BitVec 5) : Byte := c.flags[f.toFin]

/-- Held increments of one flag, in order, applied while they fit. -/
def applyHeld (fl : Vector Byte 32) (f : BitVec 5) : List (BitVec 5 × Byte) → Bool →
    Vector Byte 32 × List (BitVec 5 × Byte)
  | [], _ => (fl, [])
  | e :: t, stuck =>
    if e.1 ≠ f ∨ stuck then
      let (fl', r) := applyHeld fl f t stuck
      (fl', e :: r)
    else if fl[f.toFin].toNat + e.2.toNat ≤ 255 then applyHeld (fl.set f.toFin (fl[f.toFin] + e.2)) f t false
    else
      let (fl', r) := applyHeld fl f t true
      (fl', e :: r)

/-- An increment that arrives at a flag: applied if it fits and nothing is held before it (R146). -/
def Core.addFlag (c : Core) (f : BitVec 5) (n : Byte) : Core :=
  if n = 0 then c
  else
    let (fl, h) := applyHeld c.flags f (c.heldFlags ++ [(f, n)]) false
    { c with flags := fl, heldFlags := h }

/-- n taken from a flag; what is held then applies as it fits (R146, R149). -/
def Core.takeFlag (c : Core) (f : BitVec 5) (n : Byte) : Core :=
  let (fl, h) := applyHeld (c.flags.set f.toFin (c.flag f - n)) f c.heldFlags false
  { c with flags := fl, heldFlags := h }

/-! ## Queues (R133 to R139) -/

/-- An engine's command queue. -/
def Core.queue (c : Core) : Eng → List Cmd
  | .v => c.vq
  | .m => c.mq
  | .c => c.cq

/-- An engine's command queue replaced. -/
def Core.setQueue (c : Core) (e : Eng) (q : List Cmd) : Core :=
  match e with
  | .v => { c with vq := q }
  | .m => { c with mq := q }
  | .c => { c with cq := q }

/-- The snapshot of R134 as the registers now stand. -/
def Core.snapshot (c : Core) : Snapshot where
  ly := c.ly
  bd := c.bd
  gn := c.gn
  tag := c.sr.tag
  stage := c.sr.stage
  wver := c.sr.wver
  wbase := c.sr.wbase
  lrun := c.sr.lrun

/-- A command as it is enqueued (R133, R134). -/
def Core.newCmd (c : Core) (i : Instr) (iseq : Word) : Cmd where
  instr := i
  iseq := iseq
  snap := c.snapshot
  phase := .waiting
  held := none
  table := []
  progress := 0
  popped := []
  angles := []
  consumed := false
  relocated := false
  inGroup := false
  failed := false
  faulted := false
  flags := 0
  pushes := []
  barrier := none

/-- A queue register's entries. -/
def Core.qreg (c : Core) (n : Nat) : List DWord := c.q.getD n []

/-- A queue register replaced. -/
def Core.setQreg (c : Core) (n : Nat) (l : List DWord) : Core := { c with q := c.q.setIfInBounds n l }

/-- The members of the open transaction group that have executed: they complete with its `ctxe` (R259, R262). -/
def Core.members (c : Core) : List Cmd :=
  match c.tx with
  | some g => g.members
  | none => []

/-- The commands that have neither completed nor been discarded: those of the queues, those parked, and the members of an
open transaction group (R135, R262). -/
def Core.uncompleted (c : Core) : List Cmd := c.vq ++ c.mq ++ c.cq ++ c.parked.map (·.cmd) ++ c.members

/-- Free entries of a queue register that started commands have reserved (R137), parked ones with them. -/
def Core.reserved (c : Core) (n : Nat) : Nat :=
  (c.uncompleted.map fun x => (x.pushes.filter fun p => p.1 = n).length).sum

/-- A queue register has a free entry (R137). -/
def Core.qroom (c : Core) (n : Nat) : Bool := decide ((c.qreg n).length + c.reserved n < 8)

/-- The job's dispatch slot; 128 without a job. -/
def Core.jobSlot (c : Core) : Nat :=
  match c.job with
  | some j => j.slot
  | none => 128

/-- What a command's completion does to its core: its flags, its pushes, and in an open transaction group its place
among the members with its deferred decrement (R39, R137, R259, R261). -/
def Core.complete (c : Core) (x : Cmd) : Core :=
  let c := x.pushes.foldl (fun c p => c.setQreg p.1 (c.qreg p.1 ++ [p.2])) (c.orFlags x.flags)
  if x.inGroup then
    { c with tx := c.tx.map fun g => { g with
        members := g.members ++ [x]
        decrements := g.decrements ++ x.barrier.toList } }
  else c

/-- The command names a barrier (R244). -/
def namesBarrier : Instr → Bool
  | .ccopy _ _ _ b _ | .cplane _ _ _ b _ | .cconv _ _ _ b _ _ | .cgath _ _ _ b _ _ | .cscat _ _ _ b _ _ | .cfill _ _ b _ _
  | .cdrain _ _ _ b _ _ _ => b.isSome
  | _ => false

/-- The executed command at a place of a queue may complete: the decrements of a core are sent in program order, so one
that owes a decrement completes after every earlier one that names a barrier (R306). -/
def decrementsInOrder (q : List Cmd) (k : Nat) (x : Cmd) : Bool :=
  x.barrier.isNone || !((q.take k).any fun y => namesBarrier y.instr)

/-- A saturating 64-bit increment. -/
def satAdd (x : DWord) (n : Nat) : DWord := BitVec.ofNat 64 (min (x.toNat + n) 0xFFFFFFFFFFFFFFFF)

/-- The performance event selected counts n on a core (R448). -/
def State.perfAt (s : State) (i : Fin 128) (ev n : Nat) : State :=
  if s.regs.pcsel.toNat % 256 = ev then s.setCoreAt i { s.coreAt i with perf := satAdd (s.coreAt i).perf n } else s

/-- The performance event selected counts n on the executing core.
Log entry 41: DESIGN CHOICE, unsafe. -/
def State.perfCount (s : State) (ev n : Nat) : State := s.perfAt s.cur ev n

/-- Something that a waiting command could wait for has ended: its engine's last attempts say no more. -/
def Core.forgetHeld (c : Core) : Core := { c with cq := c.cq.map fun x => { x with held := none } }

/-- A command completes: outside a group its barrier decrement is on its way (R258). -/
def State.completeCmd (s : State) (i : Fin 128) (e : Eng) (x : Cmd) : State :=
  let s := if e = .v then s.perfAt i 1 1 else s
  let c := s.coreAt i
  let s := s.setCoreAt i (c.complete x).forgetHeld
  if x.inGroup then s
  else { s with decrements := s.decrements ++ x.barrier.toList.map fun b => ⟨b.1, b.2, c.jobSlot, i⟩ }

/-! ## Contexts -/

/-- The slot of a context that is neither FREE nor RETIRED. -/
def State.slotOf (s : State) (id : CtxId) : Option (Fin 16) :=
  (List.finRange 16).find? fun k => s.ctxs[k].ctxid = id ∧ s.ctxs[k].state ≠ .free ∧ s.ctxs[k].state ≠ .retired

/-- The context of an identity; a FREE slot where there is none. -/
def State.ctxOf (s : State) (id : CtxId) : Context :=
  match s.slotOf id with
  | some k => s.ctxs[k]
  | none => Context.free

/-- A context changed. -/
def State.modCtx (s : State) (id : CtxId) (f : Context → Context) : State :=
  match s.slotOf id with
  | some k => { s with ctxs := s.ctxs.set k (f s.ctxs[k]) }
  | none => s

/-- The identity of the executing core's context; 0, which no context has, where it holds no job. -/
def State.curCtx (s : State) : CtxId :=
  match s.core.job with
  | some j => j.ctx
  | none => 0

/-- The executing core's context. -/
def State.context (s : State) : Context := s.ctxOf s.curCtx

/-- The executing core's job; a word of a core without one waits (R154: EMPTY). -/
def getJob : M Job := do
  match (← getCore).job with
  | some j => pure j
  | none => stop .engine

/-- The executing core's context. -/
def getCtx : M Context := do
  let s ← getS
  match s.slotOf s.curCtx with
  | some k => pure s.ctxs[k]
  | none => stop .engine

/-- The number of enabled cores (R10, R11). -/
def State.ncore (s : State) : Nat := if s.flash.grade120 then 120 else 128

/-- The core of an index is enabled (R10, R11). -/
def State.enabled (s : State) (i : Fin 128) : Bool := decide (i.val < s.ncore)

/-- The physical number (die, cluster, position) of a logical index: the n-th enabled core (R11). -/
def State.physOf (s : State) (l : Nat) : Nat :=
  ((List.range 128).filter fun p => !s.flash.disabled.getLsbD p || !s.flash.grade120).getD l 127

/-- The cluster of a logical index, 0 to 31. -/
def State.clusterOf (s : State) (l : Nat) : Nat := s.physOf l / 4

/-- The cores that hold a job of a context. -/
def State.coresOf (s : State) (id : CtxId) : List (Fin 128) :=
  (List.finRange 128).filter fun i => match s.cores[i].job with
    | some j => j.ctx = id
    | none => false

/-- A fatal event has stopped the core: its state stays in place until DESTROY (R87). -/
def State.frozenAt (s : State) (i : Fin 128) : Bool :=
  match s.cores[i].job with
  | some j => (s.ctxOf j.ctx).state == .error
  | none => false

/-! ## Trace (R443, R444) -/

/-- The LOG2N field of a ring, other values reading as 6. -/
def ringLog (x hi : Nat) : Nat := if 6 ≤ x ∧ x ≤ hi then x else 6

/-- The way round a ring of d modules from x to y: none where they are one, else true for +; the shorter one, + when both
are equally long (R349). -/
def ringWay (d x y : Nat) : Option Bool :=
  let up := (y + d - x % d) % d
  if up = 0 then none else some (decide (up ≤ d - up))

/-- The torus port by which traffic to coordinates leaves: dimension order, X, Y, Z (R348, R349). -/
def State.route (s : State) (coord : Nat) : Option Nat :=
  let at_ := fun (v k : Nat) => bits v (8 * k + 5) (8 * k)
  (List.range 3).findSome? fun k =>
    (ringWay (at_ s.regs.tdim.toNat k + 1) (at_ s.regs.mcoord.toNat k) (at_ coord k)).map fun up =>
      2 * k + if up then 0 else 1

/-- The port of a peer as a work descriptor lays it out: PATH 1 goes out by its Levee port, 6 or 7 (R367, R377). -/
def State.peerPort (s : State) (peer : Nat) : Option Nat :=
  if bitN peer 24 then some (if bitN peer 25 then 7 else 6) else s.route (peer % 2 ^ 22)

/-- The port by which something leaves. -/
def State.portOf (s : State) : Outgoing → Option Nat
  | .culvert peer _ | .culvertAck peer _ | .culvertRefusal peer _ | .window peer _ => s.route (peer.toNat % 2 ^ 22)
  | .qpEntry m => s.peerPort m.peer.toNat
  | .qpAck peer _ _ | .qpRefusal peer _ _ => s.peerPort peer.toNat
  | .flitReplay port => some port

/-- Something is sent. -/
def State.send (s : State) (o : Outgoing) : State := { s with outbox := (s.portOf o, o) :: s.outbox }

/-- A trace record written, or lost for want of room. -/
def State.trace (s : State) (kind : Nat) (lidx : Nat) (ctx : CtxId) (iseq : Word) (payload pc : DWord) : State :=
  let ctl := s.regs.trctl
  if ctl.getLsbD 0 && ctl.getLsbD kind then
    let log := ringLog (s.regs.trbase.toNat % 32) 20
    if s.regs.trwr.toNat - s.regs.trrd.toNat < 2 ^ log then
      let base := bits s.regs.trbase.toNat 50 12 * 4096
      let a := base + 32 * (s.regs.trwr.toNat % 2 ^ log)
      let w1 := kind + lidx * 256 + ctx.toNat * 65536 + iseq.toNat * 2 ^ 32
      let m := writeLE (writeLE (writeLE (writeLE s.mem a 8 (Config.freeTime s.fresh).toNat) (a + 8) 8 w1) (a + 16) 8
        payload.toNat) (a + 24) 8 pc.toNat
      { s with mem := m, fresh := s.fresh + 1, regs := { s.regs with trwr := s.regs.trwr + 1 } }
    else
      let drop := min (bits ctl.toNat 63 48 + 1) 65535
      { s with regs := { s.regs with trctl := BitVec.ofNat 64 (ctl.toNat % 2 ^ 48 + drop * 2 ^ 48) } }
  else s

/-! ## Drains, escalation and fatal events (R83 to R87, R99) -/

/-- A barrier operation of this core waiting at a home is abandoned at a cut (R310). -/
def State.abandonBarrier (s : State) (i : Fin 128) : State :=
  { s with cores := s.cores.map fun c =>
      let gone := c.barHeld.filter fun o => o.core = i && (match o.kind with | .decIn | .decOut => false | _ => true)
      if gone.isEmpty then c
      else
        let xs := gone.foldl (fun m o =>
          match o.kind with
          | .wait _ | .arrive _ =>
            let a := o.handle.toNat % 2 ^ 17 * 16 + 11
            writeByte m a (readByte m a - 1)
          | _ => m) c.xs
        { c with xs := xs, barHeld := c.barHeld.filter fun o => !(gone.contains o) } }

/-- A core's blocked S word is abandoned with no effect (R91, R98, R439). -/
def State.abandonS (s : State) (i : Fin 128) : State :=
  let s := s.abandonBarrier i
  let s := match (s.coreAt i).job with
    | some j => s.modCtx j.ctx fun x => { x with evWaits := x.evWaits.filter fun w => w.1 ≠ i }
    | none => s
  s.setCoreAt i { s.coreAt i with head := .issuing, barWait := .idle }

/-- The collector sends a stop to every core that holds a job of the context (R99); a blocked S word is abandoned
(R98).
Log entry 82: DEDUCED, unsafe. -/
def State.startDrain (s : State) (id : CtxId) (why : DrainReason) : State :=
  let who := s.coresOf id
  let s := who.foldl (fun (s : State) i => (s.setCoreAt i { s.coreAt i with stopHead := (s.coreAt i).head }).abandonS i)
    (s.modCtx id fun x => { x with state := .draining, drain := why, awaiting := who })
  { s with cores := s.cores.map fun c => match c.job with
      | some j => if j.ctx = id then { c with job := some { j with stopping := true } } else c
      | none => c }

/-- The esc event by state (R85): a drain of reason SAVE becomes one of reason TRAP. -/
def State.esc (s : State) (id : CtxId) : State :=
  match (s.ctxOf id).state with
  | .runnable | .running | .faultWait => s.startDrain id .trap
  | .draining => s.modCtx id fun x => { x with drain := if x.drain = .save then .trap else x.drain }
  | _ => s

/-- A fatal event (R87): every core of the context stops at once, its state frozen. A drain it ends completes its
mailbox command with the state ERROR. A context in ERROR keeps the code and the core of its first event.
Log entry 117: DESIGN CHOICE, unsafe. -/
def State.fatal (s : State) (id : CtxId) (code : Byte) (lidx : Nat) : State :=
  if (s.ctxOf id).state = .error then s
  else s.modCtx id fun x => { x with state := .error, status := BitVec.ofNat 16 (code.toNat + lidx * 256) }

/-- A job has a path that waits on a replayable fault (R296). -/
def Core.stopped (c : Core) : Bool := c.sStop.isSome || c.mStop.isSome || c.cStop.isSome

/-- RUNNING or FAULT_WAIT, by whether a job of the context waits on a replayable fault (R83, the flt and rpl events of
R84). -/
def State.refreshWait (s : State) (id : CtxId) : State :=
  let x := s.ctxOf id
  if x.state = .running ∨ x.state = .faultWait then
    let w := (s.coresOf id).any fun i => (s.coreAt i).stopped
    s.modCtx id fun x => { x with state := if w then .faultWait else .running }
  else s

/-! ## The host fault buffer (R324 to R326) -/

/-- The ring of the fault buffer has room and reporting is enabled. -/
def State.fbReady (s : State) : Bool :=
  s.regs.fbctl.getLsbD 8 &&
    decide (s.regs.fbwr.toNat - s.regs.fbrd.toNat < 2 ^ ringLog (s.regs.fbctl.toNat % 32) 16)

/-- An entry waits to be written; one that finds no room or no enable sets OVF (R324). -/
def State.pushFault (s : State) (e : FbEntry) : State :=
  let room := s.fbReady && decide (s.regs.fbwr.toNat - s.regs.fbrd.toNat + s.faults.length <
    2 ^ ringLog (s.regs.fbctl.toNat % 32) 16)
  { s with
    faults := s.faults ++ [e]
    regs := if room then s.regs else { s.regs with fbctl := s.regs.fbctl ||| 0x200 } }

/-- A page-not-present fault is reported once per page and access while the pair is outstanding (R325, R326).
Log entry 79: DEDUCED, unsafe. -/
def State.reportAbsent (s : State) (id : CtxId) (va : BitVec 57) (acc : BitVec 2) (path lidx slot : Nat) (iseq : Word) :
    State :=
  let key := (va.toNat / 4096, acc)
  if (s.ctxOf id).outstanding.contains key then s
  else
    let s := s.modCtx id fun x => { x with outstanding := key :: x.outstanding }
    s.pushFault {
      w0 := va.zeroExtend 64
      w1 := BitVec.ofNat 64 (id.toNat + acc.toNat * 2 ^ 20 + path * 2 ^ 22 + lidx * 2 ^ 32 + slot * 2 ^ 40)
      w2 := if path ≤ 2 then iseq.zeroExtend 64 else 0 }

/-! ## Causes and the cut (R89, R91, R92) -/

/-- The code of a cause. -/
def Cause.code : Cause → Nat
  | .illegal => 1 | .poolFetch => 2 | .priv => 3 | .misalign => 4 | .page => 5 | .window => 6 | .conflict => 7
  | .handle => 8 | .stack => 9 | .overlap => 10 | .arith => 11 | .heapSpill => 12 | .barrier => 13 | .format => 14
  | .software => 15 | .brk => 16 | .queue => 17 | .guard => 18 | .launch => 19 | .profile => 20 | .ecc => 21
  | .link => 22

/-- The QUEUE code of a faulting source: none is the S path. -/
def queueCode : Option Eng → Nat
  | none => 0
  | some .v => 1
  | some .m => 2
  | some .c => 3

/-- The command at a place of a queue has executed and may complete. -/
def mayComplete (q : List Cmd) (p : Cmd × Nat) : Bool :=
  decide (p.1.phase = .executed) && decrementsInOrder q p.2 p.1

/-- The executed commands of a core complete (R91). -/
def State.completeAll (s : State) (i : Fin 128) : State :=
  let c := s.coreAt i
  let part := fun (q : List Cmd) (b : Bool) => (q.zipIdx.filter fun p => mayComplete q p == b).map (·.1)
  let done := fun (e : Eng) => (part (c.queue e) true).map (Prod.mk e)
  let left := fun q : List Cmd => part q false
  let s := s.setCoreAt i { c with vq := left c.vq, mq := left c.mq, cq := left c.cq }
  (done .v ++ done .m ++ done .c).foldl (fun s x => s.completeCmd i x.1 x.2) s

/-- The command is a `csend`. -/
def isCsend : Instr → Bool
  | .csend _ _ _ => true
  | _ => false

/-- A command of an aborted group, or a `csend` that has failed, runs again from its start: its guard has been read and it
keeps what it has popped (R90, R142, R262). -/
def Cmd.restart (x : Cmd) : Cmd :=
  { x with
    phase := .waiting, held := none, table := [], progress := 0, consumed := true, inGroup := false, faulted := false
    flags := 0, pushes := [], barrier := none }

/-- A command as the park area holds it: it meets its fault again when it restarts (R91), a `csend` from its start
(R355). -/
def Cmd.atRest (x : Cmd) : Cmd := if x.faulted && isCsend x.instr then x.restart else { x with faulted := false }

/-- Every command that has not completed is parked, in queue order (R91). -/
def Core.park (c : Core) (by_ : ParkedBy) : Core :=
  { c with
    parked := c.parked ++ c.vq.map (fun x => Parked.mk .v x.atRest by_) ++
      c.mq.map (fun x => Parked.mk .m x.atRest by_) ++ c.cq.map (fun x => Parked.mk .c x.atRest by_)
    vq := []
    mq := []
    cq := []
    takenV := none
    takenC := none
    head := .issuing
    issue := .notDone }

/-- The lease of the core's array ends at its cut (R221). -/
def State.releaseLease (s : State) (i : Fin 128) : State :=
  { s with leases := s.leases.map fun l => if l.holder = some i then { l with holder := none, started := 0 } else l }

/-- The cut of one core: what has executed completes, the rest is parked, the lease and a waiting barrier operation are
given up, a blocked `ev.wait` is abandoned (R91, R221, R310). -/
def State.cut (s : State) (i : Fin 128) (by_ : ParkedBy) : State :=
  let s := ((s.completeAll i).abandonBarrier i).releaseLease i
  let s := match (s.coreAt i).job with
    | some j => s.modCtx j.ctx fun x => { x with evWaits := x.evWaits.filter fun w => w.1 ≠ i }
    | none => s
  s.setCoreAt i { (s.coreAt i).park by_ with barWait := .idle }

/-- Later commands of the queue may start. -/
def Phase.passed : Phase → Bool
  | .executed | .posted => true
  | .waiting | .stopped => false

/-- The path stop of an engine; the V engine never accesses global memory (R323). -/
def Core.engStop (c : Core) : Eng → Option PathStop
  | .v => none
  | .m => c.mStop
  | .c => c.cStop

/-- The command is an `mvp.tile`, which MFINE lets stop at a K-step (R98). -/
def isMvpTile : Instr → Bool
  | .mvpTile _ _ => true
  | _ => false

/-- The command is the `ctxe`. -/
def isCtxe : Instr → Bool
  | .ctxe _ => true
  | _ => false

/-- The sibling that executes a command of an engine, and the command's issue sequence (R152). -/
def Core.taken (c : Core) (e : Eng) : Option (Fin 128 × Word) :=
  match e with
  | .v => c.takenV
  | .m => none
  | .c => c.takenC

/-- The core executes a command it has taken from a sibling, which has not finished and which nothing of its owner's
stops (R153). -/
def State.executesTaken (s : State) (i : Fin 128) : Bool :=
  s.cores.toList.any fun o => [Eng.v, .c].any fun e => match o.taken e, o.job with
    | some (k, n), some j =>
      k == i && (o.queue e).any (fun x => x.iseq == n && !x.phase.passed && !x.faulted) && (o.engStop e).isNone &&
        !j.preempted && !j.escalated && ((s.ctxOf j.ctx).state == .running || (s.ctxOf j.ctx).state == .faultWait ||
          (s.ctxOf j.ctx).state == .draining)
    | _, _ => false

/-- A home holds a write of a core (R337): of one command, or of any. -/
def State.holding (s : State) (i : Fin 128) (p : Word → Bool) : Bool :=
  s.moves.any fun m => m.held.any fun w => match w.by_ with
    | some (k, n) => k == i && p n
    | none => false

/-- The command has not moved since its engine's last attempt found it held. -/
def Cmd.isHeld (x : Cmd) : Bool := x.held.any fun h => h.1 == x.progress

/-- The next command of the C queue could not go on when its engine last tried it, and nothing that could let it has
ended since or is about to: no executed command is left to complete. -/
def Core.cHeld (c : Core) : Bool :=
  (match (c.cq.filter fun x => !x.phase.passed).head? with
    | some x => x.isHeld
    | none => true) &&
  [c.vq, c.mq, c.cq].all fun q => q.zipIdx.all fun p => !mayComplete q p

/-- A command that a sibling executes for an engine stands at its stop point: it has executed or faulted, it waits, or it is
a copy between its chunks (R98, R153). -/
def Core.takenRests (c : Core) (e : Eng) : Bool :=
  match c.taken e with
  | none => true
  | some (_, n) => (c.engStop e).isSome || (c.queue e).all fun x =>
      x.iseq != n || x.phase.passed || x.faulted || x.isHeld || (e == .c && x.phase == .stopped)

/-- A core of the context has acknowledged the drain that goes on: every other stands at its stop points and goes no
further (R99, R310). -/
def State.acked (s : State) (id : CtxId) : Bool :=
  let x := s.ctxOf id
  x.state == .draining && !x.saved.isEmpty

/-- The core stands at its stop points: no posted store is on its way and no write of a chunk is held at its home (R166,
R337); with CFINE clear, no transaction group whose `ctxe` is in the queue is open, but for one paused on a replayable
fault or, where `held` counts, held on what the stop holds back (R99, R102); an M command that is not waiting on memory
stands part-way only at a K-step of `mvp.tile` with MFINE set; a `csend` that has sent has been acknowledged or has failed
(R117, R355); a command that a sibling has taken stands at its stop point, and one taken from a sibling has finished (R91,
R98, R153).
Log entry 101: DEDUCED, unsafe. -/
def State.atStops (s : State) (i : Fin 128) (held : Bool) : Bool :=
  let c := s.coreAt i
  let gran := match c.job with
    | some j => s.regs.pgran.getD (s.ctxOf j.ctx).cls.toNat 3
    | none => 3
  let acked := match c.job with
    | some j => s.acked j.ctx
    | none => false
  c.posted.all (fun p => p.parked.isSome) &&
  (acked || c.tx.isNone || gran.getLsbD 1 || c.cStop.isSome || (held && c.cHeld) ||
    !(c.cq.any fun x => isCtxe x.instr)) &&
  (acked || c.mStop.isSome ||
    !(c.mq.any fun x => x.phase == .stopped && !x.faulted && !x.isHeld && !(gran.getLsbD 0 && isMvpTile x.instr))) &&
  !(c.cq.any fun x => isCsend x.instr && x.phase == .stopped && !x.faulted) &&
  (acked || (c.takenRests .v && c.takenRests .c)) && !s.executesTaken i &&
  !s.holding i fun _ => true

/-- The cut of a core can be made now, whatever its C engine last found. -/
def State.cutNow (s : State) (i : Fin 128) : Bool := s.atStops i false

/-- The cut of a core can be made by the event that waits for it, before which its C engine has tried its head. -/
def State.canCut (s : State) (i : Fin 128) : Bool := s.atStops i true

/-- A non-replayable fault of a command of an open transaction group aborts the group: what it has started runs again,
from the `ctxb` (R262). -/
def Core.abortGroup (c : Core) : Core :=
  match c.tx with
  | none => c
  | some g =>
    { c with tx := none, cq := g.members.map Cmd.restart ++ c.cq.map fun x =>
        if x.inGroup || x.phase == .stopped then x.restart else x }

/-- The trap registers as R92 records them. -/
def SRegs.record (r : SRegs) (cause : Cause) (info : DWord) (q : Nat) (iseq : Word) (pc : DWord) (active : Bool) :
    SRegs :=
  { r with
    tpc := pc
    tcause := BitVec.ofNat 64 (cause.code + if active then 2 ^ 63 else 0)
    tinfo := info
    tqueue := BitVec.ofNat 64 q
    tseq := iseq.zeroExtend 64 }

/-- What trap entry saves for `eret` and clears (R92). -/
def SRegs.saveForTrap (r : SRegs) : SRegs :=
  { r with
    sloopst := r.loopst, sl0s := r.l0s, sl0e := r.l0e, sl0c := r.l0c, sl1s := r.l1s, sl1e := r.l1e, sl1c := r.l1c
    saflags := r.aflags
    loopst := 0
    aflags := 0 }

/-- TCAUSE.ACTIVE. -/
def SRegs.active (r : SRegs) : Bool := r.tcause.getLsbD 63

/-- The pc a trap records: the current bundle, or the `end` bundle during the drain (R91, R299). -/
def Core.trapPc (c : Core) : DWord :=
  match c.seq with
  | .draining a => a
  | .fetching => c.pc

/-- A posting command whose failure has been reported completes with no effect after the handler's `eret` (R374). -/
def Core.linkReported (c : Core) (iseq : Word) : Core :=
  { c with parked := c.parked.map fun p =>
      if p.eng = .c ∧ p.cmd.iseq = iseq ∧ p.cmd.failed then { p with cmd := { p.cmd with failed := false, progress := 3 } }
      else p }

/-- A core is told to stop for the debugger. -/
def State.tellStop (s : State) (i : Fin 128) (reason : BitVec 4) : State :=
  let s := s.abandonS i
  s.setCoreAt i { s.coreAt i with debug := .stopping reason, stepTo := none }

/-- The core's debug stop may be asked for: it runs, it makes a STEP, or it waits for the end of one (R440, R441). -/
def Core.mayStop (c : Core) : Bool :=
  match c.debug with
  | .running | .stepping => true
  | .stopping _ => c.stepTo.isSome
  | .stopped _ => false

/-- With STOPCTX set on a core that stops, every core of its context stops, and they form one stop (R440). -/
def State.spreadStop (s : State) (i : Fin 128) : State :=
  let c := s.coreAt i
  match c.job with
  | some j =>
    if c.dbgStopCtx then
      (s.coresOf j.ctx).foldl (fun (s : State) k =>
        let s := if k ≠ i ∧ (s.coreAt k).mayStop then s.tellStop k 5 else s
        s.setCoreAt k { s.coreAt k with dbgCtx := true }) s
    else s
  | none => s

/-- A debug stop of a core is asked for, and with STOPCTX of every core of its context (R439, R440). -/
def State.askStop (s : State) (i : Fin 128) (reason : BitVec 4) : State := (s.tellStop i reason).spreadStop i

/-- A STEP of a core has issued its bundle, or trapped: the core stops again (R441). -/
def State.endStep (s : State) (i : Fin 128) (upTo : Word) : State :=
  if (s.coreAt i).debug = .stepping then
    (s.setCoreAt i { s.coreAt i with debug := .stopping 4, stepTo := some upTo }).spreadStop i
  else s

/-- Trap entry once the cut is complete (R92): into the handler, or recorded and escalated. An ECC error is the fatal
event. A trap of a STEP's own bundle ends the STEP, at the handler's first bundle; one of an earlier command leaves the
bundle to issue (R441). -/
def State.trapEntry (s : State) (i : Fin 128) (cause : Cause) (info : DWord) (q : Nat) (iseq : Word) : State :=
  let s := if iseq = (s.coreAt i).iseq then s.endStep i iseq else s
  -- what an escalating trap of a handler parks returns at RESUME, unlike what the handler's own trap parked (R101)
  let s := s.cut i (if (s.coreAt i).sr.active then .stop else .trap)
  let c := s.coreAt i
  let id := match c.job with
    | some j => j.ctx
    | none => 0
  let pc := c.trapPc
  let s := s.trace 3 i.val id iseq (BitVec.ofNat 64 (cause.code + q * 256)) pc
  if cause = .ecc then s.fatal id 21 i.val
  else if c.sr.active || c.sr.tvec == 0 then
    -- ACTIVE is left as it is
    let r := c.sr.record cause info q iseq pc c.sr.active
    -- what waits on a page that is not present still waits for a REPLAY after RESUME (R85)
    let s := s.setCoreAt i { c with sr := r, pendingTrap := none, job := c.job.map fun j => { j with escalated := true } }
    (s.refreshWait id).esc id
  else
    let r := (c.sr.record cause info q iseq pc true).saveForTrap
    let c := if cause = .link then c.linkReported iseq else c
    (s.setCoreAt i { c with
      sr := r, pc := c.sr.tvec, seq := .fetching, pendingTrap := none
      drainAt := match c.seq with
        | .draining a => some a
        | .fetching => none
      sStop := none, mStop := none, cStop := none }).refreshWait id

/-- Of two faults found before the cut is complete, the one reported: the lowest issue sequence, then S before V before
M before C (R91, R166).
Log entry 91: DEDUCED, unsafe. -/
def pickFault (a b : Option Eng × Cause × DWord × Word) : Option Eng × Cause × DWord × Word :=
  if b.2.2.2.toNat < a.2.2.2.toNat ∨ (b.2.2.2 = a.2.2.2 ∧ queueCode b.1 < queueCode a.1) then b else a

/-- A precise fault of the executing core (R90 to R92): it is taken once the cut can be completed, the lowest issue
sequence first. A fault of a command of an open transaction group aborts the group (R262). -/
def State.raise (s : State) (q : Option Eng) (cause : Cause) (info : DWord) (iseq : Word) : State :=
  let s := if q = some .c then s.modCore Core.abortGroup else s
  let c := s.core
  let f := match c.pendingTrap with
    | some p => pickFault p (q, cause, info, iseq)
    | none => (q, cause, info, iseq)
  if s.cutNow s.cur then s.trapEntry s.cur f.2.1 f.2.2.1 (queueCode f.1) f.2.2.2
  else s.setCore { c with pendingTrap := some f, head := .waitEngine, issue := .notDone }

/-- A fault added to those found and not yet taken (R91). -/
def Core.later (c : Core) (q : Option Eng) (cause : Cause) (info : DWord) (iseq : Word) : Core :=
  let f := match c.pendingTrap with
    | some p => pickFault p (q, cause, info, iseq)
    | none => (q, cause, info, iseq)
  { c with pendingTrap := some f }

/-- A fault that an event finds while the core runs on: it is taken by TRAP_ENTRY (R91, R166). -/
def State.raiseLater (s : State) (i : Fin 128) (q : Option Eng) (cause : Cause) (info : DWord) (iseq : Word) : State :=
  s.setCoreAt i ((s.coreAt i).later q cause info iseq)

/-- The path's stop on a replayable fault (R322, R323): the fault is reported unless the page is migrating, the job is
in FAULT_WAIT, and an array command gives up the lease (R221). The PATH code 5 is that of the stash commands (R325). -/
def State.stopPath (s : State) (q : Option Eng) (path : Nat) (va : BitVec 57) (acc : BitVec 2) (migrating : Bool)
    (iseq : Word) : State :=
  let id := s.curCtx
  let p : PathStop := ⟨migrating, va, acc, iseq⟩
  let s := if migrating then s else s.reportAbsent id va acc path s.cur.val s.core.jobSlot iseq
  let s := s.modCore fun c => match q with
    | none | some .v => { c with sStop := some p, head := .waitEngine, issue := .notDone }
    | some .m => { c with mStop := some p }
    | some .c => { c with cStop := some p }
  let s := if q = some .m then s.releaseLease s.cur else s
  s.refreshWait id

/-- A cached leaf covers an address. -/
def TlbEntry.covers (e : TlbEntry) (id : CtxId) (va : Nat) : Bool :=
  e.ctx == id && decide (e.va.toNat ≤ va) && decide (va < e.va.toNat + e.size)

/-- No cached leaf of the executing core's context covers an address. -/
def State.misses (s : State) (va : Nat) : Bool := (s.tlb.find? fun e => e.covers s.curCtx va).isNone

/-- The stop is a wait: what it holds is tried again. -/
def Stop.isWait : Stop → Bool
  | .flag _ | .scoreboard | .engine => true
  | _ => false

/-- What a stopped meaning has done is undone, but for the TLB misses it has met, where they are the event counted: its
core's count as it stood at the stop (R448). -/
def State.keepMisses (s : State) (x : Stop) (perf : DWord) : State :=
  if s.regs.pcsel.toNat % 256 = 4 ∧ !x.isWait then s.modCore fun c => { c with perf := perf } else s

/-- How an S word's stop leaves the machine. -/
def State.stopS (s : State) (x : Stop) : State :=
  match x with
  | .trap cause info => s.raise none cause info s.core.iseq
  | .notPresent va acc => s.stopPath none 0 va acc false s.core.iseq
  | .migrating va acc => s.stopPath none 0 va acc true s.core.iseq
  | .fatal code => s.fatal s.curCtx code s.cur.val
  | .flag n => s.modCore fun c => { c with head := .waitFlag (BitVec.ofNat 7 n), issue := .notDone }
  | .scoreboard => s.modCore fun c => { c with head := .waitScoreboard, issue := .notDone }
  | .engine => s.modCore fun c => { c with head := .waitEngine, issue := .notDone }

/-- An S word executes: all of its meaning, or its stop. -/
def runS (body : M Unit) (s : State) : Host.Outcome State Fault Refusal :=
  match body s with
  | .ok (_, t) => .next t
  | .error (x, perf) => .next ((s.keepMisses x perf).stopS x)

/-- The S word has completed. -/
def advance : M Unit := modCore Core.advance

end Sys2Proof.Machine
end

