-- ==== Sys2Proof/Machine/Flags.lean ====
section
/-! DEFINITION. Machine/Flags.lean: the flags a unit may raise, the integer division with its DZ, and what `tfence`
finds (R37, R38, R96, R159). The flags of arithmetic on elements are computed with their results, in Num.lean and
VecLane.lean. -/

namespace Sys2Proof.Machine

/-- The flags the matrix array may set: IV, OF and SAT (R38). -/
def matrixFlags (f : Flags) : Flags := f &&& (flagIV ||| flagOF ||| flagSAT)

/-- The flags the vector engine may set: all but DZ (R38). -/
def vectorFlags (f : Flags) : Flags := f &&& ~~~flagDZ

/-- `div`: the quotient and its flag (R159). -/
def divU (a b : DWord) : DWord × Flags :=
  if b = 0 then (BitVec.allOnes 64, flagDZ) else (a / b, 0)

/-- `rem` (R159). -/
def remU (a b : DWord) : DWord × Flags :=
  if b = 0 then (a, flagDZ) else (a % b, 0)

/-- `divs`: the quotient rounded toward zero; -2^63 by -1 wraps to itself (R159). -/
def divS (a b : DWord) : DWord × Flags :=
  if b = 0 then (if a.toInt < 0 then 0x8000000000000000 else 0x7FFFFFFFFFFFFFFF, flagDZ)
  else (BitVec.ofInt 64 (a.toInt.tdiv b.toInt), 0)

/-- `rems`: the remainder with the sign of a (R159). -/
def remS (a b : DWord) : DWord × Flags :=
  if b = 0 then (a, flagDZ) else (BitVec.ofInt 64 (a.toInt.tmod b.toInt), 0)

/-- AFLAGS AND AFMASK: what `tfence` traps on (R96). -/
def SRegs.arith (r : SRegs) : DWord := r.aflags &&& r.afmask

/-- An execution writes a register and ORs its flag into AFLAGS, and the S word is complete (R39, R158, R159). -/
def Core.writeFlagged (c : Core) (d : XReg) (r : DWord × Flags) : Core := ((c.wx d r.1).orFlags r.2).advance

end Sys2Proof.Machine
end

