-- ==== Sys2Proof/Machine/Operands.lean ====
section
/-! DEFINITION. Machine/Operands.lean: the operand forms that are not registers: element formats and their codes, the
fields of layout records and B descriptors, the walk of a record, plane images (R22, R26 to R28, R223 to R227, R231 to
R233, R245, R251). -/

namespace Sys2Proof.Machine

/-! ## Element formats (R224) -/

/-- The width in bits of a format code; RAW and the reserved codes walk as 8 (R245). -/
def fmtWidth (code : Nat) : Nat :=
  match code with
  | 3 | 4 | 5 => 4
  | 6 | 7 => 16
  | 9 | 10 => 32
  | _ => 8

/-- The floating-point format of a code. -/
def floatOf (code : Nat) : Option FFmt :=
  match code with
  | 1 => some .e4m3
  | 2 => some .e5m2
  | 3 => some .e2m1
  | 6 => some .bf16
  | 7 => some .f16
  | 9 => some .f32
  | _ => none

/-- The code is one of the integer formats INT4, INT8 and INT32. -/
def isIntFmt (code : Nat) : Bool := code == 4 || code == 8 || code == 10

/-- The code is an MMA format. -/
def isMmaFmt (code : Nat) : Bool := decide (1 ≤ code) && decide (code ≤ 8)

/-- The formats a block scale may go with: FP8, FP4, INT4 and CB4 (R26, R249). -/
def isScaledFmt (code : Nat) : Bool := decide (1 ≤ code) && decide (code ≤ 5)

/-- The block size of a G or SG code; 0 for none. -/
def blockSize (g : Nat) : Nat :=
  match g with
  | 1 => 16
  | 2 => 32
  | 3 => 64
  | _ => 0

/-- The exact value of an element's bits in a format that is not CB4 (R23, R27); RAW has none. -/
def elemVal (code x : Nat) : Val :=
  match floatOf code with
  | some f => decF f x
  | none => valOfInt (signed (fmtWidth code) x)

/-! ## Layout records (R223) -/

/-- BASE. -/
def lyBase (r : BitVec 512) : Nat := bits r.toNat 63 0
/-- SPACE. -/
def lySpace (r : BitVec 512) : Nat := bits r.toNat 67 64
/-- FMT. -/
def lyFmt (r : BitVec 512) : Nat := bits r.toNat 71 68
/-- SG. -/
def lySg (r : BitVec 512) : Nat := bits r.toNat 73 72
/-- CB. -/
def lyCb (r : BitVec 512) : Nat := bits r.toNat 79 74
/-- STEP. -/
def lyStep (r : BitVec 512) : Bool := bitN r.toNat 80
/-- The extent of dimension n: En + 1. -/
def lyExt (r : BitVec 512) (n : Nat) : Nat := bits r.toNat (111 + 16 * n) (96 + 16 * n) + 1
/-- The stride of dimension n in bytes. -/
def lyStride (r : BitVec 512) (n : Nat) : Int := signed 32 (bits r.toNat (223 + 32 * n) (192 + 32 * n))
/-- C2. -/
def lyC2 (r : BitVec 512) : Nat := bits r.toNat 175 160
/-- C3. -/
def lyC3 (r : BitVec 512) : Nat := bits r.toNat 191 176
/-- SCADDR. -/
def lyScaddr (r : BitVec 512) : Nat := bits r.toNat 351 320
/-- A reserved bit of the image is set (R282). -/
def lyReserved (r : BitVec 512) : Bool := bits r.toNat 511 352 != 0 || bits r.toNat 95 81 != 0

/-- A layout record with its reserved bits cleared (R2, R223). -/
def lyClean (r : BitVec 512) : BitVec 512 :=
  r &&& BitVec.ofNat 512 (2 ^ 352 - 1 - (2 ^ 96 - 2 ^ 81))

/-- A generator register with its reserved bits cleared (R2, R409). -/
def gnClean (r : BitVec 512) : BitVec 512 :=
  r &&& BitVec.ofNat 512 (2 ^ 271 - 1 - 2 ^ 259 - (2 ^ 256 - 2 ^ 249))

/-- KIND. -/
def gnKind (r : BitVec 512) : Nat := bits r.toNat 258 256
/-- COL0. -/
def gnCol0 (r : BitVec 512) : Int := signed 32 (bits r.toNat 159 128)
/-- TBL. -/
def gnTbl (r : BitVec 512) : Nat := bits r.toNat 248 192
/-- OFMT. -/
def gnFmt (r : BitVec 512) : Nat := bits r.toNat 263 260

/-- The columns of a generator operand that a command uses: K of them, or 64. -/
def genCols (transposed : Bool) (k : Nat) : Nat := if transposed then 64 else k

/-- The origin: BASE + C2·S2 + C3·S3, exact (R245). -/
def lyOrigin (r : BitVec 512) : Int := lyBase r + lyC2 r * lyStride r 2 + lyC3 r * lyStride r 3

/-- The number of elements of the walk. -/
def lyCount (r : BitVec 512) : Nat := lyExt r 0 * lyExt r 1 * lyExt r 2 * lyExt r 3

/-- The coordinates of a walk position, dimension 0 fastest. -/
def lyCoords (r : BitVec 512) (n : Nat) : Nat × Nat × Nat × Nat :=
  (n % lyExt r 0, n / lyExt r 0 % lyExt r 1, n / (lyExt r 0 * lyExt r 1) % lyExt r 2,
    n / (lyExt r 0 * lyExt r 1 * lyExt r 2))

/-- The byte address of walk position n and, for a 4-bit element, whether it is the high nibble (R22, R245). -/
def lyAddr (r : BitVec 512) (n : Nat) : Int × Bool :=
  let (e0, e1, e2, e3) := lyCoords r n
  let rest := lyOrigin r + e1 * lyStride r 1 + e2 * lyStride r 2 + e3 * lyStride r 3
  if fmtWidth (lyFmt r) = 4 then (rest + (e0 / 2 : Nat), e0 % 2 = 1)
  else (rest + e0 * lyStride r 0, false)

/-- The bytes an element occupies. -/
def lyElemBytes (r : BitVec 512) : Nat := (fmtWidth (lyFmt r) + 7) / 8

/-- The span of a record, its least address and the address after its last byte (R245, R271). -/
def lySpan (r : BitVec 512) : Int × Int :=
  let term := fun n : Nat =>
    if n = 0 ∧ fmtWidth (lyFmt r) = 4 then (((lyExt r 0 - 1) / 2 : Nat) : Int) else ((lyExt r n - 1 : Nat) : Int) * lyStride r n
  let neg := ((List.range 4).map fun n => min 0 (term n)).sum
  let pos := ((List.range 4).map fun n => max 0 (term n)).sum
  (lyOrigin r + neg, lyOrigin r + pos + lyElemBytes r)

/-- The bytes of a record's walk output, packed. -/
def lyBytes (r : BitVec 512) : Nat := (lyCount r * fmtWidth (lyFmt r) + 7) / 8

/-- The record covers one unbroken byte range in walk order (R251). -/
def lyPlain (r : BitVec 512) : Bool :=
  let w := fmtWidth (lyFmt r)
  let e := fun n => lyExt r n
  let higher : Bool := (e 1 == 1) && (e 2 == 1) && (e 3 == 1)
  (if w = 4 then higher || e 0 % 2 == 0 else lyStride r 0 == (w / 8 : Nat)) &&
  (e 1 == 1 || lyStride r 1 * 8 == (e 0 * w : Nat)) &&
  (e 2 == 1 || lyStride r 2 * 8 == (e 0 * e 1 * w : Nat)) &&
  (e 3 == 1 || lyStride r 3 * 8 == (e 0 * e 1 * e 2 * w : Nat))

/-! ## B descriptors and plane images (R231 to R233) -/

/-- WSADDR. -/
def bdAddr (d : DWord) : Nat := bits d.toNat 31 0
/-- The positions per row: 64 or 128. -/
def bdWb (d : DWord) : Nat := if bitN d.toNat 39 then 128 else 64
/-- The rows of the image. -/
def bdRows (d : DWord) : Nat := bits d.toNat 47 40 + 1
/-- FMT. -/
def bdFmt (d : DWord) : Nat := bits d.toNat 55 52
/-- G. -/
def bdG (d : DWord) : Nat := bits d.toNat 57 56
/-- The reserved bits cleared (R284). -/
def bdClean (d : DWord) : DWord := d &&& 0x03F0FF80FFFFFFFF

/-- The significand planes of a format: the significand width, or the integer width. -/
def sigPlanes (code : Nat) : Nat :=
  match code with
  | 1 => 4 | 2 => 3 | 3 => 2 | 4 => 4 | 5 => 8 | 6 => 8 | 7 => 11 | 8 => 8
  | _ => 0

/-- The head planes of a format: sign and exponent. -/
def headPlanes (code : Nat) : Nat :=
  match code with
  | 1 => 5 | 2 => 6 | 3 => 3 | 5 => 9 | 6 => 9 | 7 => 6
  | _ => 0

/-- The bytes of an image's planes. -/
def planeBytes (code rows wb : Nat) : Nat := (sigPlanes code + headPlanes code) * rows * (wb / 8)

/-- The bytes of a descriptor's whole image, planes and scale groups (R232, R233); an FMT that is no MMA format has no
planes.
Log entry 124: DESIGN CHOICE, unsafe. -/
def bdSize (d : DWord) : Nat :=
  let g := blockSize (bdG d)
  planeBytes (bdFmt d) (bdRows d) (bdWb d) + (if g = 0 then 0 else (bdRows d + g - 1) / g * (2 * bdWb d))

/-- The format an image's elements are stored in: a CB4 image is a BF16 image. -/
def imageFmt (code : Nat) : Nat := if code = 5 then 6 else code

/-- Bit (r, c) of a plane. -/
def planeBit (rd : Nat → Byte) (base rows wb plane r c : Nat) : Nat :=
  (rd (base + plane * rows * (wb / 8) + r * (wb / 8) + c / 8)).toNat / 2 ^ (c % 8) % 2

/-- Bits of consecutive planes, the first the most significant. -/
def planeField (rd : Nat → Byte) (base rows wb r c first n : Nat) : Nat :=
  (List.range n).foldl (fun acc q => acc * 2 + planeBit rd base rows wb (first + q) r c) 0

/-- The encoding of image element (r, c), assembled from its bits in the planes (R232, R233); the leading bit follows from
the exponent, whatever its plane holds.
Log entry 123: DESIGN CHOICE, unsafe. -/
def planeElem (rd : Nat → Byte) (base code rows wb r c : Nat) : Nat :=
  let m := sigPlanes code
  let h := headPlanes code
  let sig := planeField rd base rows wb r c 0 m
  if h = 0 then sig
  else planeField rd base rows wb r c m h * 2 ^ (m - 1) + sig % 2 ^ (m - 1)

/-- The bit of an element's encoding that plane q holds (R232). -/
def planeBitOf (code x q : Nat) : Nat :=
  let m := sigPlanes code
  let h := headPlanes code
  if h = 0 then x / 2 ^ (m - 1 - q) % 2
  else if q = 0 then (if x / 2 ^ (m - 1) % 2 ^ (h - 1) = 0 then 0 else 1)
  else if q < m then x / 2 ^ (m - 1 - q) % 2
  else x / 2 ^ (m + h - 2 - (q - m)) % 2

end Sys2Proof.Machine
end

