-- ==== Sys2Proof/Machine/PageGroup.lean ====
section
/-! DEFINITION. Machine/PageGroup.lean: compressed pages: page groups, records and the block codec (R333 to R336). -/

namespace Sys2Proof.Machine

/-! ## Block codec (R334, R335) -/

/-- The bytes of a block's tokens expanded; none where they are cut short. Fuel bounds the tokens. -/
def expandTokens : Nat → List Byte → Option (List Byte)
  | 0, _ => none
  | _ + 1, [] => some []
  | fuel + 1, t :: rest =>
    if t.toNat < 0x80 then
      let n := t.toNat + 1
      if rest.length < n then none
      else (expandTokens fuel (rest.drop n)).map (rest.take n ++ ·)
    else (expandTokens fuel rest).map (List.replicate (t.toNat - 0x7F) 0 ++ ·)

/-- Byte q·(256/s) + e of the shuffled form is byte q of element e. -/
def unshuffle (s : Nat) (xs : List Byte) : List Byte :=
  (List.range 256).map fun i => xs.getD (i % s * (256 / s) + i / s) 0

/-- The shuffled form of a block. -/
def shuffle (s : Nat) (xs : List Byte) : List Byte :=
  (List.range 256).map fun i => xs.getD (i % (256 / s) * s + i / (256 / s)) 0

/-- The 256 bytes of a stored block by its mode and SH4 (R334); none is an uncorrectable data error. -/
def decodeBlock (mode : Nat) (sh4 : Bool) (stored : List Byte) : Option (List Byte) :=
  match mode with
  | 0 => if stored.length = 0 then some (List.replicate 256 0) else none
  | 1 => if stored.length = 4 then some ((List.replicate 64 stored).flatten) else none
  | 2 =>
    match expandTokens 257 stored with
    | some xs => if xs.length = 256 then some (unshuffle (if sh4 then 4 else 2) xs) else none
    | none => none
  | _ => if stored.length = 256 then some stored else none

/-- The run of zeros at the head of a list, and the rest. -/
def zeroRun : List Byte → Nat × List Byte
  | [] => (0, [])
  | x :: xs => if x = 0 then let (n, r) := zeroRun xs; (n + 1, r) else (0, x :: xs)

/-- A literal run cut into tokens of at most 128 bytes. -/
def literalTokens : Nat → List Byte → List Byte
  | 0, _ => []
  | _ + 1, [] => []
  | fuel + 1, xs => BitVec.ofNat 8 ((xs.take 128).length - 1) :: xs.take 128 ++ literalTokens fuel (xs.drop 128)

/-- The zero tokens of a maximal run of n, 128 at most per token. -/
def zeroTokens (n : Nat) : List Byte :=
  List.replicate (n / 128) 0xFF ++ (if n % 128 = 0 then [] else [BitVec.ofNat 8 (0x7F + n % 128)])

/-- The canonical tokens of a shuffled block: a zero token for every maximal run of two or more zeros, all else in
literals (R335). `lit` holds the literal bytes gathered, the latest first. -/
def encodeTokens : Nat → List Byte → List Byte → List Byte
  | 0, _, lit => literalTokens 4 lit.reverse
  | _ + 1, [], lit => literalTokens 4 lit.reverse
  | fuel + 1, x :: xs, lit =>
    if x = 0 then
      let (n, rest) := zeroRun xs
      if n = 0 then encodeTokens fuel xs (x :: lit)
      else literalTokens 4 lit.reverse ++ zeroTokens (n + 1) ++ encodeTokens fuel rest []
    else encodeTokens fuel xs (x :: lit)

/-- The canonical encoding of a block: mode, SH4 and stored bytes; the first candidate of least length (R335). -/
def encodeBlock (xs : List Byte) : Nat × Bool × List Byte :=
  let s2 := encodeTokens 257 (shuffle 2 xs) []
  let s4 := encodeTokens 257 (shuffle 4 xs) []
  let zero : List (Nat × Bool × List Byte) := if xs.all (· == 0) then [(0, false, [])] else []
  let const : List (Nat × Bool × List Byte) :=
    if (List.replicate 64 (xs.take 4)).flatten = xs then [(1, false, xs.take 4)] else []
  let cands := zero ++ const ++ (if s2.length ≤ 256 then [(2, false, s2)] else []) ++
    (if s4.length ≤ 256 then [(2, true, s4)] else [])
  cands.foldr (fun c best => if c.2.2.length ≤ best.2.2.length then c else best) (3, false, xs)

/-! ## Page records (R333) -/

/-- The group of a compressed leaf's PA. -/
def groupOf (leafPa : Nat) : Nat := leafPa / 65536 * 65536

/-- The record index of a compressed leaf's PA. -/
def recordOf (leafPa : Nat) : Nat := leafPa / 4096 % 16

/-- A page's record: the slot's first byte and its size, where the page word is in use and its fields stand. -/
def pageSlot (m : Mem) (leafPa : Nat) : Option (Nat × Nat) :=
  let w := readLE m (groupOf leafPa + 80 * recordOf leafPa) 8
  let cls := bits w 10 8
  let start := bits w 7 0
  if bitN w 11 ∧ w / 4096 = 0 ∧ 1 ≤ cls ∧ cls ≤ 4 ∧ 5 ≤ start ∧ start ≤ 223 ∧ start * 256 + cls * 1024 ≤ 0xE000 then
    some (groupOf leafPa + start * 256, cls * 1024)
  else none

/-- The address of block entry k of a page. -/
def blockEntryAddr (leafPa k : Nat) : Nat := groupOf leafPa + 80 * recordOf leafPa + 0x10 + 4 * k

/-- Where a block's stored bytes lie, their number, its mode and SH4; none where the record or the block is refused. -/
def blockPlace (m : Mem) (leafPa k : Nat) : Option (Nat × Nat × Nat × Bool × Bool) :=
  match pageSlot m leafPa with
  | none => none
  | some (slot, size) =>
    let e := readLE m (blockEntryAddr leafPa k) 4
    let len := bits e 24 16
    let ofs := bits e 15 4
    let exc := bitN e 3
    if e / 2 ^ 25 ≠ 0 ∨ 256 < len then none
    else if exc then
      if 32 ≤ ofs then none
      else some (groupOf leafPa + 0xE000 + 256 * ofs, len, bits e 1 0, bitN e 2, true)
    else if size < ofs + len then none
    else some (slot + ofs, len, bits e 1 0, bitN e 2, false)

/-- A block of a compressed page: refused (none), or its decoded bytes, where none is an uncorrectable error. -/
def readBlock (m : Mem) (leafPa k : Nat) : Option (Option (List Byte)) :=
  match blockPlace m leafPa k with
  | none => none
  | some (a, len, mode, sh4, _) => some (decodeBlock mode sh4 (readBytes m a len))

/-- The exception entry j of a group is free: no block entry of a record in use names it. -/
def exceptionFree (m : Mem) (group j : Nat) : Bool :=
  (List.range 16).all fun p =>
    let base := group + 80 * p
    !bitN (readLE m base 8) 11 ||
      (List.range 16).all fun k =>
        let e := readLE m (base + 0x10 + 4 * k) 4
        !(bitN e 3 && bits e 15 4 == j)

/-- The lowest free exception entry (R336). -/
def freeException (m : Mem) (group : Nat) : Option Nat := (List.range 32).find? fun j => exceptionFree m group j

/-- A block entry's word. -/
def blockEntry (len ofs : Nat) (exc sh4 : Bool) (mode : Nat) : Nat :=
  len * 2 ^ 16 + ofs * 16 + (if exc then 8 else 0) + (if sh4 then 4 else 0) + mode

/-- A block's new bytes encoded and placed: at its old place if they fit there, else in the lowest free exception
entry; a block in an exception entry stays there. None where no exception entry is free (R336, R337). -/
def writeBlock (m : Mem) (leafPa k : Nat) (xs : List Byte) : Option Mem :=
  match blockPlace m leafPa k with
  | none => none
  | some (a, len, _, _, exc) =>
    let (mode, sh4, stored) := encodeBlock xs
    let ofs := bits (readLE m (blockEntryAddr leafPa k) 4) 15 4
    if exc ∨ stored.length ≤ len then
      some (writeLE (writeBytes m a stored) (blockEntryAddr leafPa k) 4 (blockEntry stored.length ofs exc sh4 mode))
    else
      match freeException m (groupOf leafPa) with
      | none => none
      | some j =>
        some (writeLE (writeBytes m (groupOf leafPa + 0xE000 + 256 * j) stored) (blockEntryAddr leafPa k) 4
          (blockEntry stored.length j true sh4 mode))

/-- The 4,096 bytes of a compressed page; none where it is refused or in error. -/
def readPage (m : Mem) (leafPa : Nat) : Option (List Byte) :=
  (List.range 16).foldl (fun acc k =>
    match acc, readBlock m leafPa k with
    | some xs, some (some b) => some (xs ++ b)
    | _, _ => none) (some [])

/-- The least CLASS that holds a page's blocks (R335). -/
def pageClass (blocks : List (Nat × Bool × List Byte)) : Nat :=
  let total := (blocks.map fun b => b.2.2.length).sum
  max 1 ((total + 1023) / 1024)

/-- A page's canonical blocks. -/
def encodePage (xs : List Byte) : List (Nat × Bool × List Byte) :=
  (List.range 16).map fun k => encodeBlock ((xs.drop (256 * k)).take 256)

/-- A page written compressed at record p of a group with its slot at a start, in block order (R335). -/
def placePage (m : Mem) (leafPa start : Nat) (xs : List Byte) : Mem :=
  let blocks := encodePage xs
  let cls := pageClass blocks
  let m := writeLE m (groupOf leafPa + 80 * recordOf leafPa) 8 (2 ^ 11 + cls * 256 + start)
  ((List.range 16).foldl (fun (acc : Mem × Nat) k =>
    let (mode, sh4, stored) := blocks.getD k (0, false, [])
    let (m, ofs) := acc
    (writeLE (writeBytes m (groupOf leafPa + start * 256 + ofs) stored) (blockEntryAddr leafPa k) 4
      (blockEntry stored.length ofs false sh4 mode), ofs + stored.length)) (m, 0)).1

/-- The 256-byte units of a group's slot area that its records in use hold. -/
def usedUnits (m : Mem) (group : Nat) : List (Nat × Nat) :=
  ((List.range 16).map fun p =>
    let w := readLE m (group + 80 * p) 8
    if bitN w 11 then [(bits w 7 0, bits w 10 8 * 4)] else []).flatten

/-- The lowest start of n free units in a group's slot area. -/
def findUnits (m : Mem) (group n : Nat) : Option Nat :=
  ((List.range 219).map (· + 5)).find? fun st =>
    decide (st + n ≤ 224) && (usedUnits m group).all fun u => decide (st + n ≤ u.1) || decide (u.1 + u.2 ≤ st)

/-- A page re-packed into a fresh slot of its group, with no block in the exception region (R337); one for which there is
no room stays. -/
def repackPage (m : Mem) (leafPa : Nat) : Mem :=
  match pageSlot m leafPa, readPage m leafPa with
  | some _, some xs =>
    match findUnits m (groupOf leafPa) (pageClass (encodePage xs) * 4) with
    | some st => placePage m leafPa st xs
    | none => m
  | _, _ => m

/-- The pages of a group re-packed, in the order of their records (R337). -/
def repackGroup (m : Mem) (g : Nat) : Mem := (List.range 16).foldl (fun m p => repackPage m (g + 4096 * p)) m

/-- The lowest record of a group not in use. -/
def freeRecord (m : Mem) (group : Nat) : Option Nat :=
  (List.range 16).find? fun p => !bitN (readLE m (group + 80 * p) 8) 11

end Sys2Proof.Machine
end

