-- ==== Sys2Proof/Machine/Translate.lean ====
section
/-! DEFINITION. Machine/Translate.lean: address forms, page walks, cached translations, permissions, and the views of
the transform apertures (R109, R311 to R319, R338 to R340). -/

namespace Sys2Proof.Machine

/-- The fields of a PAGE fault's TINFO: VA, kind, and bit 63 for an access that writes (R89). -/
def pageInfo (va kind : Nat) (writes : Bool) : DWord :=
  BitVec.ofNat 64 (va % 2 ^ 57 + kind * 2 ^ 60 + if writes then 2 ^ 63 else 0)

/-- The address has the global form of R109. -/
def isGlobal (a : Nat) : Bool := decide (a < 2 ^ 57)

/-- The capacity of the CXL range (R364). -/
def State.cxlSize (s : State) : Nat :=
  min ((bits s.regs.cxsz0.toNat 43 28 + bits s.regs.cxsz1.toNat 43 28) * 2 ^ 28) Config.cxlMax

/-- The n bytes from a physical address lie in the range of a tier (R315). -/
def State.inTier (s : State) (tier pa n : Nat) : Bool :=
  match tier with
  | 0 => decide (pa + n ≤ Config.hbmEnd)
  | 1 => decide (Config.lpddrBase ≤ pa) && decide (pa + n ≤ Config.lpddrEnd)
  | 2 => decide (Config.cxlBase ≤ pa) && decide (pa + n ≤ Config.cxlBase + s.cxlSize)
  | _ => decide (Config.hostBase ≤ pa) && decide (pa + n ≤ Config.hostEnd)

/-- The n bytes from a physical address lie in the aperture window. -/
def inApertures (pa n : Nat) : Bool := decide (Config.apertureBase ≤ pa) && decide (pa + n ≤ Config.apertureEnd)

/-! ## Leaf fields (R313) -/

/-- The leaf's PA. -/
def leafPa (e : DWord) : Nat := bits e.toNat 50 12 * 4096
/-- FMT. -/
def leafFmtBits (e : DWord) : Nat := bits e.toNat 63 60
/-- TIER. -/
def leafTier (e : DWord) : Nat := bits e.toNat 9 8

/-- A leaf is checked (R316). A page with held writes meets MIGRATING from the first of them on, in the in-flight table or
waiting for room in it (R261, R337).
Log entry 29: DEDUCED, unsafe. -/
def State.checkLeaf (s : State) (id : CtxId) (va e size pte : Nat) : WalkOut :=
  let pa := bits e 50 12 * 4096
  let tier := bits e 9 8
  let z := bitN e 10
  if bits e 59 51 ≠ 0 ∨ 7 < bits e 63 60 ∨ (bitN e 2 ∧ size ≠ 65536) ∨ pa % size ≠ 0 then .page
  else if !(s.inTier tier pa size || (inApertures pa size && tier == 0 && !z)) then .page
  else if z ∧ (size ≠ 4096 ∨ (tier ≠ 1 ∧ tier ≠ 2)) then .page
  else if s.moves.any fun m => (m.entered || !m.held.isEmpty) && m.pte.toNat == pte then .migrating
  else .leaf ⟨id, BitVec.ofNat 57 (va / size * size), size, BitVec.ofNat 64 e, BitVec.ofNat 51 pte⟩

/-- Level 0 of a walk: the first entry of a group of 16 decides a 64 KiB page (R314, R316). -/
def State.walkLast (s : State) (id : CtxId) (va t : Nat) : WalkOut :=
  let i := bits va 20 12
  let fa := t + 8 * (i / 16 * 16)
  let ea := t + 8 * i
  if !(s.inTier 0 t 4096 || s.inTier 1 t 4096) then .badTable
  else
    let f := readLE s.mem fa 8
    if bitN f 0 ∧ bitN f 2 ∧ bitN f 1 then s.checkLeaf id va f 65536 fa
    else
      let e := readLE s.mem ea 8
      if !bitN e 0 then .absent
      else if !bitN e 1 ∨ bitN e 2 then .page
      else s.checkLeaf id va e 4096 ea

/-- A walk from a table at a level, 0 the last (R316). -/
def State.walkFrom (s : State) (id : CtxId) (va : Nat) : Nat → Nat → WalkOut
  | 0, t => s.walkLast id va t
  | lvl + 1, t =>
    let a := t + 8 * bits va (20 + 9 * (lvl + 1)) (12 + 9 * (lvl + 1))
    if !(s.inTier 0 t 4096 || s.inTier 1 t 4096) then .badTable
    else
      let e := readLE s.mem a 8
      if !bitN e 0 then .absent
      else if !bitN e 1 then
        if bits e 63 51 ≠ 0 ∨ bits e 11 2 ≠ 0 then .page
        else s.walkFrom id va lvl (bits e 50 12 * 4096)
      else if 2 < lvl + 1 then .page
      else s.checkLeaf id va e (if lvl + 1 = 2 then 2 ^ 30 else 2 ^ 21) a

/-- The part of an address that leads to its entry at a level. -/
def tableIndex (va level : Nat) : Nat := va / 2 ^ (12 + 9 * level)

/-- A cached table entry stands on the path of an address. -/
def TableEntry.onPath (e : TableEntry) (id : CtxId) (va : Nat) : Bool :=
  e.ctx == id && e.index == tableIndex va e.level

/-- The cached table entry nearest the leaf of an address. -/
def State.tableOf (s : State) (id : CtxId) (va : Nat) : Option TableEntry :=
  [1, 2, 3, 4].findSome? fun lvl => s.tables.find? fun e => e.level == lvl && e.onPath id va

/-- Where the walk of an address begins: at PTROOT, or at the table that a cached entry names (R311, R318): the levels
left and the table. -/
def State.walkStart (s : State) (id : CtxId) (va : Nat) : Nat × Nat :=
  match s.tableOf id va with
  | some e => (e.level - 1, e.next.toNat)
  | none => (4, (s.ctxOf id).ptroot.toNat)

/-- The walk of an address of a context (R311, R316). -/
def State.walk (s : State) (id : CtxId) (va : Nat) : WalkOut :=
  let (lvl, t) := s.walkStart id va
  s.walkFrom id va lvl t

/-- The table entries that a walk from a table reads. -/
def State.tablesFrom (s : State) (id : CtxId) (va : Nat) : Nat → Nat → List TableEntry
  | 0, _ => []
  | lvl + 1, t =>
    let e := readLE s.mem (t + 8 * bits va (20 + 9 * (lvl + 1)) (12 + 9 * (lvl + 1))) 8
    if !(s.inTier 0 t 4096 || s.inTier 1 t 4096) || !bitN e 0 || bitN e 1 || bits e 63 51 != 0 || bits e 11 2 != 0 then []
    else ⟨id, lvl + 1, tableIndex va (lvl + 1), BitVec.ofNat 51 (bits e 50 12 * 4096)⟩ ::
      s.tablesFrom id va lvl (bits e 50 12 * 4096)

/-- The walk caches take the table entries of a walk (R318). -/
def State.cacheTables (s : State) (id : CtxId) (va : Nat) : State :=
  let (lvl, t) := s.walkStart id va
  { s with tables := s.tablesFrom id va lvl t ++ s.tables }

/-- The device sets a bit of an entry by an indivisible OR (R317). -/
def State.orPte (s : State) (e : TlbEntry) (mask : Nat) : State :=
  { s with mem := writeLE s.mem e.pteAddr.toNat 8 (readLE s.mem e.pteAddr.toNat 8 ||| mask) }

/-- A leaf with its A bit. -/
def TlbEntry.used (e : TlbEntry) : TlbEntry := { e with leaf := e.leaf ||| 0x40 }

/-- A leaf is cached and its A bit set (R317). -/
def State.cache (s : State) (e : TlbEntry) : State :=
  let s := s.orPte e 0x40
  { s with tlb := e.used :: s.tlb }

/-- The translation of an address before any permission check: from a cached leaf, or from a walk that caches its table
entries and its leaf (R316 to R319). A cached entry serves until an invalidation; dropping one is an action of its own.
Log entry 84: DEDUCED, safe.
Log entry 87: DEDUCED, safe. -/
def State.lookup (s : State) (id : CtxId) (va : Nat) : State × WalkOut :=
  match s.tlb.find? fun e => e.covers id va with
  | some e => (s, .leaf e)
  | none =>
    match s.walk id va with
    | .leaf e => ((s.cacheTables id va).cache e, .leaf e.used)
    | o => (s.cacheTables id va, o)

/-- The access writes. -/
def Access.writes : Access → Bool
  | .store | .red => true
  | _ => false

/-- ACC of a fault-buffer entry (R325). -/
def Access.acc : Access → BitVec 2
  | .load => 0
  | .store | .red => 1
  | .fetch => 2

/-- The kind of the missing permission, R before W (R89, R316). -/
def permFault (e : DWord) (a : Access) : Option Nat :=
  match a with
  | .load => if e.getLsbD 3 then none else some 1
  | .store => if e.getLsbD 4 then none else some 2
  | .red => if !e.getLsbD 3 then some 1 else if e.getLsbD 4 then none else some 2
  | .fetch => if e.getLsbD 5 then none else some 3

/-- The first write through a cached leaf whose D is 0 sets D (R317). -/
def State.setDirty (s : State) (e : TlbEntry) : State :=
  if e.leaf.getLsbD 7 then s
  else
    let s := s.orPte e 0x80
    { s with tlb := s.tlb.map fun x => if x = e then { x with leaf := x.leaf ||| 0x80 } else x }

/-- The translation of an address of global form for an access of a context, with its faults (R316, R322). -/
def translateFor (id : CtxId) (a : Access) (va : Nat) : M TlbEntry := fun s =>
  let (s, o) := s.lookup id va
  match o with
  | .absent => stop (.notPresent (BitVec.ofNat 57 va) a.acc) s
  | .migrating => stop (.migrating (BitVec.ofNat 57 va) a.acc) s
  | .page => trapM .page (pageInfo va 4 a.writes) s
  | .badTable => stop (.fatal 0x83) s
  | .leaf e =>
    match permFault e.leaf a with
    | some k => trapM .page (pageInfo va k a.writes) s
    | none => .ok (e, if a.writes then s.setDirty e else s)

/-- The same for an access of the executing core's job; its TLB miss counts (R448). -/
def translate (a : Access) (va : Nat) : M TlbEntry := do
  let id := (← getJob).ctx
  modS fun s => if s.misses va then s.perfCount 4 1 else s
  translateFor id a va

/-! ## Apertures (R338 to R340) -/

/-- XF. -/
def Aperture.xf (a : Aperture) : Nat := bits a.ctl.toNat 3 1
/-- VFMT. -/
def Aperture.vfmt (a : Aperture) : Nat := bits a.ctl.toNat 11 8
/-- The element bytes of TRANSPOSE2D. -/
def Aperture.esz (a : Aperture) : Nat := 2 ^ bits a.ctl.toNat 5 4
/-- The buffer. -/
def Aperture.base (a : Aperture) : Nat := bits a.buf.toNat 50 12 * 4096
/-- BYTES. -/
def Aperture.bytes (a : Aperture) : Nat := bits a.size.toNat 39 0
/-- ROWS. -/
def Aperture.rows (a : Aperture) : Nat := bits a.geo.toNat 31 0
/-- COLS. -/
def Aperture.cols (a : Aperture) : Nat := bits a.geo.toNat 63 32
/-- The positions per plane row. -/
def Aperture.wb (a : Aperture) : Nat := if bitN a.ctl.toNat 12 then 128 else 64
/-- The width of a PLANEVIEW element: that of the format its image stores.
Log entry 72: DESIGN CHOICE, unsafe. -/
def Aperture.viewWidth (a : Aperture) : Nat := fmtWidth (imageFmt a.vfmt)

/-- The view's size; a disabled aperture and an XF of 4 to 7 have none. -/
def Aperture.viewSize (a : Aperture) : Nat :=
  if !a.ctl.getLsbD 0 then 0
  else match a.xf with
    | 0 => a.bytes
    | 1 => a.rows * a.cols * a.esz
    | 2 => 2 * a.bytes
    | 3 => a.rows * a.wb * a.viewWidth / 8
    | _ => 0

/-- The physical addresses a view byte is made of. -/
def Aperture.sources (a : Aperture) (o : Nat) : List Nat :=
  match a.xf with
  | 0 => [a.base + o]
  | 1 =>
    let i := o / a.esz
    [a.base + (i % a.rows * a.cols + i / a.rows) * a.esz + o % a.esz]
  | 2 => [a.base + o / 2]
  | _ =>
    let w := a.viewWidth
    let elems := if w = 4 then [2 * o, 2 * o + 1] else [o * 8 / w]
    (elems.map fun k =>
      (List.range (sigPlanes a.vfmt + headPlanes a.vfmt)).map fun q =>
        a.base + q * a.rows * (a.wb / 8) + k / a.wb * (a.wb / 8) + k % a.wb / 8).flatten

/-- A byte of the view, over the bytes of memory (R340). -/
def Aperture.viewByte (a : Aperture) (at_ : Nat → Byte) (o : Nat) : Byte :=
  match a.xf with
  | 2 =>
    let x := (at_ (a.base + o / 2)).toNat
    let f := if a.vfmt = 2 then FFmt.e5m2 else .e4m3
    BitVec.ofNat 8 ((convF .bf16 .rne (decF f x)).1 / 256 ^ (o % 2))
  | 3 =>
    let w := a.viewWidth
    let elem := fun k : Nat => planeElem at_ a.base a.vfmt a.rows a.wb (k / a.wb) (k % a.wb)
    if w = 4 then BitVec.ofNat 8 (elem (2 * o) + 16 * elem (2 * o + 1))
    else BitVec.ofNat 8 (elem (o * 8 / w) / 256 ^ (o % (w / 8)))
  | _ => at_ ((a.sources o).headD 0)

/-- The aperture n. -/
def State.aperture (s : State) (n : Nat) : Aperture := s.apertures.getD n ⟨0, 0, 0, 0⟩

/-- The leaf maps an aperture. -/
def leafAperture (e : DWord) : Bool := inApertures (leafPa e) 4096

/-- The element format of a leaf: an aperture's view is RAW (R338). -/
def leafFmt (e : DWord) : Nat := if leafAperture e then 0 else leafFmtBits e

/-- Where an offset of an aperture lies; none for a disabled aperture and an offset beyond its view (R338). -/
def State.apertureLoc (s : State) (n off : Nat) : Option Loc :=
  let a := s.aperture n
  if a.viewSize ≤ off then none else if a.xf = 0 then some (.plain (a.base + off)) else some (.view n off)

/-- Where the byte of a translated address lies; a disabled aperture, an offset beyond its view and a write to one that
is not IDENT fault PAGE (R338). -/
def locate (e : TlbEntry) (va : Nat) (writes : Bool) : M Loc := fun s =>
  let pa := leafPa e.leaf + (va - e.va.toNat)
  if leafAperture e.leaf then
    match s.apertureLoc (bits pa 43 40) (bits pa 39 0) with
    | none => trapM .page (pageInfo va 0 writes) s
    | some (.view n off) =>
      if writes then trapM .page (pageInfo va 2 true) s else .ok (.view n off, s)
    | some l => .ok (l, s)
  else if e.leaf.getLsbD 10 then .ok (.packed (leafPa e.leaf) (va - e.va.toNat), s)
  else .ok (.plain pa, s)

/-- The keys of the physical lines a byte is made of (R111, R123). -/
def State.lineKeys (s : State) : Loc → List Nat
  | .plain pa => [pa / 64]
  | .packed p off => [(p + off) / 64]
  | .view n off => ((s.aperture n).sources off).map (· / 64)

/-- The physical lines that n bytes of one piece are made of (R111, R338). -/
def State.lineKeysOf (s : State) (l : Loc) (n : Nat) : List Nat :=
  match l with
  | .view a off => ((List.range n).flatMap fun k => s.lineKeys (.view a (off + k))).eraseDups
  | _ => s.lineKeys l

/-- The lines, by their first bytes, whose homes serve n bytes of one piece: a line of a compressed page has the home of
the first line of its page group (R9, R315). -/
def State.homesOf (s : State) (l : Loc) (n : Nat) : List Nat :=
  match l with
  | .plain pa => [pa / 64 * 64]
  | .packed p _ => [groupOf p]
  | .view _ _ => (s.lineKeysOf l n).map (64 * ·)

/-! ## The base-die reducers' steps (R372, R378) -/

/-- A subnormal becomes the zero of its sign. -/
def flushSub (f : FFmt) (x : Nat) : Nat :=
  if x / 2 ^ f.frac % 2 ^ f.expBits = 0 then x / 2 ^ (f.width - 1) * 2 ^ (f.width - 1) else x

/-- The reducer's addition. -/
def radd (f : FFmt) (d x : Nat) : Nat :=
  let r := (addF f (decF f (flushSub f d)) (decF f (flushSub f x))).1
  if r / 2 ^ f.frac % 2 ^ f.expBits = 0 then 0 else r

/-- A line with a step's addend added to it, element by element. -/
def reduceLine (bf16 : Bool) (old x : Nat) : Nat :=
  let f := if bf16 then FFmt.bf16 else .f32
  packNat f.width ((List.range (512 / f.width)).map fun i => radd f (fieldNat f.width i old) (fieldNat f.width i x))

/-- A step applied to memory. -/
def RedStep.apply (r : RedStep) (m : Mem) : Mem :=
  r.lines.foldl (fun m l => writeLE m l.1.toNat 64 (reduceLine r.bf16 (readLE m l.1.toNat 64) l.2.toNat)) m

/-- A step has a part of the line of an address. -/
def RedStep.hasLine (r : RedStep) (pa : Nat) : Bool := r.lines.any fun l => decide (l.1.toNat / 64 = pa / 64)

/-- A line waits for a reducer, which holds its reads (R372). -/
def State.reducing (s : State) (pa : Nat) : Bool := s.redsteps.any fun r => r.hasLine pa

/-- A byte of memory as a read that the home holds for the reducers gets it: after the steps of its line (R372). -/
def State.settledByte (s : State) (pa : Nat) : Byte :=
  readByte ((s.redsteps.filter fun r => r.hasLine pa).foldl (fun m r => r.apply m) s.mem) pa

/-- The byte at a place; none is an uncorrectable error, and a refused record or block faults PAGE of kind 4 (R333,
R334). -/
def readLoc (l : Loc) (va : Nat) : M Byte := fun s =>
  match l with
  | .plain pa => .ok (s.settledByte pa, s)
  | .view n off => .ok ((s.aperture n).viewByte s.settledByte off, s)
  | .packed p off =>
    match readBlock s.mem p (off / 256) with
    | none => trapM .page (pageInfo va 4 false) s
    | some none => trapM .ecc 0 s
    | some (some b) => .ok (b.getD (off % 256) 0, s)

end Sys2Proof.Machine
end

