-- ==== Sys2Proof/Machine/Access.lean ====
section
/-! DEFINITION. Machine/Access.lean: global accesses at their homes: live outputs and their checks, line tags, the
EXCHANGE gate, Culvert rings, access counters, reads and writes of memory, compressed pages and staged lines, and the
local spaces (R103 to R111, R120 to R128, R259, R302, R320 to R329, R336, R337, R352). -/

namespace Sys2Proof.Machine

/-! ## Live outputs (R120 to R122) -/

/-- A line tag of nobody (R123). -/
def LineTag.none_ : LineTag := ⟨0, 0xFF, 0, 0xFF, 0, 0, 0⟩

/-- The live outputs of a context. -/
def Context.liveOuts (x : Context) : List LiveOut := x.outs.filterMap (·.2)

/-- A VA lies in a live output's region. -/
def LiveOut.has (o : LiveOut) (va : Nat) : Bool := decide (o.base.toNat ≤ va) && decide (va < o.limit)

/-- The leaf of an address: the cached one, or what a walk finds. -/
def State.leafOf (s : State) (id : CtxId) (va : Nat) : Option TlbEntry :=
  match s.tlb.find? fun e => e.covers id va with
  | some e => some e
  | none => match s.walk id va with
    | .leaf e => some e
    | _ => none

/-- The VA, in a range of a context, of a physical line: some page of the range maps it, an aperture's page by its view
(R111). -/
def State.lineVa (s : State) (id : CtxId) (lo hi line : Nat) : Option Nat :=
  (List.range ((hi - lo) / 4096 + 2)).findSome? fun k =>
    let page := (lo / 4096 + k) * 4096
    let inside := fun (va : Nat) => if lo ≤ va + 63 ∧ va < hi then some va else none
    match s.leafOf id page with
    | none => none
    | some e =>
      let pa := leafPa e.leaf + (page - e.va.toNat)
      if leafAperture e.leaf then
        (List.range 64).findSome? fun j =>
          match s.apertureLoc (bits pa 43 40) (bits pa 39 0 + 64 * j) with
          | some l => if (s.lineKeysOf l 64).contains line then inside (page + 64 * j) else none
          | none => none
      else if pa ≤ line * 64 ∧ line * 64 < pa + 4096 then inside (page + (line * 64 - pa))
      else none

/-- A VA range of a context holds an address of a physical line (R111). -/
def State.rangeHasLine (s : State) (id : CtxId) (lo hi line : Nat) : Bool := (s.lineVa id lo hi line).isSome

/-- The live outputs of a context that a line belongs to, accessed at an address of a context: by that address, first, or by
another address of the line (R111, R124). -/
def State.outsOf (s : State) (x : Context) (id : CtxId) (va line : Nat) : List LiveOut :=
  let named := fun (o : LiveOut) => x.ctxid == id && o.has va
  x.liveOuts.filter named ++
    x.liveOuts.filter fun o => !named o && s.rangeHasLine x.ctxid o.base.toNat o.limit line

/-- The live outputs of every context that a line belongs to (R111, R120). -/
def State.outsAt (s : State) (id : CtxId) (va line : Nat) : List LiveOut :=
  s.ctxs.toList.flatMap fun x => s.outsOf x id va line

/-- The phase of an output's group (R120): the PHASE field of its phase barrier; PRIVATE lines use 0. -/
def State.outPhase (s : State) (o : LiveOut) : Byte :=
  match o.phbar, o.kind with
  | some h, .sliced | some h, .reduce | some h, .exchange =>
    readByte (s.coreAt (h.extractLsb' 17 7).toFin).xs (h.toNat % 2 ^ 17 * 16 + 10)
  | _, _ => 0

/-- A counter of a context by its relative index (R365). -/
def State.counter (s : State) (id : CtxId) (n : Nat) : DWord := sget 0 s.counters ((s.ctxOf id).cnBase + n)

/-- The output's gate is open: CN ≥ COMPLETE (R126). -/
def State.gateOpen (s : State) (id : CtxId) (o : LiveOut) : Bool :=
  decide (o.complete.toNat ≤ (s.counter id o.cn.toNat).toNat)

/-- The byte lies in one of the job's windows for an output (R277). -/
def Job.inWindow (j : Job) (out a : Nat) : Bool :=
  j.windows.any fun w => match w with
    | some (o, lo, hi) => o == out && decide (lo ≤ a) && decide (a < hi)
    | none => false

/-- What R122 says of a write to one byte by a job: allowed, or the cause. -/
def writeVerdict (x : Context) (j : Job) (isRed : Bool) (a : Nat) : Option Cause :=
  match (x.liveOuts.filter fun o => o.slot = j.slot).find? (·.has a) with
  | none => some .window
  | some o =>
    match o.kind with
    | .sliced => if j.inWindow o.outidx.toNat a then none else some .window
    | .reduce => if isRed then none else some .conflict
    | .priv => none
    | .exchange => some .conflict

/-- The check of R122 at issue: the first offending address decides. -/
def checkWrites (isRed : Bool) (as : List Nat) : M Unit := do
  let x ← getCtx
  let j ← getJob
  match as.find? fun a => (writeVerdict x j isRed a).isSome with
  | none => pure ()
  | some a => trapM ((writeVerdict x j isRed a).getD .window) (BitVec.ofNat 64 a)

/-! ## The home check (R123, R124) -/

/-- The tag of a line as it counts in a registration.
Log entry 70: DESIGN CHOICE, safe. -/
def State.tag (s : State) (line : Nat) (o : LiveOut) : LineTag :=
  let t := sget LineTag.none_ s.tags line
  if t.reg = o.reg then t else { LineTag.none_ with reg := o.reg }

/-- The operation and width of a `red.*` as the tag holds it, in the field's 4 bits.
Log entry 95: DESIGN CHOICE, safe. -/
def ropCode (op : RedOp) (width : Nat) : BitVec 4 :=
  let k := match op with
    | .add => 0 | .and => 1 | .or => 2 | .xor => 3 | .max => 4 | .min => 5 | .fmax => 6 | .fmin => 7
  BitVec.ofNat 4 (k + if width = 8 then 8 else 0)

/-- The check of a read of a line by a core and its new tag (R124): none is CONFLICT. -/
def readTag (k : OutKind) (t : LineTag) (p c : Byte) : Option LineTag :=
  let w := decide (t.wr ≠ 0xFF) && decide (t.wph = p)
  let r := decide (t.rd ≠ 0xFF) && decide (t.rph = p)
  if k = .reduce && w then none
  else if w && t.wr != c then none
  else some { t with rd := if !r || t.rd == c then c else 0xFE, rph := p }

/-- The check of a write of a line by a core and its new tag (R124): none is CONFLICT. `rop` is the `red.*`. -/
def writeTag (k : OutKind) (t : LineTag) (p c : Byte) (rop : Option (BitVec 4)) : Option LineTag :=
  let w := decide (t.wr ≠ 0xFF) && decide (t.wph = p)
  let r := decide (t.rd ≠ 0xFF) && decide (t.rph = p)
  if r && t.rd != c then none
  else if k = .priv && w && t.wr != c then none
  else if k = .reduce && w && some t.rop != rop then none
  else some { t with
    wr := if !w || t.wr == c then c else 0xFE
    wph := p
    rop := if k = .reduce then rop.getD 0 else t.rop }

/-- The new tag of a line by an access of the executing core, as a line of one output; none is CONFLICT. -/
def State.nextTag (s : State) (writes : Bool) (rop : Option (BitVec 4)) (line : Nat) (o : LiveOut) : Option LineTag :=
  let c := BitVec.ofNat 8 s.cur.val
  if writes then writeTag o.kind (s.tag line o) (s.outPhase o) c rop else readTag o.kind (s.tag line o) (s.outPhase o) c

/-- `home_check` on the lines of an access by the executing core; `red` is the operation of a `red.*` (R124). A line in
several live outputs is checked for each, and its tag is that of the first.
Log entry 115: DEDUCED, unsafe. -/
def homeCheck (writes : Bool) (rop : Option (BitVec 4)) (va : Nat) (lines : List Nat) : M Unit :=
  forM' (fun line => do
    let s ← getS
    match s.core.job with
    | none => pure ()
    | some j =>
      let outs := s.outsAt j.ctx va line
      if outs.any fun o => o.slot ≠ j.slot then trapM .conflict (BitVec.ofNat 64 va)
      else
        let tags := (outs.filter fun o => o.kind ≠ .exchange).map (s.nextTag writes rop line)
        if tags.any Option.isNone then trapM .conflict (BitVec.ofNat 64 va)
        else match tags.head? with
          | some (some t) => modS fun s => { s with tags := sset LineTag.none_ s.tags line t }
          | _ => pure ()) lines

/-- A job's read of an EXCHANGE output waits until CN ≥ COMPLETE (R126). -/
def exchangeGate (va : Nat) (lines : List Nat) : M Unit := do
  let s ← getS
  match s.core.job with
  | none => pure ()
  | some j =>
    waitIf (lines.any fun line => (s.outsAt j.ctx va line).any fun o =>
      o.kind = .exchange && o.slot == j.slot && !s.gateOpen j.ctx o) (.flag 67)

/-! ## Culvert rings (R350, R352) -/

/-- A receive endpoint that has been enabled, in ERROR or not, with a ring that `crel` opens: its slots keep their states
(R352). -/
def Channel.hasRing (c : Channel) : Bool := c.ctl.getLsbD 16 && !c.ctl.getLsbD 17 && c.state != 0

/-- The context that owns an endpoint. -/
def Channel.ctx (c : Channel) : CtxId := BitVec.ofNat 16 (bits c.ctl.toNat 63 48)

/-- The slot size in bytes (R350). -/
def Channel.slotBytes (c : Channel) : Nat := 2 ^ (min (bits c.ctl.toNat 35 32) 12 + 8)

/-- The number of slots. -/
def Channel.nslot (c : Channel) : Nat := bits c.ctl.toNat 31 24 + 1

/-- OWNER. -/
def Channel.owner (c : Channel) : Nat := bits c.ctl.toNat 47 41

/-- The ring's first VA. -/
def Channel.ringVa (c : Channel) : Nat := bits c.ring.toNat 56 0

/-- The state of a slot. -/
def Channel.slot (c : Channel) (k : Nat) : SlotState := sget .empty c.slots k

/-- The slots of a ring that physical lines, read at an address of a context, belong to: by that address where the ring is
the context's, or by another address of the line (R111). -/
def State.ringSlots (s : State) (id : CtxId) (c : Channel) (va : Nat) (lines : List Nat) : List Nat :=
  let hi := c.ringVa + c.nslot * c.slotBytes
  let vas := if c.ctx = id ∧ c.ringVa ≤ va ∧ va < hi then [va] else lines.filterMap fun l => s.lineVa c.ctx c.ringVa hi l
  vas.map fun a => (a - c.ringVa) / c.slotBytes

/-- A job's read of a ring line, of whatever context, is allowed only to OWNER's job in a HELD slot (R352). -/
def ringCheck (va : Nat) (lines : List Nat) : M Unit := do
  let s ← getS
  trapIf (s.chans.toList.any fun c =>
    c.hasRing && (s.ringSlots s.curCtx c va lines).any fun k =>
      !(s.curCtx == c.ctx && s.cur.val == c.owner && c.slot k == .held)) .conflict (BitVec.ofNat 64 va)

/-! ## Access counters (R328, R329) -/

/-- The region lies in an active managed range of its context (R330). -/
def State.managed (s : State) (id : CtxId) (region : Nat) : Bool :=
  s.ranges.toList.any fun r =>
    r.ctl.getLsbD 16 && bits r.ctl.toNat 15 0 == id.toNat && decide (bits r.base.toNat 56 16 ≤ region) &&
      decide (region < bits r.lim.toNat 56 16)

/-- A hint or notification to Sump for a region, dropped when its 64 entries are full (R332, R343). -/
def State.hint (s : State) (id : CtxId) (region : Nat) (up : Bool) : State :=
  if s.hints.length < 64 then { s with hints := s.hints ++ [(id, region, up)] } else s

/-- A notification: to Sump inside a managed range, else to the counter buffer, or lost (R329). -/
def State.notify (s : State) (id : CtxId) (region tier : Nat) : State :=
  if s.managed id region then (if tier = 0 then s else s.hint id region true)
  else
    let log := ringLog (bits s.regs.acctl.toNat 36 32) 16
    if s.regs.acwr.toNat - s.regs.acrd.toNat < 2 ^ log then
      let a := bits s.regs.acbase.toNat 50 12 * 4096 + 16 * (s.regs.acwr.toNat % 2 ^ log)
      { s with
        mem := writeLE (writeLE s.mem a 8 (region * 65536)) (a + 8) 8 (id.toNat + tier * 65536)
        regs := { s.regs with acwr := s.regs.acwr + 1 } }
    else
      let drop := min (bits s.regs.acctl.toNat 55 40 + 1) 65535
      let v := s.regs.acctl.toNat
      { s with regs := { s.regs with
          acctl := BitVec.ofNat 64 (v % 2 ^ 40 + drop * 2 ^ 40 + v / 2 ^ 56 * 2 ^ 56) } }

/-- A counter table with a region's counter: its own, a free position, or the one of least count, the lowest position
among equals (R328). -/
def takeCounter (t : List (Nat × AccessCounter)) (id : CtxId) (region : Nat) : Nat × AccessCounter :=
  match t.find? fun e => e.2.ctx = id ∧ e.2.region = region with
  | some e => e
  | none =>
    if t.length < 16384 then
      (((List.range 16384).find? fun k => t.all fun e => e.1 ≠ k).getD 0, ⟨id, region, 0⟩)
    else
      let least := t.foldl (fun m e => min m e.2.count) 0xFFFFFFFF
      ((((t.filter fun e => e.2.count = least).map (·.1)).min?).getD 0, ⟨id, region, 0⟩)

/-- The HBM stack, 0 to 7, of an address in HBM (R6, R378). -/
def stackOf (pa : Nat) : Nat := Config.hbmPlace (pa / 64) / Config.stackLines

/-- The home slice of a physical line is on die 1: of HBM with the four stacks of that die (R6, R9); CXL memory lies on
the die of its port, the capacity of port 0 first (R15, R364), host memory on die 0 (R315). -/
def State.onDie1 (s : State) (pa : Nat) : Bool :=
  if Config.hostBase ≤ pa then false
  else if Config.cxlBase ≤ pa then decide (Config.cxlBase + bits s.regs.cxsz0.toNat 43 28 * 2 ^ 28 ≤ pa)
  else if pa < Config.hbmEnd then decide (4 ≤ stackOf pa)
  else Config.homeDie (pa / 64)

/-- Adding n to a region's access counter and what it notifies (R328, R329). -/
def State.countAccess (s : State) (id : CtxId) (va pa tier n : Nat) : State :=
  let thresh := bits s.regs.acctl.toNat 31 0
  if thresh = 0 then s
  else
    let region := va / 65536
    let die1 := s.onDie1 pa
    let t := if die1 then s.access1 else s.access
    let (k, c) := takeCounter t id region
    let v := min (c.count + n) 0xFFFFFFFF
    let hit := thresh ≤ v
    let rest := t.filter fun e => e.1 ≠ k
    let t := (k, { c with count := if hit then 0 else v }) :: rest
    let s := if die1 then { s with access1 := t } else { s with access := t }
    if hit then s.notify id region tier else s

/-- The count of an access of n bytes performed at the homes of its lines, through a leaf with ACE (R328). -/
def State.countLines (s : State) (e : TlbEntry) (va : Nat) (l : Loc) (n : Nat) : State :=
  if e.leaf.getLsbD 11 then
    (s.homesOf l n).foldl (fun s pa => s.countAccess e.ctx va pa (leafTier e.leaf) 1) s
  else s

/-- The same in a meaning. -/
def countLine (e : TlbEntry) (va : Nat) (l : Loc) (n : Nat) : M Unit := modS fun s => s.countLines e va l n

/-! ## Reads of global memory -/

/-- The pieces of a range, each within one 64-byte line: first address and length. -/
def pieces (a n : Nat) : List (Nat × Nat) :=
  (List.range (n / 64 + 2)).filterMap fun k =>
    let lo := max a ((a / 64 + k) * 64)
    let hi := min (a + n) ((a / 64 + k + 1) * 64)
    if lo < hi then some (lo, hi - lo) else none

/-- A byte with some of its nibbles: 1 for bits 3:0, 2 for bits 7:4, 3 for both (R22). -/
abbrev Nibbles := Byte × Nat

/-- Nibbles put over a byte. -/
def nibOver (x : Nibbles) (old : Byte) : Byte :=
  match x.2 with
  | 0 => old
  | 1 => old &&& 0xF0 ||| x.1 &&& 0x0F
  | 2 => x.1 &&& 0xF0 ||| old &&& 0x0F
  | _ => x.1

/-- What a staged line holds of its byte k. -/
def StagedLine.at_ (x : StagedLine) (k : Nat) : Nibbles :=
  (BitVec.ofNat 8 (fieldNat 8 k x.bytes.toNat), fieldNat 2 k x.mask.toNat)

/-- What an open transaction group of a core has staged of the byte at a key (R259). -/
def Core.stagedAt (c : Core) (pa : Nat) : Nibbles :=
  match c.tx with
  | none => (0, 0)
  | some g =>
    match g.lines.find? fun x => x.pa.toNat = pa / 64 * 64 with
    | some x => x.at_ (pa % 64)
    | none => (0, 0)

/-- The key under which a place is staged. -/
def stageKey : Loc → Nat
  | .plain pa => pa
  | .packed p off => p + off
  | .view _ _ => 0

/-- A byte as a C command of the executing core reads it: with its group's staged bytes, those under a view with them
(R111, R259). -/
def readOwn (l : Loc) (va : Nat) : M Byte := do
  let c ← getCore
  match l with
  | .view n off => do
    let s ← getS
    pure ((s.aperture n).viewByte (fun pa => nibOver (c.stagedAt pa) (s.settledByte pa)) off)
  | _ =>
    let x := c.stagedAt (stageKey l)
    if x.2 = 3 then pure x.1 else pure (nibOver x (← readLoc l va))

/-- The bytes of one piece through its leaf; `own` is a C command, which sees its group's staged bytes. -/
def pieceBytes (e : TlbEntry) (own : Bool) (va n : Nat) : M (List Byte) :=
  mapM' (fun k => do
    let l ← locate e (va + k) false
    if own then readOwn l (va + k) else readLoc l (va + k)) (List.range n)

/-- A device read of a context's memory: translated, no tag, no gate (R127, R267). -/
def deviceRead (id : CtxId) (va n : Nat) : M (List Byte) := do
  let xs ← mapM' (fun p => do
    trapIf (!isGlobal p.1) .page (pageInfo p.1 0 false)
    let e ← translateFor id .load p.1
    let ys ← pieceBytes e false p.1 p.2
    countLine e p.1 (← locate e p.1 false) p.2
    pure ys) (pieces va n)
  pure xs.flatten

/-- A read of one piece by the executing core's job, performed at its home (R110, R124, R126); a line that waits for a
reducer holds it (R372). The page's format must be one that the path accepts. -/
def readPiece (own : Bool) (fmtOk : Nat → Bool) (va n : Nat) : M (List Byte) := do
  trapIf (!isGlobal va) .page (pageInfo va 0 false)
  let e ← translate .load va
  let l ← locate e va false
  trapIf (!fmtOk (leafFmt e.leaf)) .format (BitVec.ofNat 64 va)
  let lines := (← getS).lineKeysOf l n
  ringCheck va lines
  exchangeGate va lines
  let s ← getS
  waitIf (lines.any fun k => s.reducing (64 * k)) .engine
  let xs ← pieceBytes e own va n
  homeCheck false none va lines
  countLine e va l n
  pure xs

/-- A read of n bytes by the executing core's job, in ascending address order. -/
def readGlobal (own : Bool) (fmtOk : Nat → Bool) (va n : Nat) : M (List Byte) := do
  let xs ← mapM' (fun p => readPiece own fmtOk p.1 p.2) (pieces va n)
  pure xs.flatten

/-- Any page format. -/
def anyFmt : Nat → Bool := fun _ => true

/-- FMT RAW only. -/
def rawFmt : Nat → Bool := fun f => f == 0

/-- RAW or the record's own format (R249). -/
def rawOr (code : Nat) : Nat → Bool := fun f => f == 0 || f == code

/-! ## Writes of global memory -/

/-- Bytes written over a list at an offset. -/
def overlay (xs : List Byte) (off : Nat) (ys : List Byte) : List Byte := xs.take off ++ ys ++ xs.drop (off + ys.length)

/-- The in-flight table of 256 entries has a free one (R331). -/
def State.moveRoom (s : State) : Bool := decide ((s.moves.filter fun m => m.entered).length < 256)

/-- The first page whose held writes wait for a free entry enters the in-flight table (R331, R337). -/
def State.admitMove (s : State) : State :=
  match s.moves.find? fun m => !m.entered with
  | some w =>
    if s.moveRoom then
      { s with
        moves := s.moves.map fun m => if m.pte = w.pte then { m with entered := true } else m }
    else s
  | none => s

/-- A write held at its home because its group has no free exception entry: the page enters Sump's in-flight table
with the write, as soon as that has room (R331, R337). -/
def State.holdWrite (s : State) (e : TlbEntry) (w : HeldWrite) : State :=
  let s := { s with tlb := s.tlb.filter fun x => x.pteAddr ≠ e.pteAddr }
  if s.moves.any fun m => m.pte = e.pteAddr then
    { s with moves := s.moves.map fun m => if m.pte = e.pteAddr then { m with held := m.held ++ [w] } else m }
  else State.admitMove { s with moves := s.moves ++ [⟨e.ctx, e.va, e.pteAddr, true, false, [w]⟩] }

/-- The promotion of a page is to perform writes that its home holds in a range of a context (R337). -/
def State.pageHolds (s : State) (id : CtxId) (lo hi : Nat) : Bool :=
  s.moves.any fun m => m.ctx == id && !m.held.isEmpty && decide (lo < m.va.toNat + 4096) && decide (m.va.toNat < hi)

/-- What a `red.*` makes of a value of n bytes (R128). -/
def redValue (op : RedOp) (n v x : Nat) : Nat :=
  let w := 8 * n
  match op with
  | .add => (v + x) % 2 ^ w
  | .and => v &&& x
  | .or => v ||| x
  | .xor => v ^^^ x
  | .max => if signed w v < signed w x then x else v
  | .min => if signed w x < signed w v then x else v
  | .fmax => totalMax 32 v x
  | .fmin => totalMin 32 v x

/-- The bytes that a write leaves where `old` stood: its own, its own nibbles in them, or what its `red.*` makes of
them (R22, R128). -/
def homeBytes (op : HomeOp) (old ys : List Byte) : List Byte :=
  match op with
  | .store => ys
  | .low => List.zipWith (fun o y => nibOver (y, 1) o) old ys
  | .high => List.zipWith (fun o y => nibOver (y, 2) o) old ys
  | .red o => leBytes ys.length (redValue o ys.length (leNat old) (leNat ys))

/-- The operation of a posted access at its home. -/
def postedOp : Option RedOp → HomeOp
  | none => .store
  | some o => .red o

/-- A run of bytes of a line: where it begins, what is done there and the bytes. -/
abbrev HomeRun := Nat × HomeOp × List Byte

/-- A run applied over a list of bytes at an offset. -/
def applyRun (xs : List Byte) (off : Nat) (r : HomeRun) : List Byte :=
  overlay xs (off + r.1) (homeBytes r.2.1 ((xs.drop (off + r.1)).take r.2.2.length) r.2.2)

/-- Nibbles of consecutive bytes from a first one on, as runs. -/
def nibRuns : Nat → List Nibbles → List HomeRun
  | _, [] => []
  | k, x :: xs =>
    let rest := nibRuns (k + 1) xs
    let op := if x.2 = 1 then HomeOp.low else if x.2 = 2 then .high else .store
    if x.2 = 0 then rest
    else match rest with
      | (j, o, ys) :: rs => if j = k + 1 ∧ o = op then (k, op, x.1 :: ys) :: rs else (k, op, [x.1]) :: rest
      | [] => [(k, op, [x.1])]

/-- Bytes of one line, in runs from a place on, applied at the home as one act: plain, or through the codec; none where
the home must hold them, as it does all that follow a held write of the page (R336, R337). -/
def State.applyRuns (s : State) (e : TlbEntry) (l : Loc) (runs : List HomeRun) : Option State :=
  match l with
  | .plain pa =>
    some { s with mem := runs.foldl (fun m r =>
      writeBytes m (pa + r.1) (homeBytes r.2.1 (readBytes m (pa + r.1) r.2.2.length) r.2.2)) s.mem }
  | .view _ _ => some s
  | .packed p off =>
    if s.moves.any fun m => m.pte = e.pteAddr ∧ m.held ≠ [] then none
    else
      match readBlock s.mem p (off / 256) with
      | some (some b) =>
        (writeBlock s.mem p (off / 256) (runs.foldl (fun b r => applyRun b (off % 256) r) b)).map fun m =>
          { s with mem := m }
      | _ => some s

/-- Bytes of one line written at its home for a command, or held there (R336, R337). -/
def State.writeRuns (s : State) (e : TlbEntry) (l : Loc) (by_ : Option (Fin 128 × Word)) (runs : List HomeRun) : State :=
  match s.applyRuns e l runs with
  | some t => t
  | none => runs.foldl (fun s r => s.holdWrite e ⟨stageKey l + r.1, r.2.2, r.2.1, by_⟩) s

/-- Bytes of one line written at its home by the device. -/
def State.writeHome (s : State) (e : TlbEntry) (l : Loc) (ys : List Byte) : State := s.writeRuns e l none [(0, .store, ys)]

/-- A refused record or block of a compressed page makes the access fault (R333). -/
def packedCheck (l : Loc) (va : Nat) : M Unit := do
  match l with
  | .packed p off =>
    match readBlock (← getS).mem p (off / 256) with
    | none => trapM .page (pageInfo va 4 true)
    | some none => trapM .ecc 0
    | _ => pure ()
  | _ => pure ()

/-- The place of a write of n bytes of one piece; every byte must have one (R338). -/
def locateAll (e : TlbEntry) (va n : Nat) : M Loc := do
  let l ← locate e va true
  forM' (fun k => do
    let _ ← locate e (va + 1 + k) true
    pure ()) (List.range (n - 1))
  packedCheck l va
  pure l

/-- The translation of a write of n bytes of one piece, with its format and form checks; nothing is written. -/
def writeTarget (a : Access) (fmtOk : Nat → Bool) (va n : Nat) : M (TlbEntry × Loc) := do
  trapIf (!isGlobal va) .page (pageInfo va 0 true)
  let e ← translate a va
  let l ← locateAll e va n
  trapIf (!fmtOk (leafFmt e.leaf)) .format (BitVec.ofNat 64 va)
  pure (e, l)

/-- A line staged by an open transaction group (R259). -/
def TxGroup.stage (g : TxGroup) (e : TlbEntry) (pa va : Nat) (ys : List Nibbles) : TxGroup :=
  let line := pa / 64 * 64
  let off := pa % 64
  let put := fun (x : StagedLine) =>
    let old := (List.range 64).map fun k => (x.at_ k).1
    { x with
      bytes := BitVec.ofNat 512 (leNat (overlay old off (List.zipWith nibOver ys (old.drop off))))
      mask := x.mask ||| BitVec.ofNat 128 ((ys.foldr (fun y m => y.2 % 4 + 4 * m) 0) * 4 ^ off) }
  if g.lines.any fun x => x.pa.toNat = line then
    { g with lines := g.lines.map fun x => if x.pa.toNat = line then put x else x }
  else { g with lines := g.lines ++ [put ⟨BitVec.ofNat 51 line, BitVec.ofNat 57 (va / 64 * 64), e, 0, 0⟩] }

/-- The home check of a write of one piece by a C command outside an open group (R122, R124, R248). -/
def writeCheck (va : Nat) (t : TlbEntry × Loc) : M Unit := do
  if (← getCore).tx.isNone then homeCheck true none va ((← getS).lineKeys t.2) else pure ()

/-- A write of one piece by a C command, after its translation and check: staged in an open group, else performed at
its home (R22, R259, R328). -/
def writePiece (iseq : Word) (va : Nat) (t : TlbEntry × Loc) (ys : List Nibbles) : M Unit := do
  let c ← getCore
  match c.tx with
  | some g => modCore fun c => { c with tx := some (g.stage t.1 (stageKey t.2) va ys) }
  | none => modS fun s => (s.writeRuns t.1 t.2 (some (s.cur, iseq)) (nibRuns 0 ys)).countLines t.1 va t.2 ys.length

/-- A line that a group has staged, as runs of bytes from its first byte on. -/
def StagedLine.runs (x : StagedLine) : List HomeRun := nibRuns 0 ((List.range 64).map x.at_)

/-- The place of a staged line's first byte. -/
def StagedLine.loc (x : StagedLine) : Loc :=
  if x.leaf.leaf.getLsbD 10 && !leafAperture x.leaf.leaf then
    .packed (leafPa x.leaf.leaf) (x.pa.toNat - leafPa x.leaf.leaf)
  else .plain x.pa.toNat

/-- The staged bytes of a line applied at its home, through the translation they were made with (R261, R344). -/
def State.applyStaged (s : State) (iseq : Word) (x : StagedLine) : State :=
  (s.writeRuns x.leaf x.loc (some (s.cur, iseq)) x.runs).countLines x.leaf x.va.toNat x.loc 64

/-! ## Invalidation (R319, R344, R345) -/

/-- A cached leaf is in a scope. -/
def InvScope.has (x : InvScope) (e : TlbEntry) : Bool :=
  match x with
  | .page id va => e.covers id va
  | .ctx id => e.ctx == id
  | .all => true

/-- A cached table entry is in a scope. -/
def InvScope.hasTable (x : InvScope) (e : TableEntry) : Bool :=
  match x with
  | .page id va => e.onPath id va
  | .ctx id => e.ctx == id
  | .all => true

/-- The cached copies in a scope are dropped. -/
def State.dropLeaves (s : State) (x : InvScope) : State :=
  { s with tlb := s.tlb.filter fun e => !x.has e, tables := s.tables.filter fun e => !x.hasTable e }

/-- The cores, and the cores of jobs that a stop has saved, by logical index. -/
def State.coresAndSaved (s : State) : List (Fin 128 × Core) :=
  (List.finRange 128).map (fun i => (i, s.coreAt i)) ++ s.ctxs.toList.flatMap fun x => x.saved

/-- The lines that a core's open group stages. -/
def Core.staged (c : Core) : List StagedLine :=
  match c.tx with
  | some g => g.lines
  | none => []

/-- The posted accesses, the staged lines, the lines of reducer steps and the held writes that were translated in a scope
and are not performed. -/
def State.usersOf (s : State) (x : InvScope) : List CopyUse :=
  (s.coresAndSaved.flatMap fun p =>
    ((p.2.posted.filter fun a => x.has a.leaf).map fun a => .posted p.1 a.iseq) ++
      (p.2.staged.filter fun l => x.has l.leaf).map fun l => .staged p.1 l.pa) ++
  (s.redsteps.flatMap fun r =>
    ((r.lines.zip r.leaves).filter fun l => x.has l.2).map fun l => .step r.rqp l.1.1) ++
  (s.moves.filter fun m => !m.held.isEmpty && x.has ⟨m.ctx, m.va, 4096, 0, m.pte⟩).map fun m => .held m.pte

/-- An access through a dropped copy is still not performed. -/
def State.inUse (s : State) : CopyUse → Bool
  | .posted i n => s.coresAndSaved.any fun p => p.1 == i && p.2.posted.any fun a => a.iseq == n
  | .staged i pa => s.coresAndSaved.any fun p => p.1 == i && p.2.staged.any fun l => l.pa == pa
  | .step n pa => s.redsteps.any fun r => r.rqp == n && r.lines.any fun l => l.1 == pa
  | .held pte => s.moves.any fun m => m.pte == pte && !m.held.isEmpty

/-- An invalidation of TLBINV is under way (R345). -/
def State.tlbinvBusy (s : State) : Bool := s.regs.tlbinvWait.any fun u => s.inUse u

/-- An invalidation of TLBINV begins: the copies go, and it lasts until what uses them has been performed. -/
def State.startInv (s : State) (x : InvScope) : State :=
  let s := s.dropLeaves x
  { s with regs := { s.regs with tlbinvWait := s.usersOf x } }

/-- The writes of TLBINV that wait begin, each when the one before has completed (R345). -/
def State.settleInvs : List InvScope → State → State
  | [], s => { s with regs := { s.regs with tlbinvNext := [] } }
  | x :: rest, s =>
    if s.tlbinvBusy then { s with regs := { s.regs with tlbinvNext := x :: rest } } else State.settleInvs rest (s.startInv x)

/-- The same, of the writes that wait now. -/
def State.settleInv (s : State) : State :=
  if s.regs.tlbinvNext.isEmpty then s else State.settleInvs s.regs.tlbinvNext s

/-! ## Local spaces (R103, R104, R302) -/

/-- XS bytes as declared. -/
def Core.xsb (c : Core) : Nat := match c.job with
  | some j => j.xsb
  | none => 0

/-- WS bytes as declared. -/
def Core.wsb (c : Core) : Nat := match c.job with
  | some j => j.wsb
  | none => 0

/-- ACC tiles as declared. -/
def Core.acct (c : Core) : Nat := match c.job with
  | some j => j.acct
  | none => 0

/-- The first byte of barrier storage (R302). -/
def Core.barBase (c : Core) : Nat := match c.job with
  | some j => j.xsb - 16 * j.nbar
  | none => 0

/-- A byte of XS a program may access: within the declared XS and outside barrier storage. -/
def Core.xsOk (c : Core) (a : Nat) : Bool := decide (a < c.barBase)

/-- The first byte of a range that a program may not access. -/
def Core.xsBad (c : Core) (a n : Nat) : Option Nat :=
  if n = 0 ∨ a + n ≤ c.barBase then none else some (max a c.barBase)

/-- An XS access of n bytes, or WINDOW with the first offending address (R104). -/
def checkXs (a n : Nat) : M Unit := do
  match (← getCore).xsBad a n with
  | some b => trapM .window (BitVec.ofNat 64 b)
  | none => pure ()

/-- The local address of WS. -/
def wsBase : Nat := 0x1000000

/-- A range lies in the declared WS. -/
def Core.wsOk (c : Core) (a n : Nat) : Bool := decide (wsBase ≤ a) && decide (a + n ≤ wsBase + c.wsb)

/-- Bytes of XS. -/
def readXs (a n : Nat) : M (List Byte) := do
  pure (readBytes (← getCore).xs a n)

/-- Bytes of XS written. -/
def writeXs (a : Nat) (ys : List Byte) : M Unit := modCore fun c => { c with xs := writeBytes c.xs a ys }

/-- A row of an accumulator tile (R218). -/
def Core.accRow (c : Core) (t i : Nat) : VReg := sget 0 c.acc (64 * t + i)

/-- A row of an accumulator tile written. -/
def Core.setAccRow (c : Core) (t i : Nat) (v : VReg) : Core := { c with acc := sset 0 c.acc (64 * t + i) v }

/-! ## Scale maps and codebooks (R320, R321) -/

/-- The scale-map entry that covers an address. -/
def State.smapOf (s : State) (id : CtxId) (a : Nat) : Option SmapEntry :=
  (s.ctxOf id).smap.find? fun e => e.valid && decide (e.dbase.toNat ≤ a) && decide (a < e.dlimit.toNat)

/-- The scale-map block of an element: its entry and block number (R321). -/
def smapBlock (e : SmapEntry) (code a : Nat) (hi : Bool) : Nat :=
  let d := a - e.dbase.toNat
  let i := if fmtWidth code = 4 then 2 * d + (if hi then 1 else 0) else d * 8 / fmtWidth code
  i / blockSize e.g.toNat

/-- The scale of an element covered by an entry: a read of the job, at the scale's home, whose page must be RAW. -/
def readScale (own : Bool) (e : SmapEntry) (code a : Nat) (hi : Bool) : M Half := do
  let xs ← readPiece own rawFmt (e.sbase.toNat + 2 * smapBlock e code a hi) 2
  pure (BitVec.ofNat 16 (leNat xs))

/-- Entry x of a codebook table: a BF16 value read as the scales are (R321). -/
def readCodebook (own : Bool) (table x : Nat) : M Val := do
  let cb := (← getCtx).codebooks.toNat
  let xs ← readPiece own rawFmt (cb + 32 * table + 2 * x) 2
  pure (decF .bf16 (leNat xs))

end Sys2Proof.Machine
end

