-- ==== Sys2Proof/Machine/Footprint.lean ====
section
/-! DEFINITION. Machine/Footprint.lean: the footprint of a command and the scoreboard (R104, R113, R114, R183, R225,
R238, R254 to R256, R321, R421, R430, R432). -/

namespace Sys2Proof.Machine

/-- An exact address cut to a natural number. -/
def natOf (x : Int) : Nat := x.toNat

/-! ## Parts of footprints -/

/-- The range a record covers in its space. -/
def recRange (r : BitVec 512) (write : Bool) : List Range :=
  let (lo, hi) := lySpan r
  match lySpace r with
  | 0 => [⟨.xs, natOf lo, natOf hi, write⟩]
  | 1 => [⟨.ws, natOf lo, natOf hi, write⟩]
  | 3 => [⟨.glob, natOf lo, natOf hi, write⟩]
  | _ => []

/-- The scales that n blocks from a first one take in XS. -/
def xsScales (a n : Nat) : List Range := [⟨.xs, a, a + 2 * n, false⟩]

/-- ⌈n / g⌉. -/
def blocksOf (n g : Nat) : Nat := (n + g - 1) / g

/-- The block scales of an XS source of `cconv`, by walk position (R249). -/
def recScales (r : BitVec 512) : List Range :=
  if lySpace r = 0 ∧ lySg r ≠ 0 then xsScales (lyScaddr r) (blocksOf (lyCount r) (blockSize (lySg r))) else []

/-- The block scales of an XS source of `cplane`, by image block and column (R253). -/
def columnScales (r : BitVec 512) : List Range :=
  if lySpace r = 0 ∧ lySg r ≠ 0 then
    xsScales (lyScaddr r) (lyExt r 1 * blocksOf (lyExt r 0) (blockSize (lySg r)))
  else []

/-- The rows lo to hi of a tile. -/
def accRange (t lo hi : Nat) (write : Bool) : List Range :=
  [⟨.acc, 256 * (64 * t + lo), 256 * (64 * t + hi + 1), write⟩]

/-- K of a format: elements of A per row (R237). A format that no profile accepts has the K of its width, in the checks
made before the profile's.
Log entry 106: DESIGN CHOICE, unsafe. -/
def kOf (fmt : Nat) : Nat :=
  match fmtWidth fmt with
  | 4 => 96
  | 8 => 48
  | _ => 24

/-- The bytes of one line of an operand, n elements. -/
def lineBytes (fmt n : Nat) : Nat := (n * fmtWidth fmt + 7) / 8

/-- The lines of an operand record that are read: from line lo, at most n of them, k elements each (R225). Each line is
a range of its own. -/
def lineRange (r : BitVec 512) (lo n k : Nat) : List Range :=
  let lines := min n (lyExt r 1 - lo)
  let bytes := lineBytes (lyFmt r) (min k (lyExt r 0))
  let sp : Option Space := match lySpace r with
    | 0 => some .xs
    | 3 => some .glob
    | _ => none
  match sp with
  | none => []
  | some sp => (List.range lines).map fun i =>
      let a := natOf (lyOrigin r + ((lo + i : Nat) : Int) * lyStride r 1)
      ⟨sp, a, a + bytes, false⟩

/-- The scale bytes of an XS operand of an `mma`: of the rows whose lines are read (R227). -/
def mmaScales (r : BitVec 512) (ta : Bool) : List Range :=
  if lySpace r = 0 ∧ lySg r ≠ 0 then
    let nb := blocksOf (kOf (lyFmt r)) (blockSize (lySg r))
    xsScales (lyScaddr r + 64 * 2 * nb * (lyC2 r + lyC3 r * lyExt r 2)) (nb * min 64 (lyExt r (if ta then 0 else 1)))
  else []

/-- The scale bytes of the lines lo to lo + n − 1 of an XS record of a projection, whose depth runs over whole lines
(R430). -/
def deepScales (r : BitVec 512) (lo n : Nat) : List Range :=
  if lySpace r = 0 ∧ lySg r ≠ 0 then
    let nb := blocksOf (lyExt r 0) (blockSize (lySg r))
    xsScales (lyScaddr r + 2 * nb * lo) (nb * min n (lyExt r 1 - lo))
  else []

/-- A layout record of a snapshot. -/
def Snapshot.lyr (x : Snapshot) (n : BitVec 3) : BitVec 512 := x.ly[n.toFin]

/-- A B descriptor of a snapshot. -/
def Snapshot.bdr (x : Snapshot) (n : BitVec 3) : DWord := x.bd[n.toFin]

/-- A generator register of a snapshot. -/
def Snapshot.gnr (x : Snapshot) (n : BitVec 3) : BitVec 512 := x.gn[n.toFin]

/-- The row records of a set (R433), each at an extent. -/
def rowRecords (r : BitVec 512) (extent : Nat) (write : Bool) : List Range :=
  (List.range (lyExt r 1)).map fun (k : Nat) =>
    let a := natOf (lyBase r + (k : Int) * lyStride r 1)
    ⟨.xs, a, a + extent, write⟩

/-- One row of the accumulator area taken by `vacc` (R204). -/
def vaccRange (t : BitVec 3) (row : BitVec 6) (write : Bool) : List Range := accRange t.toNat row.toNat row.toNat write

/-- The 64 words of a strided access (R199). -/
def stridedRange (r : BitVec 512) (k : Nat) (write : Bool) : List Range :=
  (List.range 64).map fun (i : Nat) =>
    let a := natOf (lyBase r + k * lyStride r 1 + (i : Int) * lyStride r 0)
    ⟨.xs, a, a + 4, write⟩

/-- The region of a gather or scatter by words (R113, R200). -/
def gatherRange (r : BitVec 512) (write : Bool) : List Range :=
  let term := fun n => ((lyExt r n - 1 : Nat) : Int) * lyStride r n
  let lo := lyBase r + ((List.range 4).map fun n => min 0 (term n)).sum
  let hi := lyBase r + ((List.range 4).map fun n => max 0 (term n)).sum
  [⟨.xs, natOf lo, natOf hi + 4, write⟩]

/-! ## The vector engine's registers (R183) -/

/-- The URS row of Vk. -/
def VecState.rowV (v : VecState) (k : BitVec 4) : Nat := (v.vview.toNat + k.toNat) % 256

/-- The URS row j of Wm. -/
def VecState.rowW (v : VecState) (m : BitVec 2) (j : Nat) : Nat := (v.wview.toNat + 4 * m.toNat + j) % 256

/-- The vector sources that a V word names. -/
def vecSrcs : Instr → List VSrc
  | .vaddF32 _ _ a b _ | .vsubF32 _ _ a b _ | .vmulF32 _ _ a b _ | .vmaxF32 _ _ a b _ | .vminF32 _ _ a b _
  | .vaddBf16 _ _ a b _ | .vsubBf16 _ _ a b _ | .vmulBf16 _ _ a b _ | .vmaxBf16 _ _ a b _ | .vminBf16 _ _ a b _
  | .vaddF16 _ _ a b _ | .vsubF16 _ _ a b _ | .vmulF16 _ _ a b _ | .vmaxF16 _ _ a b _ | .vminF16 _ _ a b _
  | .vfmaF32 _ _ a b _ | .vfmsF32 _ _ a b _ | .vfnmaF32 _ _ a b _ | .vfnmsF32 _ _ a b _ | .vfmaBf16 _ _ a b _
  | .vfmsBf16 _ _ a b _ | .vfnmaBf16 _ _ a b _ | .vfnmsBf16 _ _ a b _ | .vfmaF16 _ _ a b _ | .vfmsF16 _ _ a b _
  | .vfnmaF16 _ _ a b _ | .vfnmsF16 _ _ a b _ | .vaddI32 _ _ a b _ | .vsubI32 _ _ a b _ | .vmulI32 _ _ a b _
  | .vmulhI32 _ _ a b _ | .vminI32 _ _ a b _ | .vmaxI32 _ _ a b _ | .vminuI32 _ _ a b _ | .vmaxuI32 _ _ a b _
  | .vaddsI32 _ _ a b _ | .vsubsI32 _ _ a b _ | .vaddI16 _ _ a b _ | .vsubI16 _ _ a b _ | .vmulI16 _ _ a b _
  | .vmulhI16 _ _ a b _ | .vminI16 _ _ a b _ | .vmaxI16 _ _ a b _ | .vminuI16 _ _ a b _ | .vmaxuI16 _ _ a b _
  | .vaddsI16 _ _ a b _ | .vsubsI16 _ _ a b _ | .vand _ _ a b _ | .vor _ _ a b _ | .vxor _ _ a b _
  | .vandn _ _ a b _ | .vshl _ _ a b _ | .vshr _ _ a b _ | .vsra _ _ a b _ | .vceqF32 _ _ a b _
  | .vcneF32 _ _ a b _ | .vcltF32 _ _ a b _ | .vcleF32 _ _ a b _ | .vceqI32 _ _ a b _ | .vcneI32 _ _ a b _
  | .vcltI32 _ _ a b _ | .vcleI32 _ _ a b _ | .vcltUi32 _ _ a b _ | .vcleUi32 _ _ a b _ | .vsel _ _ a b _
  | .vperm _ _ a b _ | .vscat _ _ a b _ => [a, b]
  | .vabsF32 _ _ a _ | .vnegF32 _ _ a _ | .vabsBf16 _ _ a _ | .vnegBf16 _ _ a _ | .vabsF16 _ _ a _
  | .vnegF16 _ _ a _ | .vabsI32 _ _ a _ | .vnegI32 _ _ a _ | .vabsI16 _ _ a _ | .vnegI16 _ _ a _
  | .vnot _ _ a _ | .vgset _ _ a _ => [a]
  | .vcvtBf16F32 _ _ a _ _ _ | .vcvtF16F32 _ _ a _ _ _ | .vcvtF32Bf16 _ _ a _ _ _ | .vcvtF32F16 _ _ a _ _ _
  | .vcvtI32F32 _ _ a _ _ _ | .vcvtF32I32 _ _ a _ _ _ | .vcvtUi32F32 _ _ a _ _ _ | .vcvtF32Ui32 _ _ a _ _ _
  | .vcvtE4F32 _ _ a _ _ _ | .vcvtE5F32 _ _ a _ _ _ | .vcvtF32E4 _ _ a _ _ _ | .vcvtF32E5 _ _ a _ _ _
  | .vcvtF4F32 _ _ a _ _ _ | .vcvtF32F4 _ _ a _ _ _ | .vcvtI8I32 _ _ a _ _ _ | .vcvtI16I32 _ _ a _ _ _ => [a]
  | .vamax _ a _ | .vrsumF32 _ a _ | .vrmaxF32 _ a _ | .vrminF32 _ a _ | .vrsumI32 _ a _ | .vrmaxI32 _ a _
  | .vrminI32 _ a _ | .vmov _ a _ | .vxexp _ a _ | .vxmant _ a _ => [a]
  | .vquantE4 _ a _ _ | .vquantE5 _ a _ _ | .vquantF4 _ a _ _ | .vdeqE4 _ a _ _ | .vdeqE5 _ a _ _
  | .vdeqF4 _ a _ _ | .vaccWr _ a _ _ => [a]
  | .vbcast _ _ a _ _ | .vext _ _ a _ _ | .vins _ _ a _ _ | .vst _ _ a _ _ | .vsts _ _ a _ _ => [a]
  | .vsetview a _ | .vsetwview a _ => [a]
  | .vgath _ _ _ b _ => [b]
  | .vcpush a b _ => [a, b]
  | .vldexp _ a b _ => [a, b]
  | _ => []

/-- The destination that a V word names. -/
def vecDst : Instr → Option VDst
  | .vaddF32 _ d _ _ _ | .vsubF32 _ d _ _ _ | .vmulF32 _ d _ _ _ | .vmaxF32 _ d _ _ _ | .vminF32 _ d _ _ _
  | .vaddBf16 _ d _ _ _ | .vsubBf16 _ d _ _ _ | .vmulBf16 _ d _ _ _ | .vmaxBf16 _ d _ _ _ | .vminBf16 _ d _ _ _
  | .vaddF16 _ d _ _ _ | .vsubF16 _ d _ _ _ | .vmulF16 _ d _ _ _ | .vmaxF16 _ d _ _ _ | .vminF16 _ d _ _ _
  | .vfmaF32 _ d _ _ _ | .vfmsF32 _ d _ _ _ | .vfnmaF32 _ d _ _ _ | .vfnmsF32 _ d _ _ _ | .vfmaBf16 _ d _ _ _
  | .vfmsBf16 _ d _ _ _ | .vfnmaBf16 _ d _ _ _ | .vfnmsBf16 _ d _ _ _ | .vfmaF16 _ d _ _ _ | .vfmsF16 _ d _ _ _
  | .vfnmaF16 _ d _ _ _ | .vfnmsF16 _ d _ _ _ | .vaddI32 _ d _ _ _ | .vsubI32 _ d _ _ _ | .vmulI32 _ d _ _ _
  | .vmulhI32 _ d _ _ _ | .vminI32 _ d _ _ _ | .vmaxI32 _ d _ _ _ | .vminuI32 _ d _ _ _ | .vmaxuI32 _ d _ _ _
  | .vaddsI32 _ d _ _ _ | .vsubsI32 _ d _ _ _ | .vaddI16 _ d _ _ _ | .vsubI16 _ d _ _ _ | .vmulI16 _ d _ _ _
  | .vmulhI16 _ d _ _ _ | .vminI16 _ d _ _ _ | .vmaxI16 _ d _ _ _ | .vminuI16 _ d _ _ _ | .vmaxuI16 _ d _ _ _
  | .vaddsI16 _ d _ _ _ | .vsubsI16 _ d _ _ _ | .vand _ d _ _ _ | .vor _ d _ _ _ | .vxor _ d _ _ _
  | .vandn _ d _ _ _ | .vshl _ d _ _ _ | .vshr _ d _ _ _ | .vsra _ d _ _ _ | .vceqF32 _ d _ _ _
  | .vcneF32 _ d _ _ _ | .vcltF32 _ d _ _ _ | .vcleF32 _ d _ _ _ | .vceqI32 _ d _ _ _ | .vcneI32 _ d _ _ _
  | .vcltI32 _ d _ _ _ | .vcleI32 _ d _ _ _ | .vcltUi32 _ d _ _ _ | .vcleUi32 _ d _ _ _ | .vsel _ d _ _ _
  | .vperm _ d _ _ _ | .vbcast _ d _ _ _ | .vext _ d _ _ _ | .vins _ d _ _ _ | .vld _ d _ _ _ | .vlds _ d _ _ _
  | .vgath _ d _ _ _ => some d
  | .vabsF32 _ d _ _ | .vnegF32 _ d _ _ | .vabsBf16 _ d _ _ | .vnegBf16 _ d _ _ | .vabsF16 _ d _ _
  | .vnegF16 _ d _ _ | .vabsI32 _ d _ _ | .vnegI32 _ d _ _ | .vabsI16 _ d _ _ | .vnegI16 _ d _ _
  | .vnot _ d _ _ | .vimm _ d _ _ => some d
  | .vcvtBf16F32 _ d _ _ _ _ | .vcvtF16F32 _ d _ _ _ _ | .vcvtF32Bf16 _ d _ _ _ _ | .vcvtF32F16 _ d _ _ _ _
  | .vcvtI32F32 _ d _ _ _ _ | .vcvtF32I32 _ d _ _ _ _ | .vcvtUi32F32 _ d _ _ _ _ | .vcvtF32Ui32 _ d _ _ _ _
  | .vcvtE4F32 _ d _ _ _ _ | .vcvtE5F32 _ d _ _ _ _ | .vcvtF32E4 _ d _ _ _ _ | .vcvtF32E5 _ d _ _ _ _
  | .vcvtF4F32 _ d _ _ _ _ | .vcvtF32F4 _ d _ _ _ _ | .vcvtI8I32 _ d _ _ _ _ | .vcvtI16I32 _ d _ _ _ _ => some d
  | .vamaxr d _ _ | .vrsumF32 d _ _ | .vrmaxF32 d _ _ | .vrminF32 d _ _ | .vrsumI32 d _ _ | .vrmaxI32 d _ _
  | .vrminI32 d _ _ | .vmov d _ _ | .vxexp d _ _ | .vxmant d _ _ => some d
  | .vquantE4 d _ _ _ | .vquantE5 d _ _ _ | .vquantF4 d _ _ _ | .vdeqE4 d _ _ _ | .vdeqE5 d _ _ _
  | .vdeqF4 d _ _ _ | .vldexp d _ _ _ | .vaccRd d _ _ _ => some d
  | .vgetview d _ | .vcpop d _ | .vccnt d _ => some d
  | _ => none

/-- The granule of a URS row. -/
def ursRow (n : Nat) (write : Bool) : Range := ⟨.urs, 256 * n, 256 * n + 256, write⟩

/-- A granule of the vector engine's other registers: O0 to O15, LRL at 16, MX0 to MX3 from 17, the conditional stream
at 21. -/
def engReg (n : Nat) (write : Bool) : Range := ⟨.eng, 256 * n, 256 * n + 256, write⟩

/-- The granules of a source. -/
def srcRange (v : VecState) : VSrc → List Range
  | .v k => [ursRow (v.rowV k) false]
  | .o k => [engReg k.toNat false]
  | .lrl => [engReg 16 false]
  | .zero | .laneid | .q _ => []

/-- The granules of a destination; LRL is written with it (R180). -/
def dstRange (v : VecState) (d : VDst) : List Range :=
  engReg 16 true :: match d with
    | .v k => [ursRow (v.rowV k) true]
    | .o k => [engReg k.toNat true]
    | .lrl | .q _ => []

/-- The command changes a view. -/
def setsView : Instr → Bool
  | .vsetview _ _ | .vsetwview _ _ => true
  | _ => false

/-- What a V command reads and writes of the engine's registers, through the views as the V queue leaves them before it;
the whole URS while an earlier command that changes a view has not completed (R183). -/
def vecRegs (c : Core) (x : Cmd) : List Range :=
  let named := (vecSrcs x.instr).flatMap (srcRange c.vec) ++ ((vecDst x.instr).toList.flatMap (dstRange c.vec)) ++
    match x.instr with
    | .vldW _ w _ _ _ => (List.range 4).map fun j => ursRow (c.vec.rowW w j) true
    | .vstW _ _ w _ _ => (List.range 4).map fun j => ursRow (c.vec.rowW w j) false
    | .vamax n _ _ => [engReg (17 + n.toNat) true]
    | .vamaxr _ n _ => [engReg (17 + n.toNat) true]
    | .vcpush _ _ _ | .vcpop _ _ => [engReg 21 true]
    | .vccnt _ _ => [engReg 21 false]
    | _ => []
  if c.vq.any fun y => decide (y.iseq.toNat < x.iseq.toNat) && setsView y.instr then
    ⟨.urs, 0, 65536, true⟩ :: named.filter fun r => r.space ≠ .urs
  else named

/-! ## The entries that a waiting command pops (R53, R137, R138) -/

/-- The guard field of an engine word (R53). -/
def instrGuard : Instr → Option Guard
  | .mvpEnd g | .mvpEndDrop g | .mrel g | .ctxb g | .ctxe g | .carm g | .cfence g => some g
  | .vsetview _ g | .vsetwview _ g | .vgetview _ g | .vcpop _ g | .vccnt _ g | .vwait _ g | .mzero _ g
  | .mvpTile _ g | .mwait _ g | .cput _ g | .cputNf _ g | .cputred _ g | .cputredNf _ g | .cadd _ g | .caddNf _ g
  | .crel _ g | .cdrop _ g | .cpref _ g | .cwait _ g => some g
  | .vamax _ _ g | .vamaxr _ _ g | .vrsumF32 _ _ g | .vrmaxF32 _ _ g | .vrminF32 _ _ g | .vrsumI32 _ _ g
  | .vrmaxI32 _ _ g | .vrminI32 _ _ g | .vmov _ _ g | .vcpush _ _ g | .vxexp _ _ g | .vxmant _ _ g | .vsig _ _ g
  | .msig _ _ g | .csend _ _ g | .crecv _ _ g | .csig _ _ g | .csigNf _ _ g => some g
  | .vabsF32 _ _ _ g | .vnegF32 _ _ _ g | .vabsBf16 _ _ _ g | .vnegBf16 _ _ _ g | .vabsF16 _ _ _ g
  | .vnegF16 _ _ _ g | .vabsI32 _ _ _ g | .vnegI32 _ _ _ g | .vabsI16 _ _ _ g | .vnegI16 _ _ _ g | .vnot _ _ _ g
  | .vquantE4 _ _ _ g | .vquantE5 _ _ _ g | .vquantF4 _ _ _ g | .vdeqE4 _ _ _ g | .vdeqE5 _ _ _ g
  | .vdeqF4 _ _ _ g | .vldexp _ _ _ g | .vaccRd _ _ _ g | .vaccWr _ _ _ g | .vheapm _ _ _ g | .vnormm _ _ _ g
  | .vgset _ _ _ g | .mvpRegen _ _ _ g | .cstash _ _ _ g | .cfetch _ _ _ g => some g
  | .vimm _ _ _ g => some (0#2 ++ g)
  | .vaddF32 _ _ _ _ g | .vsubF32 _ _ _ _ g | .vmulF32 _ _ _ _ g | .vmaxF32 _ _ _ _ g | .vminF32 _ _ _ _ g
  | .vaddBf16 _ _ _ _ g | .vsubBf16 _ _ _ _ g | .vmulBf16 _ _ _ _ g | .vmaxBf16 _ _ _ _ g | .vminBf16 _ _ _ _ g
  | .vaddF16 _ _ _ _ g | .vsubF16 _ _ _ _ g | .vmulF16 _ _ _ _ g | .vmaxF16 _ _ _ _ g | .vminF16 _ _ _ _ g
  | .vfmaF32 _ _ _ _ g | .vfmsF32 _ _ _ _ g | .vfnmaF32 _ _ _ _ g | .vfnmsF32 _ _ _ _ g | .vfmaBf16 _ _ _ _ g
  | .vfmsBf16 _ _ _ _ g | .vfnmaBf16 _ _ _ _ g | .vfnmsBf16 _ _ _ _ g | .vfmaF16 _ _ _ _ g | .vfmsF16 _ _ _ _ g
  | .vfnmaF16 _ _ _ _ g | .vfnmsF16 _ _ _ _ g | .vaddI32 _ _ _ _ g | .vsubI32 _ _ _ _ g | .vmulI32 _ _ _ _ g
  | .vmulhI32 _ _ _ _ g | .vminI32 _ _ _ _ g | .vmaxI32 _ _ _ _ g | .vminuI32 _ _ _ _ g | .vmaxuI32 _ _ _ _ g
  | .vaddsI32 _ _ _ _ g | .vsubsI32 _ _ _ _ g | .vaddI16 _ _ _ _ g | .vsubI16 _ _ _ _ g | .vmulI16 _ _ _ _ g
  | .vmulhI16 _ _ _ _ g | .vminI16 _ _ _ _ g | .vmaxI16 _ _ _ _ g | .vminuI16 _ _ _ _ g | .vmaxuI16 _ _ _ _ g
  | .vaddsI16 _ _ _ _ g | .vsubsI16 _ _ _ _ g | .vand _ _ _ _ g | .vor _ _ _ _ g | .vxor _ _ _ _ g
  | .vandn _ _ _ _ g | .vshl _ _ _ _ g | .vshr _ _ _ _ g | .vsra _ _ _ _ g | .vceqF32 _ _ _ _ g
  | .vcneF32 _ _ _ _ g | .vcltF32 _ _ _ _ g | .vcleF32 _ _ _ _ g | .vceqI32 _ _ _ _ g | .vcneI32 _ _ _ _ g
  | .vcltI32 _ _ _ _ g | .vcleI32 _ _ _ _ g | .vcltUi32 _ _ _ _ g | .vcleUi32 _ _ _ _ g | .vsel _ _ _ _ g
  | .vperm _ _ _ _ g | .vbcast _ _ _ _ g | .vext _ _ _ _ g | .vins _ _ _ _ g | .vld _ _ _ _ g | .vldW _ _ _ _ g
  | .vst _ _ _ _ g | .vstW _ _ _ _ g | .vlds _ _ _ _ g | .vsts _ _ _ _ g | .vgath _ _ _ _ g | .vscat _ _ _ _ g
  | .mvpBegin _ _ _ _ g | .ccopy _ _ _ _ g | .cplane _ _ _ _ g | .cfill _ _ _ _ g => some g
  | .vcvtBf16F32 _ _ _ _ _ g | .vcvtF16F32 _ _ _ _ _ g | .vcvtF32Bf16 _ _ _ _ _ g | .vcvtF32F16 _ _ _ _ _ g
  | .vcvtI32F32 _ _ _ _ _ g | .vcvtF32I32 _ _ _ _ _ g | .vcvtUi32F32 _ _ _ _ _ g | .vcvtF32Ui32 _ _ _ _ _ g
  | .vcvtE4F32 _ _ _ _ _ g | .vcvtE5F32 _ _ _ _ _ g | .vcvtF32E4 _ _ _ _ _ g | .vcvtF32E5 _ _ _ _ _ g
  | .vcvtF4F32 _ _ _ _ _ g | .vcvtF32F4 _ _ _ _ _ g | .vcvtI8I32 _ _ _ _ _ g | .vcvtI16I32 _ _ _ _ _ g
  | .cconv _ _ _ _ _ g | .cgath _ _ _ _ _ g | .cscat _ _ _ _ _ g => some g
  | .cdrain _ _ _ _ _ _ g => some g
  | .mma _ _ _ _ _ _ _ _ g => some g
  | _ => none

/-- The queue register that a command pops its descriptor's address from (R374, R427). -/
def descQueue : Instr → Option Nat
  | .mvpBegin _ _ _ q13 _ => some (if q13 then 13 else 12)
  | .cput q _ | .cputNf q _ | .cputred q _ | .cputredNf q _ => some (if q then 15 else 14)
  | _ => none

/-- The queue registers of the S slot that a command pops at its start (R138). -/
def popsOf : Instr → List Nat
  | .mvpBegin _ _ _ q _ | .mvpRegen _ _ q _ => [if q then 13 else 12]
  | .cput q _ | .cputNf q _ | .cputred q _ | .cputredNf q _ | .cadd q _ | .caddNf q _ | .cpref q _ =>
    [if q then 15 else 14]
  | .carm _ => [14, 15]
  | .cfill _ _ b q _ => (if q then 15 else 14) :: barPops b
  | .ccopy _ _ _ b _ | .cplane _ _ _ b _ => barPops b
  | .cconv _ _ _ b _ _ | .cgath _ _ _ b _ _ | .cscat _ _ _ b _ _ => barPops b
  | .cdrain _ _ _ b _ _ _ => barPops b
  | _ => []
where
  /-- The register of a barrier select. -/
  barPops (b : Option BarSel) : List Nat := (b.map fun b => if b.q15 then 15 else 14).toList

/-- The command does not wait on its guard: it is unguarded, or its guard has been read (R52, R142). -/
def Cmd.sure (x : Cmd) : Bool := x.consumed || instrGuard x.instr == some 0

/-- The commands before a command that will pop the same queue register, or may. -/
def Core.poppers (c : Core) (q : Nat) (x : Cmd) : List Cmd :=
  (c.mq ++ c.cq).filter fun y => decide (y.iseq.toNat < x.iseq.toNat) && y.phase == .waiting && y.popped.isEmpty &&
    (popsOf y.instr).contains q

/-- The entries of which one is what a command pops of a queue register: what it has popped, or the entry that those
before it leave it, as far as they are sure to pop (R137, R141). -/
def Core.entriesFor (c : Core) (q : Nat) (x : Cmd) : List DWord :=
  match x.popped with
  | e :: _ => [e]
  | [] =>
    let before := c.poppers q x
    let sure := (before.filter Cmd.sure).length
    ((c.qreg q).drop sure).take (before.length - sure + 1)

/-- The entry that a command pops of a queue register may not have been put into it yet. -/
def Core.entryMissing (c : Core) (q : Nat) (x : Cmd) : Bool :=
  x.phase == .waiting && x.popped.isEmpty && decide ((c.qreg q).length ≤ (c.poppers q x).length)

/-- The descriptors of which one is what a command reads, with their addresses (R374, R429). -/
def Core.descs (c : Core) (x : Cmd) : List (Nat × BitVec 512) :=
  match descQueue x.instr with
  | none => []
  | some q => (c.entriesFor q x).map fun e =>
      let a := bits e.toNat 31 0
      (a, BitVec.ofNat 512 (readLE c.xs a 64))

/-! ## The projection unit (R421, R422, R429 to R432) -/

/-- The fields of a projection descriptor (R422). -/
def pdField (d : BitVec 512) (off : Nat) : Nat := fieldNat 32 (off / 4) d.toNat
/-- NROW. -/
def pdRows (d : BitVec 512) : Nat := bits (pdField d 0x14) 22 16
/-- K. -/
def pdK (d : BitVec 512) : Nat := bits (pdField d 0x14) 8 0

/-- The spill area that a descriptor names, read and written (R421). -/
def spillRange (d : BitVec 512) : List Range :=
  if 32 < pdK d then [⟨.xs, pdField d 0x08, pdField d 0x08 + pdField d 0x0C, true⟩] else []

/-- The unit's own granule. -/
def unitRange : Range := ⟨.proj, 0, 1, true⟩

/-- The granules of a descriptor's labels, output and gradient (R422); none of one that is not known, whose K is 0. -/
def pdRange (d : BitVec 512) (off n : Nat) : List Range :=
  if pdK d = 0 then [] else [⟨.xs, pdField d off, pdField d off + n, false⟩]

/-- The row records that `mvp.end` writes (R431). -/
def pdOut (d : BitVec 512) : List Range :=
  if pdK d = 0 then []
  else (List.range (pdRows d)).map fun i =>
    let a := pdField d 4 + i * pdField d 0x18
    ⟨.xs, a, a + 16 + 8 * pdK d, true⟩

/-- The whole of the declared XS, read and written. -/
def wholeXs (c : Core) : Range := ⟨.xs, 0, (match c.job with
  | some j => j.xsb
  | none => 0), true⟩

/-- The whole of global memory, read. -/
def wholeGlob : Range := ⟨.glob, 0, 2 ^ 57, false⟩

/-- The command changes whether the projection unit is bound. -/
def rebinds : Instr → Bool
  | .mvpBegin _ _ _ _ _ | .mvpEnd _ | .mvpEndDrop _ => true
  | _ => false

/-- The command acts on the projection unit (R421). -/
def usesUnit : Instr → Bool
  | .mvpBegin _ _ _ _ _ | .mvpTile _ _ | .mvpEnd _ | .mvpEndDrop _ | .mvpRegen _ _ _ _ => true
  | _ => false

/-- The M commands before a command that have not executed. -/
def Core.earlierM (c : Core) (x : Cmd) : List Cmd :=
  c.mq.filter fun y => decide (y.iseq.toNat < x.iseq.toNat) && !y.phase.passed

/-- What an `mvp.begin` that has not executed may bind: its records with each descriptor that it may read, or with one
that is not known. -/
def Core.bindsOf (c : Core) (y : Cmd) : List ProjUnit :=
  match y.instr with
  | .mvpBegin a w prof _ _ =>
    let ds := c.descs y
    (if ds.isEmpty then [(0, 0)] else ds).map fun p =>
      { lya := y.snap.lyr a, lyw := y.snap.lyr w, prof := prof, desc := p.2, descAddr := BitVec.ofNat 32 p.1, next := 0
        rows := [], spill := 0, seen := [], written := [] }
  | _ => []

/-- The bindings that a command of the unit may meet, each with the issue sequence from which on tiles advance it: the
unit's own, until an end that is sure to run, and those of the `mvp.begin` commands before it.
Log entry 92: DEDUCED, unsafe. -/
def Core.bindings (c : Core) (x : Cmd) : List (ProjUnit × Nat) :=
  ((c.earlierM x).filter fun y => rebinds y.instr).foldl (fun us y =>
    match c.bindsOf y with
    | [] => if y.sure then [] else us
    | bs => us ++ bs.map fun u => (u, y.iseq.toNat)) (c.proj.toList.map fun u => (u, 0))

/-- The parts of the W record that a waiting `mvp.tile` may read: from the next block on, as many as the tiles before it
under the binding that have not executed and may be discarded (R430). -/
def tileLines (c : Core) (u : ProjUnit) (since : Nat) (x : Cmd) : Nat × Nat :=
  let before := (c.earlierM x).filter fun y => isMvpTile y.instr && decide (since ≤ y.iseq.toNat)
  let sure := before.filter Cmd.sure
  (64 * (u.next + sure.length), 64 * (before.length - sure.length + 1))

/-- The operands of a tile: A, the lines of W and their scales (R430). -/
def tileRanges (u : ProjUnit) (lines : Nat × Nat) : List Range :=
  lineRange u.lya 0 64 (lyExt u.lya 0) ++ lineRange u.lyw lines.1 lines.2 (lyExt u.lyw 0) ++
    deepScales u.lya 0 64 ++ deepScales u.lyw lines.1 lines.2

/-- What a command of the projection unit reads and writes through its binding, beside the unit and the spill area
(R429 to R432). -/
def throughUnit (c : Core) (x : Cmd) (u : ProjUnit) (since : Nat) : List Range :=
  match x.instr with
  | .mvpTile _ _ => if x.phase.passed then [] else tileRanges u (tileLines c u since x)
  | .mvpEnd _ => pdOut u.desc
  | .mvpRegen _ _ _ _ =>
    (if x.phase.passed then [] else tileRanges u (0, lyExt u.lyw 1)) ++ pdRange u.desc 0x1C (4 * pdRows u.desc)
  | _ => []

/-! ## Footprints -/

/-- The footprint of a command from its snapshot and the vector views (R113). What it takes of the projection unit is
`unitRanges`, of a work descriptor `descRanges`; the reads of a scale map and of codebooks are `mappedReads`. -/
def ownRanges (c : Core) (x : Cmd) : List Range :=
  let y := x.snap
  vecRegs c x ++ match x.instr with
  | .vld _ _ n k _ =>
    let a := natOf (lyBase (y.lyr n) + 256 * k.toNat)
    [⟨.xs, a, a + 256, false⟩]
  | .vldW _ _ n k _ =>
    let a := natOf (lyBase (y.lyr n) + 1024 * k.toNat)
    [⟨.xs, a, a + 1024, false⟩]
  | .vst _ n _ k _ =>
    let a := natOf (lyBase (y.lyr n) + 256 * k.toNat)
    [⟨.xs, a, a + 256, true⟩]
  | .vstW _ n _ k _ =>
    let a := natOf (lyBase (y.lyr n) + 1024 * k.toNat)
    [⟨.xs, a, a + 1024, true⟩]
  | .vlds _ _ n k _ => stridedRange (y.lyr n) k.toNat false
  | .vsts _ n _ k _ => stridedRange (y.lyr n) k.toNat true
  | .vgath _ _ n _ _ => gatherRange (y.lyr n) false
  | .vscat _ n _ _ _ => gatherRange (y.lyr n) true
  | .vaccRd _ t row _ => vaccRange t row false
  | .vaccWr t _ row _ => vaccRange t row true
  | .vheapm d a b _ =>
    rowRecords (y.lyr d) 2064 true ++ rowRecords (y.lyr a) 2064 false ++ rowRecords (y.lyr b) 2064 false
  | .vnormm d a b _ => rowRecords (y.lyr d) 16 true ++ rowRecords (y.lyr a) 16 false ++ rowRecords (y.lyr b) 16 false
  | .mma t a b _ _ ta _ _ _ =>
    accRange t.toNat 0 63 true ++
    (match a with
      | .ly n =>
        let r := y.lyr n
        (if ta then lineRange r 0 (kOf (lyFmt r)) 64 else lineRange r 0 64 (kOf (lyFmt r))) ++ mmaScales r ta
      | .gn _ => []) ++
    (match b with
      | .bd n => [⟨.ws, bdAddr (y.bdr n), bdAddr (y.bdr n) + bdSize (y.bdr n), false⟩]
      | .gn _ => [])
  | .mzero mask _ => ((List.range 8).filter fun t => mask.getLsbD t).flatMap fun t => accRange t 0 63 true
  | .mvpTile t _ => accRange t.toNat 0 63 true
  | .mvpRegen t r _ _ => accRange t.toNat 0 63 true ++ rowRecords (y.lyr r) 16 false
  | .ccopy _ d a _ _ => recRange (y.lyr d) true ++ recRange (y.lyr a) false
  | .cconv _ d a _ _ _ => recRange (y.lyr d) true ++ recRange (y.lyr a) false ++ recScales (y.lyr a)
  | .cplane _ d a _ _ =>
    ⟨.ws, bdAddr (y.bdr d), bdAddr (y.bdr d) + bdSize (y.bdr d), true⟩ ::
      recRange (y.lyr a) false ++ columnScales (y.lyr a)
  | .cgath _ d a _ m _ => recRange (y.lyr d) true ++ recRange (y.lyr a) false ++ recRange (y.lyr m) false
  | .cscat _ d a _ m _ => recRange (y.lyr d) true ++ recRange (y.lyr a) false ++ recRange (y.lyr m) false
  | .cfill _ d _ _ _ => recRange (y.lyr d) true
  | .cdrain _ d t _ _ _ _ => recRange (y.lyr d) true ++ accRange t.toNat 0 (lyExt (y.lyr d) 1 - 1) false
  | .csend _ n _ => if x.phase = .waiting then recRange (y.lyr n) false else []
  | .cstash n _ _ _ => if x.phase = .executed then [] else recRange (y.lyr n) false
  | .cfetch n _ _ _ => recRange (y.lyr n) true
  | _ => []

/-- Two ranges conflict: they share a granule, 256 bytes of a local space or 64 of global memory, and one writes
(R113, R114). -/
def Range.conflicts (a b : Range) : Bool :=
  let g := if a.space = .glob then 64 else 256
  a.space == b.space && (a.write || b.write) && decide (a.lo < a.hi) && decide (b.lo < b.hi) &&
    decide (a.lo / g ≤ (b.hi - 1) / g) && decide (b.lo / g ≤ (a.hi - 1) / g)

/-- Two footprints conflict. -/
def conflicts (xs ys : List Range) : Bool := xs.any fun a => ys.any fun b => a.conflicts b

/-- The order of an engine's word within its bundle (R112). -/
def engRank : Eng → Nat
  | .v => 1
  | .m => 2
  | .c => 3

/-- The commands that hold footprints: those enqueued and, while a group is open, its members (R113, R259). -/
def Core.holders (c : Core) : List (Eng × Cmd) :=
  c.vq.map (Prod.mk Eng.v) ++ c.mq.map (Prod.mk Eng.m) ++ c.cq.map (Prod.mk Eng.c) ++
    (match c.tx with
      | some g => g.members.map (Prod.mk Eng.c)
      | none => [])

/-- A command is earlier in program order than a word of engine e of a bundle. -/
def earlier (h : Eng × Cmd) (e : Eng) (iseq : Word) : Bool :=
  decide (h.2.iseq.toNat < iseq.toNat) || (h.2.iseq == iseq && decide (engRank h.1 < engRank e))

/-- The engine of a command that reads a descriptor. -/
def descEng : Instr → Eng
  | .mvpBegin _ _ _ _ _ => .m
  | _ => .c

/-- An earlier command that has not completed still writes a descriptor that a command may read: `ranges` are what each
holds. -/
def Core.descWritten (c : Core) (ranges : Cmd → List Range) (x : Cmd) : Bool :=
  (c.descs x).any fun p => c.holders.any fun h => earlier h (descEng x.instr) x.iseq &&
    conflicts [⟨.xs, p.1, p.1 + 64, false⟩] (ownRanges c h.2 ++ ranges h.2)

/-- What a command takes of the projection unit: the unit, the spill area, the descriptor and labels that an `mvp.begin`
may read, and what it reaches through the binding it may meet; all of XS while a descriptor that decides this is still
being written (R421, R429 to R432). Descriptors that wait on one another are followed to the depth given, and beyond it
all of XS is taken.
Log entry 92: DEDUCED, unsafe. -/
def unitRangesTo : Nat → Core → Cmd → List Range
  | 0, c, x => if usesUnit x.instr then [unitRange, wholeXs c] else []
  | n + 1, c, x =>
    let written := c.descWritten (unitRangesTo n c)
    match x.instr with
    | .mvpBegin _ _ _ _ _ =>
      unitRange :: if x.phase.passed then c.proj.toList.flatMap fun u => spillRange u.desc
        else if written x then [wholeXs c]
        else (c.descs x).flatMap fun p =>
          ⟨.xs, p.1, p.1 + 64, false⟩ :: pdRange p.2 0 (4 * pdRows p.2) ++ spillRange p.2
    | .mvpTile _ _ | .mvpEnd _ | .mvpEndDrop _ | .mvpRegen _ _ _ _ =>
      unitRange :: (if (c.earlierM x).any written then [wholeXs c] else []) ++
        (c.bindings x).flatMap fun u => spillRange u.1.desc ++ throughUnit c x u.1 u.2
    | _ => []

/-- The same, to the depth the model follows. -/
def unitRanges (c : Core) (x : Cmd) : List Range := unitRangesTo 3 c x

/-- An earlier command that has not completed still writes a descriptor that a command may read (R374, R429). -/
def Core.descUnsure (c : Core) (x : Cmd) : Bool := c.descWritten (unitRanges c) x

/-- The queue entry that decides what a command reaches has still to come from the S slot: its own, or that of an
`mvp.begin` before it (R136, R374, R429 to R432). -/
def Core.blind (c : Core) (x : Cmd) : Bool :=
  (x :: if usesUnit x.instr then c.earlierM x else []).any fun y => (descQueue y.instr).any fun q => c.entryMissing q y

/-- What such a command may reach: all of XS, and a `cput` of global memory.
Log entry 92: DEDUCED, unsafe. -/
def blindRanges (c : Core) (x : Cmd) : List Range :=
  if !c.blind x then []
  else if usesUnit x.instr then [wholeXs c]
  else [{ wholeXs c with write := false }, wholeGlob]

/-- The granule of XS and the source that a work descriptor names, until the entry is posted, and then the source until
it has been read (R374). -/
def descRanges (c : Core) (x : Cmd) : List Range :=
  match x.instr with
  | .cput _ _ | .cputNf _ _ | .cputred _ _ | .cputredNf _ _ =>
    if x.progress = 0 then
      if c.descUnsure x then [{ wholeXs c with write := false }, wholeGlob]
      else (c.descs x).flatMap fun p =>
        let src := (BitVec.extractLsb' 0 64 p.2).toNat
        [⟨.xs, p.1, p.1 + 64, false⟩, ⟨.glob, src, src + (BitVec.extractLsb' 128 32 p.2).toNat, false⟩]
    else if x.progress = 1 then
      let src := (x.popped.getD 1 0).toNat
      [⟨.glob, src, src + (x.popped.getD 2 0).toNat, false⟩]
    else []
  | _ => []

/-- The source records of a command whose elements are decoded (R228, R249). -/
def decodedRecs (c : Core) (x : Cmd) : List (BitVec 512) :=
  match x.instr with
  | .mma _ (.ly n) _ _ _ _ _ _ _ => [x.snap.lyr n]
  | .cconv _ _ a _ _ _ => [x.snap.lyr a]
  | .cplane _ _ a _ _ => [x.snap.lyr a]
  | .mvpTile _ _ | .mvpRegen _ _ _ _ =>
    if x.phase.passed then [] else (c.bindings x).flatMap fun u => [u.1.lya, u.1.lyw]
  | _ => []

/-- The bytes of a codebook table (R321). -/
def bookRange (s : State) (c : Core) (t : Nat) : Range :=
  let cb := (s.ctxOf (match c.job with
    | some j => j.ctx
    | none => 0)).codebooks.toNat
  ⟨.glob, cb + 32 * t, cb + 32 * t + 32, false⟩

/-- The scales and codebooks that data in a range of global memory takes through the scale map (R321). -/
def scaleReads (s : State) (c : Core) (code lo hi : Nat) : List Range :=
  let smap := (s.ctxOf (match c.job with
    | some j => j.ctx
    | none => 0)).smap
  smap.flatMap fun e =>
    let (a, b) := (max lo e.dbase.toNat, min hi e.dlimit.toNat)
    if e.valid ∧ a < b then
      ⟨.glob, e.sbase.toNat + 2 * smapBlock e code a false, e.sbase.toNat + 2 * smapBlock e code (b - 1) true + 2, false⟩
        :: if code = 5 then [bookRange s c e.cb.toNat] else []
    else []

/-- The reads of scales and codebooks in global memory that the decoding of a command's sources makes (R114, R227, R228,
R238, R249). -/
def mappedReads (s : State) (c : Core) (x : Cmd) : List Range :=
  let recs := decodedRecs c x
  recs.flatMap fun r =>
    if lySpace r = 0 then (if lyFmt r = 5 then [bookRange s c (lyCb r)] else [])
    else if isScaledFmt (lyFmt r) then
      (ownRanges c x ++ unitRanges c x).flatMap fun g => if g.space = .glob ∧ !g.write then scaleReads s c (lyFmt r) g.lo g.hi else []
    else []

/-- The footprint of a command (R113). -/
def footprint (s : State) (c : Core) (x : Cmd) : List Range :=
  ownRanges c x ++ unitRanges c x ++ descRanges c x ++ mappedReads s c x

/-- The footprint a posted store keeps until it is performed (R114, R166). -/
def Posted.range (p : Posted) : Range := ⟨.glob, p.va.toNat, p.va.toNat + p.width, true⟩

/-- The posted stores that keep their footprints: those on their way and, until the cut, those that have faulted (R166);
those a trap's cut parked are not seen by its handler (R93). -/
def Core.inFlight (c : Core) : List Posted := c.posted.filter fun p => p.parked != some .trap || !c.sr.active

/-- The granules a command still holds against a later one: an M command's accumulator rows never hold another M
command (R219), V commands take the engine's registers in queue order (R183), the members of a group never hold one
another (R259), and a `csend`, `cstash` or posted entry whose source has been read holds nothing (R355, R374, R406). One
whose entry the S slot has still to put holds all that it may reach. -/
def heldRange (s : State) (c : Core) (e : Eng) (x : Cmd) (e' : Eng) : List Range :=
  if (e = .m ∧ e' = .m) then (footprint s c x).filter fun r => r.space ≠ .acc ∧ r.space ≠ .proj
  else if e = .v ∧ e' = .v then (footprint s c x).filter fun r => r.space ≠ .urs ∧ r.space ≠ .eng
  else if x.inGroup ∧ e' = .c then []
  else footprint s c x ++ if e = e' then [] else blindRanges c x

/-- The executing core's S word with a footprint may go: no earlier command and no posted store conflicts (R112 to
R115). -/
def scoreS (rs : List Range) : M Unit := do
  let s ← getS
  let c := s.core
  waitIf (c.holders.any fun h => conflicts rs (footprint s c h.2)) .scoreboard
  waitIf (c.inFlight.any fun p => conflicts rs [p.range]) .scoreboard

/-- A command may start: no earlier command in program order that has not completed, and no earlier posted store, holds
a conflicting footprint (R113, R114). -/
def scoreCmd (e : Eng) (x : Cmd) : M Unit := do
  let s ← getS
  let c := s.core
  let rs := footprint s c x
  waitIf (c.holders.any fun h =>
    (decide (h.2.iseq.toNat < x.iseq.toNat) || (h.2.iseq == x.iseq && decide (engRank h.1 < engRank e))) &&
      conflicts rs (heldRange s c h.1 h.2 e)) .scoreboard
  waitIf (c.inFlight.any fun p => decide (p.iseq.toNat ≤ x.iseq.toNat) && conflicts rs [p.range]) .scoreboard

/-- A command writes global memory. -/
def writesGlobal (c : Core) (x : Cmd) : Bool := (ownRanges c x).any fun r => r.space == .glob && r.write

/-- The range-table entries in use: posted stores and C commands under way that write global memory (R114). What an open
transaction group stages takes none: it is performed by its `ctxe` as one act.
Log entry 93: DESIGN CHOICE, unsafe. -/
def Core.rangeEntries (c : Core) : Nat :=
  c.posted.length + (c.cq.filter fun x => x.phase ≠ .waiting && !x.inGroup && writesGlobal c x).length

/-- A free range-table entry for a global write (R114). -/
def rangeEntry : M Unit := do waitIf (decide (16 ≤ (← getCore).rangeEntries)) .engine

end Sys2Proof.Machine
end

