-- ==== Sys2Proof/Machine/Engine.lean ====
section
/-! DEFINITION. Machine/Engine.lean: how an engine takes the command at the head of its queue: guards, the start, queue
registers, signals and releases, completion and discard (R39, R53, R116 to R119, R133 to R151). -/

namespace Sys2Proof.Machine

/-! ## What stops an engine -/

/-- A C command of an open transaction group must go on before the cut (R98). -/
def State.groupRuns (s : State) (i : Fin 128) : Bool :=
  let c := s.coreAt i
  match c.job with
  | none => false
  | some j =>
    c.tx.isSome && !(s.regs.pgran.getD (s.ctxOf j.ctx).cls.toNat 3).getLsbD 1 && c.cq.any fun x => isCtxe x.instr

/-- An engine may execute a command: one that has not started only while nothing stops the core (R91, R98, R133, R439,
R441). -/
def State.mayExecute (s : State) (i : Fin 128) (e : Eng) (x : Cmd) : Bool :=
  let c := s.coreAt i
  match c.job with
  | none => false
  | some j =>
    let st := (s.ctxOf j.ctx).state
    let part := x.phase == .stopped || (c.taken e).map (·.2) == some x.iseq
    (st == .running || st == .faultWait || st == .draining) && !j.starting && !j.preempted && !j.escalated &&
      !s.acked j.ctx && (c.engStop e).isNone && !x.faulted &&
      (part || (c.pendingTrap.isNone && !j.stopping) || (e == .c && s.groupRuns i)) &&
      match c.debug with
      | .running | .stepping => true
      | .stopping _ => part || (match c.stepTo with
        | some n => decide (x.iseq.toNat ≤ n.toNat)
        | none => false)
      | .stopped _ => false

/-! ## The head of a queue (R133, R140, R141) -/

/-- The place in its queue of the next command to execute. -/
def Core.nextIx (c : Core) (e : Eng) : Nat := ((c.queue e).takeWhile fun x => x.phase.passed).length

/-- The pair that a `vgset` names. -/
def gsetPair : Instr → Option Nat
  | .vgset _ n _ _ => some (n.toNat / 2)
  | _ => none

/-- The command is guarded by a slot of the pair. -/
def Cmd.guardedBy (x : Cmd) (k : Nat) : Bool := (instrGuard x.instr).map (fun g => g.toNat / 2) == some k

/-- The command is a `vgset` naming the pair. -/
def Cmd.resolves (x : Cmd) (k : Nat) : Bool := gsetPair x.instr == some k

/-- The pair has a reference: a guarded command not consumed, or a `vgset` not completed, a parked one with them
(R140). -/
def Core.hasRefs (c : Core) (k : Nat) : Bool :=
  c.uncompleted.any fun x => (x.phase == .waiting && !x.consumed && x.guardedBy k) || x.resolves k

/-- A command put at a place of its queue. -/
def Core.putCmd (c : Core) (e : Eng) (k : Nat) (x : Cmd) : Core := c.setQueue e ((c.queue e).set k x)

/-- A command taken out of its queue. -/
def Core.dropCmd (c : Core) (e : Eng) (k : Nat) : Core := c.setQueue e ((c.queue e).eraseIdx k)

/-- The queue with the instruction next in it: the command that stands there, or, where another or none does, one
enqueued there now with the snapshot of this moment (R134). -/
def Core.offer (c : Core) (e : Eng) (k : Nat) (i : Instr) : Core :=
  match (c.queue e)[k]? with
  | some x => if x.instr = i then c else c.setQueue e ((c.queue e).insertIdx k (c.newCmd i c.iseq))
  | none => c.setQueue e (c.queue e ++ [c.newCmd i c.iseq])

/-- A command that faults stands at its restart point until the cut (R91). -/
def Core.markFault (c : Core) (e : Eng) (iseq : Word) : Core :=
  c.setQueue e ((c.queue e).map fun y => if y.iseq = iseq then { y with faulted := true } else y)

/-- How an engine command's stop leaves the machine (R90, R91, R322). -/
def State.stopCmd (s : State) (e : Eng) (path : Nat) (x : Cmd) (w : Stop) : State :=
  match w with
  | .trap cause info => (s.modCore fun c => c.markFault e x.iseq).raise (some e) cause info x.iseq
  | .notPresent va acc => s.stopPath (some e) path va acc false x.iseq
  | .migrating va acc => s.stopPath (some e) path va acc true x.iseq
  | .fatal code => s.fatal s.curCtx code s.cur.val
  | .flag _ | .scoreboard | .engine => s

/-- The PATH code of an engine's accesses (R325). -/
def enginePath : Eng → Nat
  | .v => 0
  | .m => 1
  | .c => 2

/-- A `ctxe` before a C command has not completed (R261). -/
def Core.behindCtxe (c : Core) (e : Eng) (x : Cmd) : Bool :=
  e == .c && c.cq.any fun y => isCtxe y.instr && decide (y.iseq.toNat < x.iseq.toNat)

/-- The start of a command: no `ctxe` before it is under way, and the scoreboard lets it (R113, R114, R133, R261). A
command started before goes on. -/
def startCmd (e : Eng) (x : Cmd) : M Unit := do
  if x.phase = .waiting then
    waitIf ((← getCore).behindCtxe e x) .engine
    scoreCmd e x
  else pure ()

/-- The C commands that may stand in an open transaction group (R260). -/
def groupMember : Instr → Bool
  | .ccopy _ _ _ _ _ | .cconv _ _ _ _ _ _ | .cgath _ _ _ _ _ _ | .cscat _ _ _ _ _ _ | .cfill _ _ _ _ _
  | .cdrain _ _ _ _ _ _ _ | .ctxe _ => true
  | _ => false

/-- The commands of the open group so far, its `ctxb` with them. -/
def Core.groupSize (c : Core) (g : TxGroup) : Nat := g.members.length + (c.cq.filter fun x => x.inGroup).length

/-- A command that may not stand in the open group, or is the 31st in it, faults QUEUE at its head (R260). -/
def groupGate (e : Eng) (x : Cmd) : M Unit := do
  let c ← getCore
  match c.tx with
  | some g =>
    trapIf (decide (e = .c) && x.phase == .waiting &&
      (!groupMember x.instr || (!isCtxe x.instr && decide (31 ≤ c.groupSize g)))) .queue 17
  | none => pure ()

/-- What the commands that fault keep: the start they have completed, or else the queue entries they have popped (R137,
R262). -/
def keepPops (e : Eng) (k : Nat) (x y : Cmd) (s t : State) : State :=
  if x.phase = .waiting ∧ y.phase = .stopped then t.modCore fun c => c.putCmd e k y
  else if y.popped = x.popped then s
  else t.modCore fun c => c.putCmd e k { x with popped := y.popped }

/-- The class a wait leaves its slot in (R154). -/
def Stop.head : Stop → Head
  | .flag n => .waitFlag (BitVec.ofNat 7 n)
  | .scoreboard => .waitScoreboard
  | _ => .waitEngine

/-- The class of a head that a wait holds, of all that hold it the first in the list of R154: `gated` is what would hold it
with the scoreboard apart, `scored` what the scoreboard says. -/
def Stop.firstClass (w : Stop) (gated scored : Option Stop) : Head :=
  match gated, scored with
  | some (.flag n), _ => (Stop.flag n).head
  | _, some .scoreboard => .waitScoreboard
  | _, _ => w.head

/-- How an attempt stops. -/
def stopOf {α : Type} (m : M α) (s : State) : Option Stop :=
  match m s with
  | .error (w, _) => some w
  | .ok _ => none

/-- A command that waits: one that has popped its entries or completed its start has started, and stays so (R137);
another stands as it did. -/
def holdCmd (e : Eng) (k : Nat) (x y : Cmd) (h : Head) (s t : State) : State :=
  if (x.phase = .waiting ∧ y.phase = .stopped) ∨ y.popped ≠ x.popped then
    t.modCore fun c => c.putCmd e k { y with phase := .stopped, held := some (y.progress, h) }
  else s.modCore fun c => c.putCmd e k { x with held := some (x.progress, h) }

/-- What an engine does with the command at its head: held on an OPEN pair, discarded, or executed by its meaning: its
issue checks and pops, the rest of its start, and its body, which says how the command stands afterwards (R133, R137,
R141, R145). -/
def runCmd (e : Eng) (path : Nat) (g : Guard) (k : Nat) (x : Cmd) (pre start body : Cmd → M Cmd) (s : State) : State :=
  let c := s.core
  let reads := decide (x.phase = .waiting) && !x.consumed
  if reads ∧ (c.pair g).isOpen then
    if e = .v ∧ (c.vq.drop (k + 1)).any (fun y => y.resolves (g.toNat / 2)) then
      s.raise (some e) .guard (g.zeroExtend 64) x.iseq
    else holdCmd e k x x (Stop.flag (32 + g.toNat)).head s s
  else if reads ∧ !c.guardVal g then s.modCore fun c => (c.dropCmd e k).forgetHeld
  else
    match (do groupGate e x; startCmd e x; pre x) s with
    | .error (w, p) =>
      if w.isWait then
        let gated := stopOf (do let y ← pre x; let y ← start y; body y) s
        holdCmd e k x x (w.firstClass gated (stopOf (scoreCmd e x) s)) s s
      else (s.keepMisses w p).stopCmd e path x w
    | .ok (y, t) =>
      match start y t with
      | .error (w, p) =>
        if w.isWait then holdCmd e k x y w.head s t else ((keepPops e k x y s t).keepMisses w p).stopCmd e path x w
      | .ok (y, t) =>
        match body y t with
        | .ok (z, u) => u.modCore fun c => c.putCmd e k { z with inGroup := e = .c && c.tx.isSome }
        | .error (w, p) =>
          if w.isWait then holdCmd e k x y w.head s t else ((keepPops e k x y s t).keepMisses w p).stopCmd e path x w

/-- An engine word executes as the next command of its queue; `skip` passes over the commands the owner's engine is
executing while a sibling executes this one (R152). -/
def runEngFrom (e : Eng) (path : Nat) (i : Instr) (g : Guard) (pre start body : Cmd → M Cmd) (s : State) :
    Host.Outcome State Fault Refusal :=
  let k := s.core.nextIx e + s.skip
  let s := s.modCore fun c => c.offer e k i
  match (s.core.queue e)[k]? with
  | some x => .next (runCmd e path g k x pre start body s)
  | none => .next s

/-- The same for a command whose start is its pops alone. -/
def runEngWith (e : Eng) (path : Nat) (i : Instr) (g : Guard) (pre body : Cmd → M Cmd) (s : State) :
    Host.Outcome State Fault Refusal :=
  runEngFrom e path i g pre pure body s

/-- The same for a command that pops nothing before its body. -/
def runEngAt (e : Eng) (path : Nat) (i : Instr) (g : Guard) (body : Cmd → M Cmd) (s : State) :
    Host.Outcome State Fault Refusal :=
  runEngWith e path i g pure body s

/-- The same, on the path of the engine's own accesses. -/
def runEng (e : Eng) (i : Instr) (g : Guard) (body : Cmd → M Cmd) (s : State) : Host.Outcome State Fault Refusal :=
  runEngAt e (enginePath e) i g body s

/-- A command that has executed, with the flags it raised. -/
def Cmd.done (x : Cmd) (f : Flags) : Cmd := { x with phase := .executed, flags := x.flags ||| f }

/-- COMMAND_COMPLETE (R39, R133): the first executed command of a queue that may completes, once no home holds a write of
it (R306, R337). -/
def State.commandComplete (s : State) (i : Fin 128) (e : Eng) : State :=
  let q := (s.coreAt i).queue e
  match q.zipIdx.find? fun p => p.1.phase = .executed ∧ !s.holding i (· == p.1.iseq) ∧ decrementsInOrder q p.2 p.1 with
  | none => s
  | some p => (s.setCoreAt i ((s.coreAt i).dropCmd e p.2)).completeCmd i e p.1

/-- DISCARD (R141): the command at the head whose pair is resolved and whose slot is false goes, without any effect; while
something stops the core, what has not started stays (R91, R439).
Log entry 20: DEDUCED, safe. -/
def State.discard (s : State) (i : Fin 128) (e : Eng) : State :=
  let c := s.coreAt i
  let k := c.nextIx e
  match (c.queue e)[k]? with
  | none => s
  | some x =>
    match instrGuard x.instr with
    | none => s
    | some g =>
      if s.mayExecute i e x ∧ x.phase = .waiting ∧ !x.consumed ∧ !(c.pair g).isOpen ∧ !c.guardVal g then
        s.setCoreAt i (c.dropCmd e k).forgetHeld
      else s

/-! ## Queue registers (R137, R138) -/

/-- One entry popped from each queue register; without an entry the command waits. -/
def popEach : List Nat → M (List DWord)
  | [] => pure []
  | n :: ns => do
    match (← getCore).qreg n with
    | [] => stop (.flag (48 + n))
    | v :: rest =>
      modCore fun c => c.setQreg n rest
      let vs ← popEach ns
      pure (v :: vs)

/-- The entries of a command's start, one of each register it names (R138); what it has popped before it keeps
(R262). -/
def popQs (ns : List Nat) (x : Cmd) : M Cmd := do
  if x.popped.isEmpty then
    let vs ← popEach ns.eraseDups
    pure { x with popped := vs }
  else pure x

/-- The n-th entry of a command's start. -/
def Cmd.pop (x : Cmd) (n : Nat) : DWord := x.popped.getD n 0

/-- Room in a queue register for a push at completion (R137). -/
def needRoom (n : Nat) : M Unit := do waitIf (!(← getCore).qroom n) (.flag (48 + n))

/-- A push reserved for completion. -/
def Cmd.push (x : Cmd) (n : Nat) (v : DWord) : Cmd := { x with pushes := x.pushes ++ [(n, v)] }

/-! ## Releases and signals (R116 to R119, R146 to R151) -/

/-- A command has performed its global reads and writes: it has executed and stages nothing. -/
def Cmd.performed (x : Cmd) : Bool := x.phase == .executed && !x.inGroup

/-- The entries of the angle table that a generator register gives n columns from (R418). -/
def angleRange (g : BitVec 512) (n : Nat) : List Range :=
  if gnKind g = 2 then
    let a := (gnTbl g : Int) + 4 * gnCol0 g
    [⟨.glob, natOf a, natOf (a + 4 * n), false⟩]
  else []

/-- The angle table entries that an `mma` which has not started will read; its footprint has none (R418). -/
def Cmd.angleReads (x : Cmd) : List Range :=
  match x.phase, x.instr with
  | .waiting, .mma _ a b _ _ ta tb _ _ =>
    let k := kOf (match a with
      | .ly n => lyFmt (x.snap.lyr n)
      | .gn n => gnFmt (x.snap.gnr n))
    (match a with
      | .gn n => angleRange (x.snap.gnr n) (genCols ta k)
      | .ly _ => []) ++
    (match b with
      | .gn n => angleRange (x.snap.gnr n) (genCols (!tb) k)
      | .bd _ => [])
  | _, _ => []

/-- The command has not started and will read global memory that is not in its footprint: an angle table (R418), or the
source of a descriptor it has not popped (R374). -/
def Cmd.readsLater (x : Cmd) : Bool :=
  x.phase == .waiting && match x.instr with
  | .mma _ _ _ _ _ _ _ _ _ => !x.angleReads.isEmpty
  | .cput _ _ | .cputNf _ _ | .cputred _ _ | .cputredNf _ _ => true
  | _ => false

/-- The command reads or writes global memory for its core. The source of a posted entry is read by the device (R368),
so a posted `cput` holds no release.
Log entry 77: DEDUCED, unsafe. -/
def State.touchesGlobal (s : State) (c : Core) (x : Cmd) : Bool :=
  decide (x.phase ≠ .posted) && (x.readsLater || (footprint s c x).any fun r => r.space == .glob)

/-- A release of the S slot waits for every earlier global read and write of its core (R117). -/
def releaseS : M Unit := do
  let s ← getS
  let c := s.core
  waitIf (c.holders.any fun h => !h.2.performed && s.touchesGlobal c h.2) .scoreboard
  waitIf (c.inFlight.any (fun _ => true) || s.holding s.cur fun _ => true) .engine

/-- A release of an engine queue waits in the same way; in the M queue every earlier M command has completed (R117,
R242). -/
def releaseEng (e : Eng) (x : Cmd) : M Unit := do
  let s ← getS
  let c := s.core
  waitIf (c.holders.any fun h => earlier h e x.iseq && !h.2.performed && s.touchesGlobal c h.2) .scoreboard
  waitIf (c.inFlight.any (fun p => decide (p.iseq.toNat ≤ x.iseq.toNat)) ||
    s.holding s.cur fun n => decide (n.toNat ≤ x.iseq.toNat)) .engine
  waitIf (decide (e = .m) && c.mq.any fun y => decide (y.iseq.toNat < x.iseq.toNat)) .engine

/-- The group of a dispatch slot. -/
def State.group (s : State) (slot : Nat) : Option Group := s.groups.toList.getD slot none

/-- A remote signal's target is checked (R147): HANDLE names index · 32 + flag. -/
def checkTarget (t : DWord) (f : BitVec 5) : M (Fin 128) := do
  let s ← getS
  let j ← getJob
  match s.group j.slot with
  | some gr =>
    match (gr.placed ++ gr.ended).find? fun i => i.val = t.toNat with
    | some i => if gr.cosched then pure i else trapM .handle (t * 32 + f.zeroExtend 64)
    | none => trapM .handle (t * 32 + f.zeroExtend 64)
  | none => trapM .handle (t * 32 + f.zeroExtend 64)

/-- The remote target and flag of a signal of a core's engine (R151); none for another command. -/
def remoteTarget (i : Fin 128) : Instr → Option (Int × BitVec 5)
  | .vsig f (some o) _ | .msig f (some o) _ | .csig f (some o) _ | .csigNf f (some o) _ =>
    some ((i.val : Int) + signed 7 o.toNat, f)
  | _ => none

/-- Signals from one core to one flag arrive in program order (R147): one waits for every earlier one that stands in a
queue.
Log entry 102: DEDUCED, unsafe. -/
def signalOrder (t : Fin 128) (f : BitVec 5) (before : Eng × Cmd → Bool) : M Unit := do
  let s ← getS
  waitIf (s.core.holders.any fun h => before h && decide (h.2.phase = .waiting) &&
    remoteTarget s.cur h.2.instr == some ((t.val : Int), f)) .engine

/-- An increment is sent to a flag of another job of the group. -/
def sendSignal (t : Fin 128) (f : BitVec 5) (n : Byte) : M Unit := modS fun s =>
  { s with signals := s.signals ++ [⟨t, s.core.jobSlot, f, n, s.cur⟩] }

/-- SIGNAL_ARRIVAL (R146, R147): the increment applies at its flag, after every earlier one of the same sender to the
same flag; to an ended job it is discarded; to a job that is not on its core now it waits. -/
def State.signalArrival (s : State) (k : Nat) : State :=
  match s.signals[k]? with
  | none => s
  | some x =>
    let first := !((s.signals.take k).any fun y => y.sender = x.sender ∧ y.target = x.target ∧ y.flag = x.flag)
    if !first || s.frozenAt x.target then s
    else
      let gone := { s with signals := s.signals.eraseIdx k }
      let c := s.coreAt x.target
      if c.jobSlot == x.slot && (match c.job with | some j => !j.ended | none => false) then
        gone.setCoreAt x.target (c.addFlag x.flag x.amount)
      else
        match s.group x.slot with
        | some gr => if gr.ended.contains x.target then gone else s
        | none => gone

/-- An engine signal of 1 (R150, R151): local, or to the job at LIDX + OFS, a release unless `.nf`. A negative sum is no
job; TINFO of its HANDLE fault holds it as 64-bit two's complement.
Log entry 120: DESIGN CHOICE, unsafe. -/
def engSignal (e : Eng) (nf : Bool) (f : BitVec 5) (ofs : Option (BitVec 7)) (x : Cmd) : M Cmd := do
  match ofs with
  | none =>
    waitIf (decide (e = .m) && (← getCore).mq.any fun y => decide (y.iseq.toNat < x.iseq.toNat)) .engine
    modCore fun c => c.addFlag f 1
  | some o =>
    let i := (← getS).cur.val
    let t ← checkTarget (BitVec.ofInt 64 ((i : Int) + signed 7 o.toNat)) f
    if nf then pure () else releaseEng e x
    signalOrder t f fun h => earlier h e x.iseq
    sendSignal t f 1
  pure (x.done 0)

/-- An engine wait for 1 of a flag (R149, R151). -/
def engWait (f : BitVec 5) (x : Cmd) : M Cmd := do
  waitIf ((← getCore).flag f == 0) (.flag f.toNat)
  modCore fun c => c.takeFlag f 1
  pure (x.done 0)

/-- `vsig` (R151). -/
def execVsig (f : BitVec 5) (ofs : Option (BitVec 7)) (g : Guard) (s : State) : Host.Outcome State Fault Refusal :=
  runEng .v (.vsig f ofs g) g (engSignal .v false f ofs) s

/-- `vwait` (R151). -/
def execVwait (f : BitVec 5) (g : Guard) (s : State) : Host.Outcome State Fault Refusal :=
  runEng .v (.vwait f g) g (engWait f) s

/-- `msig` (R151, R242). -/
def execMsig (f : BitVec 5) (ofs : Option (BitVec 7)) (g : Guard) (s : State) : Host.Outcome State Fault Refusal :=
  runEng .m (.msig f ofs g) g (engSignal .m false f ofs) s

/-- `mwait` (R151, R242). -/
def execMwait (f : BitVec 5) (g : Guard) (s : State) : Host.Outcome State Fault Refusal :=
  runEng .m (.mwait f g) g (engWait f) s

/-- `csig` (R151). -/
def execCsig (f : BitVec 5) (ofs : Option (BitVec 7)) (g : Guard) (s : State) : Host.Outcome State Fault Refusal :=
  runEng .c (.csig f ofs g) g (engSignal .c false f ofs) s

/-- `csig.nf` (R119, R151). -/
def execCsigNf (f : BitVec 5) (ofs : Option (BitVec 7)) (g : Guard) (s : State) : Host.Outcome State Fault Refusal :=
  runEng .c (.csigNf f ofs g) g (engSignal .c true f ofs) s

/-- `cwait` (R151). -/
def execCwait (f : BitVec 5) (g : Guard) (s : State) : Host.Outcome State Fault Refusal :=
  runEng .c (.cwait f g) g (engWait f) s

end Sys2Proof.Machine
end

