-- ==== Sys2Proof/Machine/ScalarMem.lean ====
section
/-! DEFINITION. Machine/ScalarMem.lean: the loads, stores and reduction atomics of the S slot, and the stack (R108,
R109, R114, R115, R128, R162 to R166, R170, R171). -/

namespace Sys2Proof.Machine

/-! ## Addresses (R109, R162) -/

/-- The effective address of a load or store. -/
def effAddr (a : XReg) (imm : Half) : M DWord := do pure ((← getX a) + imm.signExtend 64)

/-- The address has the local form of R109. -/
def isLocal (a : DWord) : Bool := a.getLsbD 63 && decide (bits a.toNat 62 32 = 0)

/-- Check 1 of R162: the address has one of the two forms. -/
def checkForm (a : DWord) (writes : Bool) : M Unit :=
  trapIf (!isGlobal a.toNat && !isLocal a) .page (pageInfo a.toNat 0 writes)

/-- Check 2 of R162. -/
def checkAlign (a : DWord) (n : Nat) : M Unit := trapIf (decide (a.toNat % n ≠ 0)) .misalign a

/-- The local address of an address of local form.
Log entry 65: DEDUCED, unsafe. -/
def localAddr (a : DWord) : Nat := bits a.toNat 31 0

/-- n bytes of XS read by an S word (R113, R115). -/
def loadXs (a n : Nat) : M Nat := do
  checkXs a n
  scoreS [⟨.xs, a, a + n, false⟩]
  pure (leNat (← readXs a n))

/-- n bytes of XS written by an S word. -/
def storeXs (a n v : Nat) : M Unit := do
  checkXs a n
  scoreS [⟨.xs, a, a + n, true⟩]
  writeXs a (leBytes n v)

/-! ## Loads (R163, R164) -/

/-- The n bytes at an address, after the checks of R162. -/
def loadWord (a : DWord) (n : Nat) : M Nat := do
  checkForm a false
  checkAlign a n
  if isGlobal a.toNat then
    scoreS [⟨.glob, a.toNat, a.toNat + n, false⟩]
    pure (leNat (← readGlobal false rawFmt a.toNat n))
  else loadXs (localAddr a) n

/-- A load of n bytes, extended by a function. -/
def load (n : Nat) (ext : Nat → DWord) (d a : XReg) (imm : Half) (s : State) : Host.Outcome State Fault Refusal :=
  runS (do
    let ea ← effAddr a imm
    let v ← loadWord ea n
    setX d (ext v)
    advance) s

/-- Zero extension. -/
def zext (v : Nat) : DWord := BitVec.ofNat 64 v

/-- Sign extension of an n-byte value. -/
def sext (n v : Nat) : DWord := BitVec.ofInt 64 (signed (8 * n) v)

/-- `ld.b` (R163). -/
def execLdB (d a : XReg) (imm : Half) (s : State) : Host.Outcome State Fault Refusal :=
  load 1 zext d a imm s

/-- `ld.h` (R163). -/
def execLdH (d a : XReg) (imm : Half) (s : State) : Host.Outcome State Fault Refusal :=
  load 2 zext d a imm s

/-- `ld.w` (R163). -/
def execLdW (d a : XReg) (imm : Half) (s : State) : Host.Outcome State Fault Refusal :=
  load 4 zext d a imm s

/-- `ld.d` (R163). -/
def execLdD (d a : XReg) (imm : Half) (s : State) : Host.Outcome State Fault Refusal :=
  load 8 zext d a imm s

/-- `lds.b` (R163). -/
def execLdsB (d a : XReg) (imm : Half) (s : State) : Host.Outcome State Fault Refusal :=
  load 1 (sext 1) d a imm s

/-- `lds.h` (R163). -/
def execLdsH (d a : XReg) (imm : Half) (s : State) : Host.Outcome State Fault Refusal :=
  load 2 (sext 2) d a imm s

/-- `lds.w` (R163). -/
def execLdsW (d a : XReg) (imm : Half) (s : State) : Host.Outcome State Fault Refusal :=
  load 4 (sext 4) d a imm s

/-- The alignment width of `ldf` by page format (R164). -/
def ldfWidth (code : Nat) : Nat :=
  match code with
  | 0 => 4
  | 6 | 7 => 2
  | _ => 1

/-- A decoded element of a page with its scale, where an entry covers it, whatever its format; the codebook entry is
read before the scale (R164, R321).
Log entry 96: DESIGN CHOICE, unsafe. -/
def decodeCovered (own : Bool) (code a : Nat) (hi : Bool) (x : Nat) : M Val := do
  let s ← getS
  match s.smapOf s.curCtx a with
  | none =>
    trapIf (code == 5) .format (BitVec.ofNat 64 a)
    pure (elemVal code x)
  | some e =>
    let v ← if code = 5 then readCodebook own e.cb.toNat x else pure (elemVal code x)
    let sc ← readScale own e code a hi
    pure (scaleV v (sc16 sc))

/-- The scale and the codebook entry that a covered element's decoding reads, as ranges (R114, R321). -/
def State.coveredRanges (s : State) (code a : Nat) (hi : Bool) (x : Nat) : List Range :=
  match s.smapOf s.curCtx a with
  | none => []
  | some e =>
    let at_ := e.sbase.toNat + 2 * smapBlock e code a hi
    let cb := s.context.codebooks.toNat + 32 * e.cb.toNat + 2 * x
    ⟨.glob, at_, at_ + 2, false⟩ :: if code = 5 then [⟨.glob, cb, cb + 2, false⟩] else []

/-- A global read of a covered element's scale and codebook entry waits for an overlapping write (R114). -/
def scoreCovered (code a : Nat) (hi : Bool) (x : Nat) : M Unit := do
  scoreS ((← getS).coveredRanges code a hi x)

/-- An element as FP32 bits. -/
def ldfElem (code a : Nat) (hi : Bool) (x : Nat) : M Nat := do
  scoreCovered code a hi x
  pure (convF .f32 .rne (← decodeCovered false code a hi x)).1

/-- `ldf` of a global address: the width follows the page's format (R164). -/
def ldfGlobal (a : DWord) : M DWord := do
  let e ← translate .load a.toNat
  let _ ← locate e a.toNat false
  let code := leafFmt e.leaf
  let n := ldfWidth code
  checkAlign a n
  scoreS [⟨.glob, a.toNat, a.toNat + n, false⟩]
  let v := leNat (← readGlobal false anyFmt a.toNat n)
  if code = 0 then pure (zext v)
  else if fmtWidth code = 4 then
    let lo ← ldfElem code a.toNat false (v % 16)
    let hi ← ldfElem code a.toNat true (v / 16)
    pure (zext (hi * 2 ^ 32 + lo))
  else do
    let r ← ldfElem code a.toNat false v
    pure (zext r)

/-- `ldf` (R164). -/
def execLdf (d a : XReg) (imm : Half) (s : State) : Host.Outcome State Fault Refusal :=
  runS (do
    let ea ← effAddr a imm
    checkForm ea false
    let v ← if isGlobal ea.toNat then ldfGlobal ea
      else do
        checkAlign ea 4
        let v ← loadXs (localAddr ea) 4
        pure (zext v)
    setX d v
    advance) s

/-! ## Stores and reduction atomics (R128, R165, R166) -/

/-- A store or `red.*` is posted with its range-table entry (R114, R115). -/
def post (va : Nat) (t : TlbEntry × Loc) (n : Nat) (v : DWord) (op : Option RedOp) : M Unit := do
  scoreS [⟨.glob, va, va + n, true⟩]
  rangeEntry
  modCore fun c => { c with posted := c.posted ++ [⟨BitVec.ofNat 57 va, t.1, t.2, n, v, op, c.iseq, none, false⟩] }

/-- A store of the low n bytes of a register. -/
def store (n : Nat) (d a : XReg) (imm : Half) (s : State) : Host.Outcome State Fault Refusal :=
  runS (do
    let ea ← effAddr a imm
    let v ← getX d
    checkForm ea true
    checkAlign ea n
    if isGlobal ea.toNat then
      let t ← writeTarget .store rawFmt ea.toNat n
      checkWrites false ((List.range n).map fun k => ea.toNat + k)
      post ea.toNat t n v none
    else storeXs (localAddr ea) n v.toNat
    advance) s

/-- `st.b` (R165). -/
def execStB (d a : XReg) (imm : Half) (s : State) : Host.Outcome State Fault Refusal :=
  store 1 d a imm s

/-- `st.h` (R165). -/
def execStH (d a : XReg) (imm : Half) (s : State) : Host.Outcome State Fault Refusal :=
  store 2 d a imm s

/-- `st.w` (R165). -/
def execStW (d a : XReg) (imm : Half) (s : State) : Host.Outcome State Fault Refusal :=
  store 4 d a imm s

/-- `st.d` (R165). -/
def execStD (d a : XReg) (imm : Half) (s : State) : Host.Outcome State Fault Refusal :=
  store 8 d a imm s

/-- A `red.*` of width n (R128). -/
def red (op : RedOp) (n : Nat) (a b : XReg) (s : State) : Host.Outcome State Fault Refusal :=
  runS (do
    let ea ← getX a
    let v ← getX b
    checkForm ea true
    trapIf (isLocal ea) .window (zext (localAddr ea))
    checkAlign ea n
    let t ← writeTarget .red rawFmt ea.toNat n
    checkWrites true ((List.range n).map fun k => ea.toNat + k)
    post ea.toNat t n v (some op)
    advance) s

/-- `red.add` (R128). -/
def execRedAdd (a b : XReg) (dbl : Bool) (s : State) : Host.Outcome State Fault Refusal :=
  red .add (if dbl then 8 else 4) a b s

/-- `red.and` (R128). -/
def execRedAnd (a b : XReg) (dbl : Bool) (s : State) : Host.Outcome State Fault Refusal :=
  red .and (if dbl then 8 else 4) a b s

/-- `red.or` (R128). -/
def execRedOr (a b : XReg) (dbl : Bool) (s : State) : Host.Outcome State Fault Refusal :=
  red .or (if dbl then 8 else 4) a b s

/-- `red.xor` (R128). -/
def execRedXor (a b : XReg) (dbl : Bool) (s : State) : Host.Outcome State Fault Refusal :=
  red .xor (if dbl then 8 else 4) a b s

/-- `red.max` (R128). -/
def execRedMax (a b : XReg) (dbl : Bool) (s : State) : Host.Outcome State Fault Refusal :=
  red .max (if dbl then 8 else 4) a b s

/-- `red.min` (R128). -/
def execRedMin (a b : XReg) (dbl : Bool) (s : State) : Host.Outcome State Fault Refusal :=
  red .min (if dbl then 8 else 4) a b s

/-- `red.fmax.w` (R128). -/
def execRedFmax (a b : XReg) (s : State) : Host.Outcome State Fault Refusal := red .fmax 4 a b s

/-- `red.fmin.w` (R128). -/
def execRedFmin (a b : XReg) (s : State) : Host.Outcome State Fault Refusal := red .fmin 4 a b s

/-- A posted store or `red.*` reaches its home: it passes the check and is performed as one step, or held there, or is
parked and its CONFLICT reported (R124, R128, R166, R337). No other fault reaches it (R166): a block that does not decode is
the context's fatal event 21 (R334, R19), and a store whose page's record was refused meanwhile performs nothing.
Log entry 116: DESIGN CHOICE, unsafe. -/
def State.performPosted (s : State) (i : Fin 128) (k : Nat) (isRed : Bool) : State :=
  match (s.coreAt i).posted[k]? with
  | none => s
  | some p =>
    if p.parked.isSome ∨ p.held ∨ p.op.isSome ≠ isRed ∨ s.frozenAt i then s
    else
      let s := { s with cur := i }
      let x := p.data.toNat % 2 ^ (8 * p.width)
      let ys := leBytes p.width x
      let check : M Unit := do
        let lines := (← getS).lineKeys p.loc
        homeCheck true (p.op.map fun o => ropCode o p.width) p.va.toNat lines
      match check s with
      | .ok (_, t) =>
        match packedCheck p.loc p.va.toNat t, t.applyRuns p.leaf p.loc [(0, postedOp p.op, ys)] with
        | .error (.trap .ecc _, _), _ => s.fatal s.curCtx 21 i.val
        | _, some u =>
          ((u.countLines p.leaf p.va.toNat p.loc p.width).modCore fun c =>
            { c with posted := c.posted.eraseIdx k }).settleInv
        | _, none =>
          (t.writeRuns p.leaf p.loc (some (i, p.iseq)) [(0, postedOp p.op, ys)]).modCore fun c =>
            { c with posted := c.posted.set k { p with held := true } }
      | .error (.trap cause info, _) =>
        -- a store whose fault escalates returns at RESUME, unlike one that the handler's own trap parked (R101)
        let s := s.modCore fun c => { c with
          posted := c.posted.set k { p with parked := some (if c.sr.active then .stop else .trap) } }
        s.raiseLater i none cause info p.iseq
      | .error _ => s

/-- A core's index from the operand of an event. -/
def coreIx (c : Nat) : Fin 128 := ⟨c % 128, Nat.mod_lt c (by decide)⟩

/-- POSTED_STORE_PERFORM (R166). -/
def execPostedStorePerform (c k : Nat) (s : State) : Host.Outcome State Fault Refusal :=
  .next (s.performPosted (coreIx c) k false)

/-- RED_PERFORM (R128). -/
def execRedPerform (c k : Nat) (s : State) : Host.Outcome State Fault Refusal :=
  .next (s.performPosted (coreIx c) k true)

/-! ## The stack (R108, R170, R171) -/

/-- The local address a stack register holds in bits 31:0. -/
def stackAddr (r : DWord) : Nat := bits r.toNat 31 0

/-- The checks of a push of n words; the new SP. -/
def pushCheck (n : Nat) : M Nat := do
  let r := (← getCore).sr
  let sp := stackAddr r.sp
  trapIf (decide (sp % 8 ≠ 0)) .misalign r.sp
  trapIf (decide (sp < stackAddr r.sbase + 8 * n)) .stack (BitVec.ofInt 64 ((sp : Int) - (8 * n : Nat)))
  checkXs (sp - 8 * n) (8 * n)
  scoreS [⟨.xs, sp - 8 * n, sp, true⟩]
  pure (sp - 8 * n)

/-- The checks of a pop of n words; SP. -/
def popCheck (n : Nat) : M Nat := do
  let r := (← getCore).sr
  let sp := stackAddr r.sp
  trapIf (decide (sp % 8 ≠ 0)) .misalign r.sp
  trapIf (decide (stackAddr r.slimit < sp + 8 * n)) .stack (BitVec.ofNat 64 (sp + 8 * n - 1))
  checkXs sp (8 * n)
  scoreS [⟨.xs, sp, sp + 8 * n, false⟩]
  pure sp

/-- SP's address written; its other bits are kept. -/
def setSp (sp : Nat) : M Unit := modCore fun c =>
  { c with sr := { c.sr with sp := (c.sr.sp &&& 0xFFFFFFFF00000000) ||| BitVec.ofNat 64 (sp % 2 ^ 32) } }

/-- The registers Xa to Xb. -/
def regRange (a b : XReg) : List XReg :=
  (List.range (b.toNat + 1 - a.toNat)).map fun k => BitVec.ofNat 5 (a.toNat + k)

/-- `pushm` (R171). -/
def execPushm (a b : XReg) (s : State) : Host.Outcome State Fault Refusal :=
  runS (do
    let rs := regRange a b
    let sp ← pushCheck rs.length
    let c ← getCore
    setSp sp
    writeXs sp (rs.flatMap fun r => leBytes 8 (c.rx r).toNat)
    advance) s

/-- Registers loaded from the words from an address upward. -/
def popInto (rs : List XReg) (sp : Nat) : M Unit :=
  match rs with
  | [] => pure ()
  | r :: rest => do
    let v := leNat (← readXs sp 8)
    setX r (zext v)
    popInto rest (sp + 8)

/-- `popm` (R171). -/
def execPopm (a b : XReg) (s : State) : Host.Outcome State Fault Refusal :=
  runS (do
    let rs := regRange a b
    let sp ← popCheck rs.length
    popInto rs sp
    setSp (sp + 8 * rs.length)
    advance) s

end Sys2Proof.Machine
end

