-- ==== Sys2Proof/Machine/Flow.lean ====
section
/-! DEFINITION. Machine/Flow.lean: branches, jumps, calls and loops (R167 to R175). -/

namespace Sys2Proof.Machine

/-- PC + 16 · off. -/
def bundleAt (pc off : DWord) : DWord := pc + off * 16

/-- A conditional branch (R167). -/
def branch (p : DWord → DWord → Bool) (a b : XReg) (off : Half) (s : State) : Host.Outcome State Fault Refusal :=
  .next (s.modCore fun c =>
    if p (c.rx a) (c.rx b) then c.jump (bundleAt c.pc (off.signExtend 64)) else c.advance)

/-- `beq` (R167). -/
def execBeq (a b : XReg) (off : Half) (s : State) : Host.Outcome State Fault Refusal :=
  branch (fun x y => x == y) a b off s

/-- `bne` (R167). -/
def execBne (a b : XReg) (off : Half) (s : State) : Host.Outcome State Fault Refusal :=
  branch (fun x y => x != y) a b off s

/-- `blt` (R167). -/
def execBlt (a b : XReg) (off : Half) (s : State) : Host.Outcome State Fault Refusal :=
  branch (fun x y => decide (x.toInt < y.toInt)) a b off s

/-- `bge` (R167). -/
def execBge (a b : XReg) (off : Half) (s : State) : Host.Outcome State Fault Refusal :=
  branch (fun x y => decide (y.toInt ≤ x.toInt)) a b off s

/-- `bltu` (R167). -/
def execBltu (a b : XReg) (off : Half) (s : State) : Host.Outcome State Fault Refusal :=
  branch (fun x y => decide (x.toNat < y.toNat)) a b off s

/-- `bgeu` (R167). -/
def execBgeu (a b : XReg) (off : Half) (s : State) : Host.Outcome State Fault Refusal :=
  branch (fun x y => decide (y.toNat ≤ x.toNat)) a b off s

/-- `j` (R168). -/
def execJ (off : BitVec 26) (s : State) : Host.Outcome State Fault Refusal :=
  .next (s.modCore fun c => c.jump (bundleAt c.pc (off.signExtend 64)))

/-- `jal` (R168). -/
def execJal (off : BitVec 26) (s : State) : Host.Outcome State Fault Refusal :=
  .next (s.modCore fun c => (c.wx 31 (c.pc + 16)).jump (bundleAt c.pc (off.signExtend 64)))

/-- `jr` and `jalr`: a jump to a register's address, with a link for `jalr` (R169). -/
def jumpReg (link : Option XReg) (a : XReg) (s : State) : Host.Outcome State Fault Refusal :=
  runS (do
    let t ← getX a
    trapIf (decide (t.toNat % 16 ≠ 0)) .misalign t
    modCore fun c => (match link with
      | some d => c.wx d (c.pc + 16)
      | none => c).jump t) s

/-- `jr` (R169). -/
def execJr (a : XReg) (s : State) : Host.Outcome State Fault Refusal := jumpReg none a s

/-- `jalr` (R169). -/
def execJalr (d a : XReg) (s : State) : Host.Outcome State Fault Refusal := jumpReg (some d) a s

/-- `call` (R170): no loop is left (R175). -/
def execCall (off : BitVec 26) (s : State) : Host.Outcome State Fault Refusal :=
  runS (do
    let sp ← pushCheck 1
    let c ← getCore
    writeXs sp (leBytes 8 (c.pc + 16).toNat)
    setSp sp
    modCore fun c => c.goto (bundleAt c.pc (off.signExtend 64))) s

/-- `ret` (R170). -/
def execRet (s : State) : Host.Outcome State Fault Refusal :=
  runS (do
    let sp ← popCheck 1
    let v := zext (leNat (← readXs sp 8))
    trapIf (decide (v.toNat % 16 ≠ 0)) .misalign v
    setSp (sp + 8)
    modCore fun c => c.goto v) s

/-- An address as a loop register holds it: bits 56:4 (R172). -/
def loopAddr (a : DWord) : DWord := a &&& 0x01FFFFFFFFFFFFF0

/-- The loop registers of loop n set (R173). -/
def SRegs.setLoop (r : SRegs) (l1 : Bool) (first last count : DWord) : SRegs :=
  let first := loopAddr first
  let last := loopAddr last
  if l1 then { r with l1s := first, l1e := last, l1c := count } else { r with l0s := first, l0e := last, l0c := count }

/-- `loop` (R173): the bundle that enters the body makes no loop-back of the loop it sets; the decision of R174 uses the
registers as they stood before it. -/
def execLoop (l1 : Bool) (a : XReg) (off : BitVec 20) (s : State) : Host.Outcome State Fault Refusal :=
  .next (s.modCore fun c =>
    let n := c.rx a
    let last := bundleAt c.pc (off.zeroExtend 64)
    let set := fun (r : SRegs) => (r.setLoop l1 (c.pc + 16) last n).setOn l1 (n != 0)
    if n = 0 then { c.goto (last + 16) with sr := set c.sr }
    else
      let c := c.advance
      { c with sr := set c.sr })

end Sys2Proof.Machine
end

