-- ==== Sys2Proof/Machine/Sys.lean ====
section
/-! DEFINITION. Machine/Sys.lean: the system instructions: special registers, traps, `eret`, fences, `halt` and `end`
(R58, R94 to R97, R119, R177, R299, R438, R439). -/

namespace Sys2Proof.Machine

/-! ## Special registers (R58, R97) -/

/-- TINFO of ILLEGAL and PRIV for an S word (R50). -/
def sInfo (w : Nat) : DWord := BitVec.ofNat 64 w

/-- The value of a special register as at this bundle. -/
def State.special (s : State) (r : SReg) : DWord :=
  let c := s.core
  match r with
  | .pc => c.pc
  | .sp => c.sr.sp
  | .sbase => c.sr.sbase
  | .slimit => c.sr.slimit
  | .tvec => c.sr.tvec
  | .tpc => c.sr.tpc
  | .tcause => c.sr.tcause
  | .tinfo => c.sr.tinfo
  | .tqueue => c.sr.tqueue
  | .tseq => c.sr.tseq
  | .aflags => c.sr.aflags
  | .afmask => c.sr.afmask
  | .loopst => c.sr.loopst
  | .sloopst => c.sr.sloopst
  | .saflags => c.sr.saflags
  | .l0s => c.sr.l0s
  | .l0e => c.sr.l0e
  | .l0c => c.sr.l0c
  | .l1s => c.sr.l1s
  | .l1e => c.sr.l1e
  | .l1c => c.sr.l1c
  | .sl0s => c.sr.sl0s
  | .sl0e => c.sr.sl0e
  | .sl0c => c.sr.sl0c
  | .sl1s => c.sr.sl1s
  | .sl1e => c.sr.sl1e
  | .sl1c => c.sr.sl1c
  | .lidx => BitVec.ofNat 64 s.cur.val
  | .ncore => BitVec.ofNat 64 s.ncore
  | .lix k => c.sr.lix[k.toFin]
  | .tag => c.sr.tag
  | .stage => c.sr.stage
  | .wver => c.sr.wver
  | .wbase => c.sr.wbase
  | .ctxid => s.curCtx.zeroExtend 64
  | .prio => s.context.prio.zeroExtend 64
  | .seed => s.context.seed
  | .slipmax => c.sr.slipmax
  | .lrun => c.sr.lrun

/-- The bits of a register that are not reserved (R2, R37, R88, R108, R172). -/
def regMask : SReg → DWord
  | .tseq => 0xFFFFFFFF
  | .tvec | .l0s | .l0e | .l1s | .l1e | .sl0s | .sl0e | .sl1s | .sl1e => 0x01FFFFFFFFFFFFF0
  | .tcause => 0x80000000000000FF
  | .tqueue => 0x103
  | .aflags | .afmask | .saflags => 0x3F
  | .loopst | .sloopst => 3
  | _ => 0xFFFFFFFFFFFFFFFF

/-- A value clamped between 1 and n. -/
def clampReg (n : Nat) (v : DWord) : DWord := BitVec.ofNat 64 (min (max v.toNat 1) n)

/-- A special register written (R97); a register that `srw` cannot name stays as it is.
Log entry 66: DEDUCED, safe. -/
def SRegs.write (r : SRegs) (q : SReg) (x : DWord) : SRegs :=
  let v := x &&& regMask q
  match q with
  | .sp => { r with sp := v }
  | .sbase => { r with sbase := v }
  | .slimit => { r with slimit := v }
  | .tvec => { r with tvec := v }
  | .tpc => { r with tpc := v }
  | .tcause => { r with tcause := v }
  | .tinfo => { r with tinfo := v }
  | .tqueue => { r with tqueue := v }
  | .tseq => { r with tseq := v }
  | .aflags => { r with aflags := v }
  | .afmask => { r with afmask := v }
  | .loopst => { r with loopst := v }
  | .sloopst => { r with sloopst := v }
  | .saflags => { r with saflags := v }
  | .l0s => { r with l0s := v }
  | .l0e => { r with l0e := v }
  | .l0c => { r with l0c := v }
  | .l1s => { r with l1s := v }
  | .l1e => { r with l1e := v }
  | .l1c => { r with l1c := v }
  | .sl0s => { r with sl0s := v }
  | .sl0e => { r with sl0e := v }
  | .sl0c => { r with sl0c := v }
  | .sl1s => { r with sl1s := v }
  | .sl1e => { r with sl1e := v }
  | .sl1c => { r with sl1c := v }
  | .slipmax => { r with slipmax := clampReg 32 v }
  | .lrun => { r with lrun := clampReg 64 v }
  | .pc | .lidx | .ncore | .lix _ | .tag | .stage | .wver | .wbase | .ctxid | .prio | .seed => r

/-- `srr` (R97). -/
def execSrr (d : XReg) (r : SReg) (s : State) : Host.Outcome State Fault Refusal :=
  .next (s.modCore fun c => (c.wx d (s.special r)).advance)

/-- `srw` (R58, R97): the loop-back decision of its own bundle uses the old values. -/
def execSrw (r : SReg) (a : XReg) (s : State) : Host.Outcome State Fault Refusal :=
  runS (do
    if r.isPriv then do
      let x ← getCtx
      trapIf (!x.priv) .priv (sInfo (a.toNat * 65536 + r.code.toNat * 16 + 8))
    else pure ()
    let v ← getX a
    advance
    modCore fun c => { c with sr := c.sr.write r v }) s

/-! ## Traps by instruction (R95, R177, R438, R439) -/

/-- `trap` (R95). -/
def execTrap (code : BitVec 7) (s : State) : Host.Outcome State Fault Refusal :=
  runS (trapM .software (code.zeroExtend 64)) s

/-- `brk` (R95): an armed core stops at the bundle. -/
def execBrk (code : BitVec 7) (s : State) : Host.Outcome State Fault Refusal :=
  runS (do
    let c ← getCore
    if c.dbgArm then do
      modS fun s => s.askStop s.cur 2
      modCore fun c => { c with issue := .notDone }
    else trapM .brk (code.zeroExtend 64)) s

/-- No command of an engine is in its queue; parked commands do not count. -/
def waitQueue (e : Eng) : M Unit := do waitIf (!((← getCore).queue e).isEmpty) .engine

/-- `halt` (R177): an armed core stops behind the bundle. The executed commands of a transaction group whose `ctxe` is not
in the queue hold it no longer.
Log entry 121: DESIGN CHOICE, unsafe. -/
def execHalt (s : State) : Host.Outcome State Fault Refusal :=
  runS (do
    waitQueue .v
    waitQueue .m
    waitQueue .c
    let c ← getCore
    if c.dbgArm then do
      modCore fun c => c.goto (c.pc + 16)
      modS fun s => s.askStop s.cur 3
    else trapM .brk 0) s

/-! ## eret (R94, R101, R166, R299) -/

/-- The parked commands of a queue. -/
def Core.parkedOf (c : Core) (e : Eng) : List Cmd := (c.parked.filter fun p => p.eng = e).map (·.cmd)

/-- TQUEUE.SKIP: the command, or the posted store, named by QUEUE and TSEQ is discarded (R94). -/
def Core.skipParked (c : Core) : Core :=
  if c.sr.tqueue.getLsbD 8 then
    let q := c.sr.tqueue.toNat % 4
    let named := fun (w : Word) => w.zeroExtend 64 == c.sr.tseq
    if q = 0 then
      match c.posted.findIdx? fun p => p.parked.isSome && named p.iseq with
      | some k => { c with posted := c.posted.eraseIdx k }
      | none => c
    else
      match c.parked.findIdx? fun p => queueCode (some p.eng) == q && named p.cmd.iseq with
      | some k => { c with parked := c.parked.eraseIdx k }
      | none => c
  else c

/-- Parked commands that a condition holds of go back to the heads of their queues, parked stores on their way. -/
def Core.unpark (c : Core) (p : ParkedBy → Bool) : Core :=
  let back := fun e => (c.parked.filter fun x => x.eng = e ∧ p x.by_).map (·.cmd)
  { c with
    vq := back .v ++ c.vq
    mq := back .m ++ c.mq
    cq := back .c ++ c.cq
    parked := c.parked.filter fun x => !p x.by_
    posted := c.posted.map fun x => match x.parked with
      | some b => if p b then { x with parked := none } else x
      | none => x }

/-- What a trap saved, restored (R94). -/
def SRegs.restore (r : SRegs) : SRegs :=
  { r with
    loopst := r.sloopst, l0s := r.sl0s, l0e := r.sl0e, l0c := r.sl0c, l1s := r.sl1s, l1e := r.sl1e, l1c := r.sl1c
    aflags := r.saflags
    tcause := r.tcause &&& 0x7FFFFFFFFFFFFFFF }

/-- An address as the PC holds it: bits 3:0 are zero (R47). -/
def pcOf (a : DWord) : DWord := a &&& 0xFFFFFFFFFFFFFFF0

/-- The return of `eret`. -/
def Core.eret (c : Core) : Core :=
  let c := c.skipParked.unpark fun _ => true
  { c.goto (pcOf c.sr.tpc) with
    sr := c.sr.restore
    seq := if c.drainAt = some (pcOf c.sr.tpc) then .draining (pcOf c.sr.tpc) else .fetching
    drainAt := none }

/-- `eret` (R94): outside a handler it is ILLEGAL.
Log entry 22: DEDUCED, unsafe. -/
def execEret (s : State) : Host.Outcome State Fault Refusal :=
  runS (do
    trapIf (!(← getCore).sr.active) .illegal (sInfo 4)
    waitQueue .v
    waitQueue .m
    waitQueue .c
    modCore Core.eret) s

/-! ## Fences (R96, R119) -/

/-- `tfence` (R96). -/
def execTfence (s : State) : Host.Outcome State Fault Refusal :=
  runS (do
    waitQueue .v
    waitQueue .m
    let a := (← getCore).sr.arith
    trapIf (a != 0) .arith a
    advance) s

/-- `qfence` (R119). -/
def execQfence (mask : BitVec 3) (s : State) : Host.Outcome State Fault Refusal :=
  runS (do
    waitIf (!(← getCore).inFlight.isEmpty) .engine
    if mask.getLsbD 0 then waitQueue .v else pure ()
    if mask.getLsbD 1 then waitQueue .m else pure ()
    if mask.getLsbD 2 then do
      waitQueue .c
      waitIf (← getCore).tx.isSome .engine
    else pure ()
    advance) s

/-! ## end (R145, R260, R299) -/

/-- The C words that an `end` counts: those of the commands enqueued that are still to run, with whether each has read its
guard before (a restarted one runs again without it), and that of its own bundle (R260, R262). -/
def State.endWords (s : State) : List (Instr × Bool) :=
  ((s.core.cq.filter fun x => x.phase ≠ .executed).map fun x => (x.instr, x.consumed)) ++
    (s.words.filter fun w => w.1 = .c).map fun w => (w.2, false)

/-- The commands and words whose guards an `end` looks at, those parked among them, and whether each has still to read
its guard (R145). -/
def State.guardedWords (s : State) : List (Instr × Bool) :=
  (s.core.uncompleted.map fun x => (x.instr, x.phase == .waiting && !x.consumed)) ++ s.words.map fun w => (w.2, true)

/-- The lowest slot guarding a command whose pair is OPEN with no `vgset` in flight (R145). -/
def State.strandedGuard (s : State) : Option Nat :=
  let ws := s.guardedWords
  (List.range 16).find? fun n =>
    (s.core.pair (BitVec.ofNat 4 n)).isOpen && !(ws.any fun w => gsetPair w.1 == some (n / 2)) &&
      ws.any fun w => w.2 && (instrGuard w.1).map BitVec.toNat == some n

/-- A transaction group is open once every command enqueued has run (R260). -/
def State.groupOpenAtEnd (s : State) : Bool :=
  let c := s.core
  s.endWords.foldl (fun o w =>
    let runs := w.2 || match instrGuard w.1 with
      | some g => (c.pair g).isOpen || c.guardVal g
      | none => true
    match w.1 with
    | .ctxb _ => o || runs
    | .ctxe _ => o && !runs
    | _ => o) c.tx.isSome

/-- `end` (R299). -/
def execEndJob (s : State) : Host.Outcome State Fault Refusal :=
  runS (do
    let s ← getS
    match s.strandedGuard with
    | some n => trapM .guard (BitVec.ofNat 64 n)
    | none => pure ()
    trapIf s.groupOpenAtEnd .queue 17
    modCore fun c => { c.goto c.pc with seq := .draining c.pc }) s

end Sys2Proof.Machine
end

