-- ==== Sys2Proof/Machine/Queue.lean ====
section
/-! DEFINITION. Machine/Queue.lean: the S-slot words on queue registers, guards and flags, and the events that take and
end engine commands (R139, R142, R143, R146 to R149, R152). -/

namespace Sys2Proof.Machine

/-- `qput` (R139). -/
def execQput (n : BitVec 4) (a : XReg) (s : State) : Host.Outcome State Fault Refusal :=
  runS (do
    needRoom n.toNat
    let v ← getX a
    modCore fun c => c.setQreg n.toNat (c.qreg n.toNat ++ [v])
    advance) s

/-- `qget` (R139). -/
def execQget (d : XReg) (n : BitVec 4) (s : State) : Host.Outcome State Fault Refusal :=
  runS (do
    match (← getCore).qreg n.toNat with
    | [] => stop (.flag (48 + n.toNat))
    | v :: rest =>
      modCore fun c => c.setQreg n.toNat rest
      setX d v
      advance) s

/-- `gopen` (R142): it waits until the pair has no references. -/
def execGopen (n : Guard) (s : State) : Host.Outcome State Fault Refusal :=
  runS (do
    waitIf ((← getCore).hasRefs (n.toNat / 2)) (.flag (32 + n.toNat))
    modCore fun c => c.openPair n
    advance) s

/-- `gset` (R143): it waits for every earlier `vgset` of the pair to be consumed. -/
def execGset (n : Guard) (a : XReg) (s : State) : Host.Outcome State Fault Refusal :=
  runS (do
    let c ← getCore
    waitIf ((c.vq ++ c.parked.map (·.cmd)).any fun x => x.phase == .waiting && x.resolves (n.toNat / 2))
      (.flag (32 + n.toNat))
    trapIf (!(c.pair n).isOpen) .guard (n.zeroExtend 64)
    let v ← getX a
    modCore fun c => c.resolve n (v != 0)
    advance) s

/-- The amount of a `sig` or `wait`: 1 for x0, else bits 7:0 of the register (R148). -/
def flagAmount (b : XReg) : M Byte := do
  if b = 0 then pure 1 else pure (BitVec.ofNat 8 (← getX b).toNat)

/-- `sig` on a flag of the job itself (R148): no release. -/
def execSig (f : BitVec 5) (b : XReg) (s : State) : Host.Outcome State Fault Refusal :=
  runS (do
    let n ← flagAmount b
    modCore fun c => c.addFlag f n
    advance) s

/-- `sig` on a flag of another job (R147, R148), a release unless `.nf` (R117, R119). -/
def remoteSig (nf : Bool) (f : BitVec 5) (a b : XReg) (s : State) : Host.Outcome State Fault Refusal :=
  runS (do
    let n ← flagAmount b
    let t ← checkTarget (← getX a) f
    if nf then pure () else releaseS
    signalOrder t f fun _ => true
    sendSignal t f n
    advance) s

/-- `sig` on a flag of another job (R148). -/
def execSigRemote (f : BitVec 5) (a b : XReg) (s : State) : Host.Outcome State Fault Refusal := remoteSig false f a b s

/-- `sig.nf` (R119, R148). -/
def execSigNf (f : BitVec 5) (a b : XReg) (s : State) : Host.Outcome State Fault Refusal := remoteSig true f a b s

/-- `wait` (R149). -/
def execWait (f : BitVec 5) (b : XReg) (s : State) : Host.Outcome State Fault Refusal :=
  runS (do
    let n ← flagAmount b
    waitIf (decide (((← getCore).flag f).toNat < n.toNat)) (.flag f.toNat)
    modCore fun c => c.takeFlag f n
    advance) s

/-- COMMAND_COMPLETE (R39). -/
def execCommandComplete (c : Nat) (e : Eng) (s : State) : Host.Outcome State Fault Refusal :=
  .next (s.commandComplete (coreIx c) e)

/-- DISCARD (R141). -/
def execDiscard (c : Nat) (e : Eng) (s : State) : Host.Outcome State Fault Refusal := .next (s.discard (coreIx c) e)

/-- SIGNAL_ARRIVAL (R146, R147). -/
def execSignalArrival (k : Nat) (s : State) : Host.Outcome State Fault Refusal := .next (s.signalArrival k)

/-! ## Traps and relocation -/

/-- TRAP_ENTRY (R91, R92): the fault waiting at a core is taken once its cut can be completed. -/
def execTrapEntry (c : Nat) (s : State) : Host.Outcome State Fault Refusal :=
  let i := coreIx c
  match (s.coreAt i).pendingTrap with
  | none => .next s
  | some (q, cause, info, iseq) =>
    if s.canCut i then .next (s.trapEntry i cause info (queueCode q) iseq) else .next s

/-- ECC_UNCORRECTABLE (R19, R87): fatal for the context that owns the state; bits 14:8 of its status name the core, or
0x7F.
Log entry 23: DESIGN CHOICE, unsafe. -/
def execEccUncorrectable (ctx : CtxId) (lidx : BitVec 7) (s : State) : Host.Outcome State Fault Refusal :=
  .next (s.fatal ctx 21 lidx.toNat)

/-- The instruction is marked `.rl`; `mode`, `bset` and queue forms have no such bit. -/
def isRl : Instr → Bool
  | .vaddF32 r _ _ _ _ | .vsubF32 r _ _ _ _ | .vmulF32 r _ _ _ _ | .vmaxF32 r _ _ _ _ | .vminF32 r _ _ _ _
  | .vabsF32 r _ _ _ | .vnegF32 r _ _ _ | .vaddBf16 r _ _ _ _ | .vsubBf16 r _ _ _ _ | .vmulBf16 r _ _ _ _
  | .vmaxBf16 r _ _ _ _ | .vminBf16 r _ _ _ _ | .vabsBf16 r _ _ _ | .vnegBf16 r _ _ _ | .vaddF16 r _ _ _ _
  | .vsubF16 r _ _ _ _ | .vmulF16 r _ _ _ _ | .vmaxF16 r _ _ _ _ | .vminF16 r _ _ _ _ | .vabsF16 r _ _ _
  | .vnegF16 r _ _ _ | .vfmaF32 r _ _ _ _ | .vfmsF32 r _ _ _ _ | .vfnmaF32 r _ _ _ _ | .vfnmsF32 r _ _ _ _
  | .vfmaBf16 r _ _ _ _ | .vfmsBf16 r _ _ _ _ | .vfnmaBf16 r _ _ _ _ | .vfnmsBf16 r _ _ _ _ | .vfmaF16 r _ _ _ _
  | .vfmsF16 r _ _ _ _ | .vfnmaF16 r _ _ _ _ | .vfnmsF16 r _ _ _ _ | .vaddI32 r _ _ _ _ | .vsubI32 r _ _ _ _
  | .vmulI32 r _ _ _ _ | .vmulhI32 r _ _ _ _ | .vminI32 r _ _ _ _ | .vmaxI32 r _ _ _ _ | .vminuI32 r _ _ _ _
  | .vmaxuI32 r _ _ _ _ | .vaddsI32 r _ _ _ _ | .vsubsI32 r _ _ _ _ | .vabsI32 r _ _ _ | .vnegI32 r _ _ _
  | .vaddI16 r _ _ _ _ | .vsubI16 r _ _ _ _ | .vmulI16 r _ _ _ _ | .vmulhI16 r _ _ _ _ | .vminI16 r _ _ _ _
  | .vmaxI16 r _ _ _ _ | .vminuI16 r _ _ _ _ | .vmaxuI16 r _ _ _ _ | .vaddsI16 r _ _ _ _ | .vsubsI16 r _ _ _ _
  | .vabsI16 r _ _ _ | .vnegI16 r _ _ _ | .vand r _ _ _ _ | .vor r _ _ _ _ | .vxor r _ _ _ _ | .vandn r _ _ _ _
  | .vnot r _ _ _ | .vshl r _ _ _ _ | .vshr r _ _ _ _ | .vsra r _ _ _ _ | .vceqF32 r _ _ _ _ | .vcneF32 r _ _ _ _
  | .vcltF32 r _ _ _ _ | .vcleF32 r _ _ _ _ | .vceqI32 r _ _ _ _ | .vcneI32 r _ _ _ _ | .vcltI32 r _ _ _ _
  | .vcleI32 r _ _ _ _ | .vcltUi32 r _ _ _ _ | .vcleUi32 r _ _ _ _ | .vsel r _ _ _ _ | .vcvtBf16F32 r _ _ _ _ _
  | .vcvtF16F32 r _ _ _ _ _ | .vcvtF32Bf16 r _ _ _ _ _ | .vcvtF32F16 r _ _ _ _ _ | .vcvtI32F32 r _ _ _ _ _
  | .vcvtF32I32 r _ _ _ _ _ | .vcvtUi32F32 r _ _ _ _ _ | .vcvtF32Ui32 r _ _ _ _ _ | .vcvtE4F32 r _ _ _ _ _
  | .vcvtE5F32 r _ _ _ _ _ | .vcvtF32E4 r _ _ _ _ _ | .vcvtF32E5 r _ _ _ _ _ | .vcvtF4F32 r _ _ _ _ _
  | .vcvtF32F4 r _ _ _ _ _ | .vcvtI8I32 r _ _ _ _ _ | .vcvtI16I32 r _ _ _ _ _ | .vperm r _ _ _ _
  | .vbcast r _ _ _ _ | .vext r _ _ _ _ | .vins r _ _ _ _ | .vld r _ _ _ _ | .vldW r _ _ _ _ | .vst r _ _ _ _
  | .vstW r _ _ _ _ | .vlds r _ _ _ _ | .vsts r _ _ _ _ | .vgath r _ _ _ _ | .vscat r _ _ _ _ | .ccopy r _ _ _ _
  | .cplane r _ _ _ _ | .cconv r _ _ _ _ _ | .cgath r _ _ _ _ _ | .cscat r _ _ _ _ _ | .cfill r _ _ _ _
  | .cdrain r _ _ _ _ _ _ => r
  | _ => false

/-- The command reads LRL or names it as its destination (R152). -/
def usesLrl (i : Instr) : Bool := (vecSrcs i).contains .lrl || vecDst i == some .lrl

/-- The command after the one the owner's engine is executing, and how many commands of the queue it passes over: one
that stands part-way (R152). -/
def Core.nextOffer (c : Core) (e : Eng) : Option (Nat × Cmd) :=
  let q := c.queue e
  let k := c.nextIx e
  match q[k]? with
  | none => none
  | some x =>
    if x.phase = .stopped then (q[k + 1]?).map fun y => (1, y)
    else if 0 < k then some (0, x)
    else none

/-- The taken command of an engine. -/
def Core.setTaken (c : Core) (e : Eng) (x : Option (Fin 128 × Word)) : Core :=
  match e with
  | .v => { c with takenV := x }
  | .m => c
  | .c => { c with takenC := x }

/-- The owner of the command that an engine of a core has taken (R152). -/
def State.ownerOf (s : State) (i : Fin 128) (e : Eng) : Option (Fin 128 × Word) :=
  (List.finRange 128).findSome? fun o => match (s.coreAt o).taken e with
    | some (k, n) => if k = i then some (o, n) else none
    | none => none

/-- A command that writes global memory finds a free range-table entry (R114). -/
def Core.entryFree (c : Core) (x : Cmd) : Bool := decide (c.rangeEntries < 16) || !writesGlobal c x

/-- The owner offers its next command: it is marked `.rl`, its guard is true, R113 and R114 let it start, nothing stops its
owner, it does not touch LRL, no transaction group is open, none is taken already and this one never was, and it shares no
register of the vector engine with an earlier command that has not completed, one of which writes it (R152, R153, R183,
R259, R439).
Log entry 90: DEDUCED, safe. -/
def State.offers (s : State) (o : Fin 128) (e : Eng) : Bool :=
  let c := s.coreAt o
  match c.nextOffer e with
  | some (_, y) =>
    s.enabled o && (c.taken e).isNone && y.phase == .waiting && !y.relocated && s.mayExecute o e y && isRl y.instr &&
      !usesLrl y.instr && c.tx.isNone && c.entryFree y &&
      !(c.vq.any fun h => decide (h.iseq.toNat < y.iseq.toNat) && conflicts (vecRegs c y) (vecRegs c h)) &&
      (match instrGuard y.instr with
        | some g => !(c.pair g).isOpen && c.guardVal g
        | none => false) &&
      (match startCmd e y { s with cur := o } with
        | .ok _ => true
        | .error _ => false)
  | none => false

/-- The core makes no debug stop (R439). -/
def DebugStop.goes : DebugStop → Bool
  | .running | .stepping => true
  | .stopping _ | .stopped _ => false

/-- A sibling's engine is idle: the core is enabled and makes no debug stop, its queue is empty and it executes no taken
command. -/
def State.idleEngine (s : State) (i : Fin 128) (e : Eng) : Bool :=
  s.enabled i && DebugStop.goes (s.coreAt i).debug && ((s.coreAt i).queue e).isEmpty &&
    s.cores.toList.all fun c => (c.taken e).map (·.1) != some i

/-- The enabled cores of a core's cluster, in cluster-position order (R11). -/
def State.siblings (s : State) (o : Fin 128) : List (Fin 128) :=
  (List.finRange 128).filter fun i => s.enabled i && s.clusterOf i.val == s.clusterOf o.val

/-- The priority of the context of a core's job. -/
def State.prioOf (s : State) (i : Fin 128) : Nat :=
  match (s.coreAt i).job with
  | some j => (s.ctxOf j.ctx).prio.toNat
  | none => 0

/-- The owner whose offer is granted: of the cluster's offers, the one of the highest context priority, then of the
lowest position (R152). -/
def State.granteeOf (s : State) (o : Fin 128) (e : Eng) : Option (Fin 128) :=
  let os := (s.siblings o).filter fun k => s.offers k e
  let top := os.foldl (fun m k => max m (s.prioOf k)) 0
  os.find? fun k => s.prioOf k = top

/-- The sibling it goes to: the lowest-positioned idle one (R152). -/
def State.takerOf (s : State) (o : Fin 128) (e : Eng) : Option (Fin 128) :=
  (s.siblings o).find? fun k => k ≠ o ∧ s.idleEngine k e

/-- The offered command is the sibling's to execute, and is offered no more (R153). -/
def Core.giveOffer (c : Core) (e : Eng) (i : Fin 128) : Core :=
  match c.nextOffer e with
  | none => c
  | some (_, y) =>
    (c.setQueue e ((c.queue e).map fun x => if x.iseq = y.iseq then { x with relocated := true } else x)).setTaken e
      (some (i, y.iseq))

/-- RELOCATION_TAKE (R152, R153): the lowest-positioned idle sibling in the cluster takes the command of the offer that
is granted; it executes as the owner's command. -/
def execRelocationTake (owner : Nat) (e : Eng) (sib : Nat) (s : State) : Host.Outcome State Fault Refusal :=
  let o := coreIx owner
  let i := coreIx sib
  if e ≠ .m ∧ s.granteeOf o e = some o ∧ s.takerOf o e = some i then
    let s := s.perfAt i 7 1
    .next (s.setCoreAt o ((s.coreAt o).giveOffer e i))
  else .next s

/-! ## The issue of a bundle (R48, R88, R133, R134, R226) -/

/-- The cursor of a record advanced (R226). -/
def nextCursor (r : BitVec 512) : BitVec 512 :=
  let c2 := lyC2 r + 1
  let (c2, c3) := if c2 < lyExt r 2 then (c2, lyC3 r) else (0, if lyC3 r + 1 < lyExt r 3 then lyC3 r + 1 else 0)
  r.extractLsb' 192 320 ++ BitVec.ofNat 16 c3 ++ BitVec.ofNat 16 c2 ++ r.extractLsb' 0 160

/-- The record that an `mma` steps. -/
def stepsRecord : Instr → Option (BitVec 3)
  | .mma _ (.ly n) _ _ _ _ _ _ _ => some n
  | _ => none

/-- The record LYn steps its cursor if it asks for it (R226). -/
def Core.stepCursor (c : Core) (n : BitVec 3) : Core :=
  let r := c.ly[n.toFin]
  if lyStep r then { c with ly := c.ly.set n.toFin (nextCursor r) } else c

/-- An engine word snapshotted and enqueued (R48, R133, R134, R226). -/
def Core.enqueue (iseq : Word) (c : Core) (w : Eng × Instr) : Core :=
  let c := c.setQueue w.1 (c.queue w.1 ++ [c.newCmd w.2 iseq])
  match stepsRecord w.2 with
  | some n => c.stepCursor n
  | none => c

/-- The bundle has issued: its engine words are enqueued, the issue sequence counts it, and a STEP ends with it (R48,
R88, R441). -/
def State.issued (s : State) (ws : List (Eng × Instr)) (iseq : Word) : State :=
  let s := (s.perfCount 0 1).modCore fun c => { ws.foldl (Core.enqueue iseq) c with iseq := iseq + 1 }
  s.endStep s.cur iseq

end Sys2Proof.Machine
end

