-- ==== Sys2Proof/Machine/Barrier.lean ====
section
/-! DEFINITION. Machine/Barrier.lean: the event vector as one act, barriers at their homes and the S-slot words on them
(R125, R289, R301 to R310). -/

namespace Sys2Proof.Machine

/-! ## The event vector (R289) -/

/-- A PENDING record whose wait mask is met becomes READY and takes the next ready count. -/
def readyPool (id : CtxId) (ev : BitVec 256) : Nat → List PoolRec → Nat × List PoolRec
  | n, [] => (n, [])
  | n, r :: rs =>
    if r.ctx = id ∧ r.ready.isNone ∧ ev &&& r.record.wait = r.record.wait then
      let (m, ts) := readyPool id ev (n + 1) rs
      (m, { r with ready := some n } :: ts)
    else
      let (m, ts) := readyPool id ev n rs
      (m, r :: ts)

/-- The PENDING records of a context are tested against its event vector. -/
def State.testPool (s : State) (id : CtxId) : State :=
  let (n, p) := readyPool id (s.ctxOf id).ev s.readyCount s.pool
  { s with pool := p, readyCount := n }

/-- The event vector changes by one act. -/
def State.putEvents (s : State) (id : CtxId) (ev : BitVec 256) : State :=
  (s.modCtx id fun x => { x with ev := ev }).testPool id

/-- Event bits are set. -/
def State.setEvents (s : State) (id : CtxId) (m : BitVec 256) : State := s.putEvents id ((s.ctxOf id).ev ||| m)

/-! ## Barriers in storage (R301 to R303) -/

/-- A barrier's fields. -/
structure Barrier where
  action : Word
  waiters : Nat
  phase : Nat
  outb : Int
  inb : Int
  state : Nat
  pending : Nat
  expect : Nat
  gen : Nat
deriving DecidableEq, Repr

/-- The home of a handle. -/
def handleHome (h : BitVec 24) : Fin 128 := (h.extractLsb' 17 7).toFin

/-- The XS address of a handle. -/
def handleAddr (h : BitVec 24) : Nat := h.toNat % 2 ^ 17 * 16

/-- A barrier read from its storage. -/
def readBarrier (m : Mem) (a : Nat) : Barrier :=
  let b := readLE m a 16
  { action := BitVec.ofNat 32 (bits b 127 96), waiters := bits b 95 88, phase := bits b 87 80
    outb := signed 24 (bits b 79 56), inb := signed 24 (bits b 55 32), state := bits b 31 28
    pending := bits b 27 16, expect := bits b 15 4, gen := bits b 3 0 }

/-- A barrier as the bytes of its storage. -/
def Barrier.toNat (b : Barrier) : Nat :=
  b.gen % 16 + b.expect % 4096 * 2 ^ 4 + b.pending % 4096 * 2 ^ 16 + b.state % 16 * 2 ^ 28 +
    wrapI 24 b.inb * 2 ^ 32 + wrapI 24 b.outb * 2 ^ 56 + b.phase % 256 * 2 ^ 80 + b.waiters % 256 * 2 ^ 88 +
    b.action.toNat * 2 ^ 96

/-- The barrier a handle names. -/
def State.barrier (s : State) (h : BitVec 24) : Barrier := readBarrier (s.coreAt (handleHome h)).xs (handleAddr h)

/-- A barrier written. -/
def State.putBarrier (s : State) (h : BitVec 24) (b : Barrier) : State :=
  let i := handleHome h
  let c := s.coreAt i
  s.setCoreAt i { c with xs := writeLE c.xs (handleAddr h) 16 b.toNat }

/-- The job that a core holds and that has not ended. -/
def State.unended (s : State) (i : Fin 128) : Option Job :=
  match (s.coreAt i).job with
  | some j => if j.ended then none else some j
  | none => none

/-- The address of a handle is that of a declared barrier of a job (R302). -/
def Job.declares (k : Job) (h : BitVec 24) : Bool :=
  let a := handleAddr h
  let base := k.xsb - 16 * k.nbar
  decide (base ≤ a) && decide (a + 16 ≤ k.xsb) && decide ((a - base) % 16 = 0)

/-- A handle names a declared barrier of a job of the group of the executing job, which may use it (R307). -/
def State.handleOk (s : State) (h : BitVec 24) : Bool :=
  match s.core.job, s.unended (handleHome h) with
  | some j, some k =>
    k.slot == j.slot && k.declares h &&
      (handleHome h == s.cur || match s.group j.slot with
        | some g => g.cosched
        | none => false)
  | _, _ => false

/-! ## Operations at the home (R306, R308) -/

/-- The operation is a wait. -/
def BarKind.isWait : BarKind → Bool
  | .wait _ => true
  | _ => false

/-- What an operation comes to. -/
inductive BarResult where
  | done | held | refused
deriving DecidableEq, Repr

/-- The lower and upper end of a count. -/
def countMin : Int := -8388608
/-- The upper end of a count. -/
def countMax : Int := 8388607

/-- An ARMED barrier whose counts are all zero is COMPLETE; its completion follows (R309). -/
def Barrier.test (b : Barrier) : Barrier :=
  if b.state = 1 ∧ b.pending = 0 ∧ b.inb = 0 ∧ b.outb = 0 then { b with state := 2 } else b

/-- A count raised by n; outside its range the barrier is in ERROR. -/
def Barrier.count (b : Barrier) (out : Bool) (n : Int) : Barrier :=
  let v := (if out then b.outb else b.inb) + n
  if v < countMin ∨ countMax < v then { b with state := 3 }
  else (if out then { b with outb := v } else { b with inb := v }).test

/-- One operation on a barrier under the table of R308. -/
def Barrier.apply (b : Barrier) (k : BarKind) : Barrier × BarResult :=
  let d := fun (g : BitVec 4) => (b.gen + 16 - g.toNat) % 16
  let isDec := k = .decIn ∨ k = .decOut
  match b.state with
  | 0 =>
    match k with
    | .init e a =>
      ({ b with expect := e.toNat, pending := e.toNat, action := a, inb := 0, outb := 0, waiters := 0, state := 1 },
        .done)
    | .decIn | .decOut => ({ b with state := 3 }, .done)
    | _ => (b, .refused)
  | 1 =>
    match k with
    | .init _ _ => (b, .refused)
    | .arrive g =>
      if d g = 0 then
        if b.pending = 0 then ({ b with state := 3 }, .refused)
        else ({ b with pending := b.pending - 1 }.test, .done)
      else if d g = 15 then ({ b with waiters := b.waiters + 1 }, .held)
      else (b, .refused)
    | .wait g =>
      if d g = 0 then ({ b with waiters := b.waiters + 1 }, .held)
      else if d g ≤ 8 then (b, .done)
      else (b, .refused)
    | .xin n =>
      let c := b.count false n.toNat
      (c, if c.state = 3 then .refused else .done)
    | .xout n =>
      let c := b.count true n.toNat
      (c, if c.state = 3 then .refused else .done)
    | .decIn => (b.count false (-1), .done)
    | .decOut => (b.count true (-1), .done)
  | 2 =>
    match k with
    | .arrive _ | .wait _ => ({ b with waiters := b.waiters + 1 }, .held)
    | _ => (b, .held)
  | _ => (b, if isDec then .done else .refused)

/-- The S word of a core that waits at a home is done: its bundle issues (R48, R310). -/
def State.finishS (s : State) (i : Fin 128) : State :=
  match (s.coreAt i).barWait with
  | .pending ws =>
    let t := State.modCore { s with cur := i } Core.advance
    { t.issued ws t.core.iseq with cur := s.cur }
  | _ => s

/-- The answer to the core whose S word waits at a home: none when it is done, else why it faults.
Log entry 81: DEDUCED, safe. -/
def State.answer (s : State) (o : BarOp) (refusal : Option BarWait) : State :=
  match o.kind with
  | .decIn | .decOut => s
  | _ => match refusal with
    | none => s.finishS o.core
    | some w => s.setCoreAt o.core { s.coreAt o.core with barWait := w }

/-- The operations held for a barrier at its home. -/
def State.heldFor (s : State) (h : BitVec 24) : List BarOp :=
  (s.coreAt (handleHome h)).barHeld.filter fun o => o.handle = h

/-- A barrier that has entered ERROR: every blocked wait and held operation on it faults (R308). -/
def State.barError (s : State) (h : BitVec 24) : State :=
  let held := s.heldFor h
  let i := handleHome h
  let s := s.setCoreAt i { s.coreAt i with barHeld := (s.coreAt i).barHeld.filter fun o => o.handle ≠ h }
  let s := s.putBarrier h { s.barrier h with waiters := 0 }
  held.foldl (fun s o => s.answer o (some .faulted)) s

/-- An operation reaches its home and is performed, held or refused.
Log entry 71: DESIGN CHOICE, safe. -/
def State.barOp (s : State) (o : BarOp) : State × BarResult :=
  let b := s.barrier o.handle
  let (b', r) := b.apply o.kind
  let s := s.putBarrier o.handle b'
  let i := handleHome o.handle
  let o := { o with blocked := b.state == 1 && o.kind.isWait }
  let s := if r = .held then s.setCoreAt i { s.coreAt i with barHeld := (s.coreAt i).barHeld ++ [o] } else s
  (if b'.state = 3 ∧ b.state ≠ 3 then s.barError o.handle else s, r)

/-- A held operation applied after the completion, with the answer to its core. -/
def State.reapply (s : State) (o : BarOp) : State :=
  let (s, r) := s.barOp o
  match r with
  | .done => s.answer o none
  | .held => s
  | .refused => s.answer o (some .faulted)

/-- The tags of the lines of SLICED and REDUCE outputs of a group become none (R125). -/
def State.resetTags (s : State) (id : CtxId) (slot : Nat) : State :=
  let again := fun (o : LiveOut) =>
    if o.slot = slot ∧ (o.kind = .sliced ∨ o.kind = .reduce) then { o with reg := s.fresh } else o
  State.modCtx { s with fresh := s.fresh + 1 } id fun x => { x with outs := x.outs.map fun e => (e.1, e.2.map again) }

/-- The barrier is the phase barrier of its own group, as the group's live outputs name it (R120, R288). -/
def State.isPhase (s : State) (h : BitVec 24) : Bool :=
  match s.unended (handleHome h) with
  | some j => (s.ctxOf j.ctx).liveOuts.any fun o => decide (o.slot = j.slot) && o.phbar == some h
  | none => false

/-- The completion action (R304, R309). -/
def State.barAction (s : State) (h : BitVec 24) (a : Word) : State :=
  let i := handleHome h
  match (s.coreAt i).job with
  | none => s
  | some j =>
    let t := a.toNat % 256
    match bits a.toNat 31 30 with
    | 1 => s.setEvents j.ctx (1#256 <<< t)
    | 2 => { s with signals := s.signals ++ [⟨⟨t % 128, Nat.mod_lt t (by decide)⟩, j.slot,
        BitVec.ofNat 5 (bits a.toNat 12 8), 1, i⟩] }
    | _ => s

/-- BARRIER_COMPLETION (R309): generation and phase advance, the blocked waits complete, the action runs, held operations
are applied in arrival order, a wait that came after the barrier was COMPLETE among them. -/
def State.barComplete (s : State) (h : BitVec 24) : State :=
  let b := s.barrier h
  match s.unended (handleHome h) with
  | none => s
  | some j =>
    if b.state ≠ 2 ∨ !j.declares h ∨ s.frozenAt (handleHome h) then s
    else
      let s := if s.isPhase h ∧ (b.phase + 1) % 128 = 0 then s.resetTags j.ctx j.slot else s
      let gen := (b.gen + 1) % 16
      let s := s.putBarrier h
        { b with gen := gen, phase := (b.phase + 1) % 256, pending := b.expect, state := 1, waiters := 0 }
      let held := s.heldFor h
      let i := handleHome h
      let s := s.setCoreAt i { s.coreAt i with barHeld := (s.coreAt i).barHeld.filter fun o => o.handle ≠ h }
      let s := (held.filter BarOp.blocked).foldl (fun s o => s.answer o none) s
      let s := s.barAction h b.action
      (held.filter fun o => !o.blocked).foldl State.reapply s

/-- BARRIER_COMPLETION (R309). -/
def execBarrierCompletion (h : BitVec 24) (s : State) : Host.Outcome State Fault Refusal := .next (s.barComplete h)

/-- TRANSFER_DECREMENT (R258, R306): a copy's decrement is applied at the home, after those that its core sent before;
a barrier whose job has ended is gone. -/
def State.transferDecrement (s : State) (k : Nat) : State :=
  match s.decrements[k]? with
  | none => s
  | some d =>
    if ((s.decrements.take k).any fun e => e.core = d.core) || s.frozenAt (handleHome d.handle) then s
    else
      let s := { s with decrements := s.decrements.eraseIdx k }
      match s.unended (handleHome d.handle) with
      | some j =>
        if j.slot = d.slot then (s.barOp ⟨d.core, d.handle, if d.outbound then .decOut else .decIn, false⟩).1 else s
      | none => s

/-- TRANSFER_DECREMENT (R258). -/
def execTransferDecrement (k : Nat) (s : State) : Host.Outcome State Fault Refusal := .next (s.transferDecrement k)

/-! ## The instructions (R307, R310) -/

/-- The handle of an S-slot barrier word, validated. -/
def checkHandle (v : DWord) : M (BitVec 24) := do
  let h := BitVec.ofNat 24 v.toNat
  trapIf (decide (v.toNat / 2 ^ 24 ≠ 0) || !(← getS).handleOk h) .handle v
  pure h

/-- The S word waits at the home. -/
def blockAtBarrier : M Unit :=
  modS fun s => s.modCore fun c => { c with barWait := .pending s.words, head := .waitFlag 64, issue := .notDone }

/-- An operation of the executing core arrives at a home after the decrements it has sent there before (R306). -/
def behindDecrements (h : BitVec 24) : M Unit := do
  let s ← getS
  waitIf (s.decrements.any fun d => d.core == s.cur && handleHome d.handle == handleHome h) .engine

/-- An S-slot barrier word: its operation is sent once and its answer awaited (R306). -/
def barWord (a : XReg) (before : M Unit) (kind : BitVec 24 → M (Option BarKind)) (s : State) :
    Host.Outcome State Fault Refusal :=
  runS (do
    let v ← getX a
    match (← getCore).barWait with
    | .pending _ => stop (.flag 64)
    | .faulted => trapM .barrier v
    | .gone => trapM .handle v
    | .idle =>
      let h ← checkHandle v
      match ← kind h with
      | none => advance
      | some k =>
        before
        behindDecrements h
        let s ← getS
        let (t, r) := s.barOp ⟨s.cur, h, k, false⟩
        match r with
        | .done => modS fun _ => t; advance
        | .held => modS fun _ => t; blockAtBarrier
        | .refused =>
          -- an arrival or count that puts the barrier in ERROR stays performed at the home while it faults here
          modS fun _ => (t.stopS (.trap .barrier v))) s

/-- ACTION keeps R304 for a barrier of the group. -/
def actionOk (g : Group) (a : Nat) : Bool :=
  let t := a % 256
  let flag := bits a 12 8
  decide (bits a 29 13 = 0) &&
    match bits a 31 30 with
    | 0 => t == 0 && flag == 0
    | 1 => flag == 0 && g.src.record.set.getLsbD t
    | 2 => decide (t < 128) && g.src.record.part.getLsbD t
    | _ => false

/-- `bar.init` (R310). -/
def execBarInit (a b : XReg) (s : State) : Host.Outcome State Fault Refusal :=
  barWord a (pure ()) (fun _ => do
    let v := (← getX b).toNat
    let h ← getX a
    let s ← getS
    let j ← getJob
    let e := v % 4096
    let ok := match s.group j.slot with
      | some g => decide (e ≠ 0) && decide (bits v 31 12 = 0) && actionOk g (v / 2 ^ 32) && (g.cosched || e == 1)
      | none => false
    trapIf (!ok) .barrier h
    pure (some (.init (BitVec.ofNat 12 e) (BitVec.ofNat 32 (v / 2 ^ 32))))) s

/-- `bar.arrive` (R310), a release. -/
def execBarArrive (a b : XReg) (s : State) : Host.Outcome State Fault Refusal :=
  barWord a releaseS (fun _ => do pure (some (.arrive (BitVec.ofNat 4 (← getX b).toNat)))) s

/-- `bar.arrive.nf` (R119, R310). -/
def execBarArriveNf (a b : XReg) (s : State) : Host.Outcome State Fault Refusal :=
  barWord a (pure ()) (fun _ => do pure (some (.arrive (BitVec.ofNat 4 (← getX b).toNat)))) s

/-- `bar.wait` (R310), an acquire. -/
def execBarWait (a b : XReg) (s : State) : Host.Outcome State Fault Refusal :=
  barWord a (pure ()) (fun _ => do pure (some (.wait (BitVec.ofNat 4 (← getX b).toNat)))) s

/-- `bar.xin` and `bar.xout`: n as INT64 (R310). -/
def barCount (out : Bool) (a b : XReg) (s : State) : Host.Outcome State Fault Refusal :=
  barWord a (pure ()) (fun _ => do
    let n := (← getX b).toInt
    let h ← getX a
    trapIf (decide (n < 0) || decide (8388607 < n)) .barrier h
    let k := BitVec.ofInt 24 n
    pure (if n = 0 then none else some (if out then .xout k else .xin k))) s

/-- `bar.xin` (R310). -/
def execBarXin (a b : XReg) (s : State) : Host.Outcome State Fault Refusal := barCount false a b s

/-- `bar.xout` (R310). -/
def execBarXout (a b : XReg) (s : State) : Host.Outcome State Fault Refusal := barCount true a b s

end Sys2Proof.Machine
end

