-- ==== Sys2Proof/Machine/Kernel.lean ====
section
/-! DEFINITION. Machine/Kernel.lean: kernel handles, descriptors, shape records, loop tables, slices and windows, and
the words that take tiles and load layout records (R265 to R284). -/

namespace Sys2Proof.Machine

/-! ## Device reads of a context (R266, R267, R278) -/

/-- The n-byte little-endian value at an address of a context. -/
def deviceNat (id : CtxId) (va n : Nat) : M Nat := do pure (leNat (← deviceRead id va n))

/-- What a kernel handle comes to: the descriptor's VA, none where it does not resolve (R267). -/
def kernelLookup (id : CtxId) (h : Word) : M (Option Nat) := do
  let x := (← getS).ctxOf id
  let slot := h.toNat / 4096
  let gen := h.toNat % 4096
  if gen = 0 ∨ x.ktlen ≤ slot then pure none
  else
    let e ← deviceNat id (x.ktbase.toNat + 16 * slot) 16
    let desc := bits e 56 0
    let ok : Bool := bitN e 76 && decide (bits e 75 64 = gen) && decide (bits e 63 57 = 0) && decide (bits e 127 77 = 0) &&
      decide (desc % 64 = 0)
    pure (if ok then some desc else none)

/-! ## Descriptors (R268, R269) -/

/-- An output declaration. -/
structure OutDecl where
  shape : Nat
  kind : OutKind
  cn : Nat
  complete : Nat
deriving DecidableEq, Repr

/-- A kernel descriptor that keeps R268 and R269. -/
structure Desc where
  code : Nat
  nbun : Nat
  cosched : Bool
  poolmap : Nat
  loops : Nat
  xsb : Nat
  wsb : Nat
  acct : Nat
  nbar : Nat
  pbsize : Nat
  outs : List OutDecl
deriving DecidableEq, Repr

/-- The kind of a code. -/
def outKindOf (k : Nat) : OutKind :=
  match k with
  | 0 => .sliced
  | 1 => .reduce
  | 2 => .priv
  | _ => .exchange

/-- An output declaration of a descriptor, none where it breaks R269. -/
def parseOut (x : Context) (d : Nat) : Option OutDecl :=
  let k := bits d 13 12
  let ok : Bool := decide (bits d 31 28 = 0) && decide (bits d 15 14 = 0) && decide (bits d 11 0 < x.shapen) &&
    (if k = 3 then decide (bits d 27 16 < x.cnCount) else decide (bits d 27 16 = 0) && decide (bits d 63 32 = 0))
  if ok then some ⟨bits d 11 0, outKindOf k, bits d 27 16, bits d 63 32⟩ else none

/-- A descriptor from its 128 bytes, none where the group faults LAUNCH with reason 1 (R268, R269, R302). -/
def parseDesc (x : Context) (b : Nat) : Option Desc :=
  let f := fun off n => bits b (8 * (off + n) - 1) (8 * off)
  let flags := f 0x0C 4
  let nout := bits flags 4 1
  let outs := (List.range 8).map fun k => f (0x40 + 8 * k) 8
  let decls := (outs.take nout).map (parseOut x)
  let ok : Bool := isGlobal (f 0 8) && decide (f 0 8 % 64 = 0) && decide (f 8 4 % 4 = 0) && decide (4 ≤ f 8 4) &&
    decide (flags / 32 = 0) && decide (nout ≤ 8) && isGlobal (f 0x10 8) && decide (f 0x10 8 % 8 = 0) &&
    isGlobal (f 0x18 8) && decide (f 0x18 8 % 64 = 0) && decide (f 0x20 4 % 256 = 0) && decide (f 0x20 4 ≤ 0x180000) &&
    decide (f 0x24 4 % 256 = 0) && decide (f 0x24 4 ≤ 0x200000) && decide (f 0x28 2 ≤ 8) && decide (f 0x2A 2 ≤ 255) &&
    decide (16 * f 0x2A 2 ≤ f 0x20 4) && decide (f 0x2C 4 % 64 = 0) && decide (f 0x30 16 = 0) &&
    (outs.drop nout).all (· == 0) && decls.all Option.isSome
  if ok then some {
    code := f 0 8, nbun := f 8 4, cosched := bitN flags 0, poolmap := f 0x10 8, loops := f 0x18 8, xsb := f 0x20 4
    wsb := f 0x24 4, acct := f 0x28 2, nbar := f 0x2A 2, pbsize := f 0x2C 4, outs := decls.filterMap (·) }
  else none

/-! ## Shape records (R270, R271) -/

/-- FMT of a shape record. -/
def shFmt (r : Nat) : Nat := bits r 67 64
/-- The extent of dimension n, minus 1. -/
def shE (r n : Nat) : Nat := bits r (128 + 16 * n + 15) (128 + 16 * n)
/-- The stride of dimension n. -/
def shS (r n : Nat) : Int := signed 32 (bits r (192 + 32 * n + 31) (192 + 32 * n))
/-- BMODE. -/
def shMode (r : Nat) : Nat := bits r 69 68
/-- POFF. -/
def shPoff (r : Nat) : Nat := bits r 91 80
/-- A reserved bit of a shape record is set. -/
def shReserved (r : Nat) : Bool := bits r 127 92 != 0 || bits r 79 78 != 0 || bits r 511 384 != 0

/-- The resolved base (R271); `pm` is the parameter word of BMODE 1. -/
def shBase (r pm : Nat) (tag wbase : DWord) : Nat :=
  let base := bits r 63 0
  (match shMode r with
    | 0 => base
    | 1 => pm + base
    | 2 => base + tag.toNat * bits r 383 320
    | _ => wbase.toNat + base) % 2 ^ 64

/-- The span of a box of a shape: dimension n runs from `lo n` to `hi n`; first and last byte (R271, R277). -/
def boxSpan (r v : Nat) (lo hi : Nat → Nat) : Int × Int :=
  let w := fmtWidth (shFmt r)
  let part := fun (n : Nat) (f : Int → Int → Int) =>
    if w = 4 ∧ n = 0 then f ((lo 0 / 2 : Nat) : Int) ((hi 0 / 2 : Nat) : Int)
    else f ((lo n : Int) * shS r n) ((hi n : Int) * shS r n)
  (v + ((List.range 4).map fun n => part n min).sum,
    v + ((List.range 4).map fun n => part n max).sum + (if w = 4 then 0 else ((w / 8 - 1 : Nat) : Int)))

/-- The span of a shape record. -/
def shSpan (r v : Nat) : Int × Int := boxSpan r v (fun _ => 0) (shE r)

/-! ## Loop tables (R272, R273) -/

/-- A window entry (R277). -/
structure WinEntry where
  out : Nat
  level : Nat
  dim : Nat
  tl : Nat
deriving DecidableEq, Repr

/-- A loop table: its levels as (kind, extent), its walk order, its windows. -/
structure Loops where
  levels : List (BitVec 2 × Nat)
  perm : List Nat
  wins : List WinEntry
deriving DecidableEq, Repr

/-- A level entry keeps R273. -/
def levelOk (e pbsize : Nat) : Bool :=
  decide (bits e 63 35 = 0) && decide (bits e 34 33 ≠ 3) &&
    (!bitN e 32 || (decide (bits e 31 0 % 4 = 0) && decide (bits e 31 0 < pbsize)))

/-- A window entry keeps R277. -/
def winOk (w nlev : Nat) (kinds : List (BitVec 2)) (outs : List OutDecl) : Bool :=
  decide (bits w 63 40 = 0) && decide (1 ≤ bits w 39 8) && decide (bits w 5 3 < nlev) &&
    decide (kinds.getD (bits w 5 3) 0 ≠ 0) &&
    match outs[bits w 2 0]? with
    | some o => o.kind == .sliced
    | none => false

/-- A list is a permutation of 0 to n - 1. -/
def isPerm (xs : List Nat) (n : Nat) : Bool := xs.length == n && (List.range n).all fun k => xs.contains k

/-- No SPATIAL-DIES level follows a SPATIAL-CORES level in walk order. -/
def diesFirst : List (BitVec 2) → Bool
  | [] => true
  | k :: ks => (if k = 1 then ks.all (· != 2) else true) && diesFirst ks

/-- A loop table from its 128 bytes; `ext` gives the extents, read where they come from parameters. None is LAUNCH
reason 2. -/
def parseLoops (d : Desc) (b : Nat) (ext : List Nat) : Option Loops :=
  let h := bits b 63 0
  let nlev := bits h 3 0
  let nwin := bits h 6 4
  let perm := (List.range 8).map fun k => bits h (10 + 3 * k) (8 + 3 * k)
  let lev := fun k => bits b (64 * k + 127) (64 * k + 64)
  let win := fun k => bits b (64 * k + 0x48 * 8 + 63) (64 * k + 0x48 * 8)
  let kinds := (List.range nlev).map fun k => BitVec.ofNat 2 (bits (lev k) 34 33)
  let ok : Bool := decide (bits h 63 32 = 0) && !bitN h 7 && decide (1 ≤ nlev) && decide (nlev ≤ 8) && decide (nwin ≤ 4) &&
    decide (bits b 1023 832 = 0) && isPerm (perm.take nlev) nlev && (perm.drop nlev).all (· == 0) &&
    ((List.range 8).all fun k => if k < nlev then levelOk (lev k) d.pbsize else lev k == 0) &&
    ((List.range 4).all fun k => if k < nwin then winOk (win k) nlev kinds d.outs else win k == 0) &&
    diesFirst ((perm.take nlev).map fun l => kinds.getD l 0) && decide (ext.foldl (· * ·) 1 ≤ 2 ^ 48)
  if ok then some {
    levels := kinds.zip ext
    perm := perm.take nlev
    wins := (List.range nwin).map fun k => ⟨bits (win k) 2 0, bits (win k) 5 3, bits (win k) 7 6, bits (win k) 39 8⟩ }
  else none

/-! ## Slices and tiles (R274 to R277, R280) -/

/-- The levels in walk order. -/
def Loops.walk (l : Loops) : List (BitVec 2 × Nat) := l.perm.map fun k => l.levels.getD k (0, 1)

/-- The product of the extents of the levels a condition holds of. -/
def extents (xs : List (BitVec 2 × Nat)) (p : BitVec 2 → Bool) : Nat :=
  (xs.filter fun x => p x.1).foldl (fun n x => n * x.2) 1

/-- The slice of a job: job j of P, of which P0 on die 0 (R275). -/
def sliceOf (xs : List (BitVec 2 × Nat)) (j p p0 : Nat) : Nat × Nat :=
  let sd := extents xs (· == 2)
  let sc := extents xs (· == 1)
  if xs.all fun x => x.1 ≠ 2 then (j * (sd * sc) / p, (j + 1) * (sd * sc) / p)
  else
    let u := sd * p0 / p
    let deal := fun (lo hi jj pp : Nat) => (lo + jj * (hi - lo) / pp, lo + (jj + 1) * (hi - lo) / pp)
    if j < p0 then deal 0 (u * sc) j p0 else deal (u * sc) (sd * sc) (j - p0) (p - p0)

/-- The tiles of a slice: each spatial index with every value of the temporal levels. -/
def tilesOf (xs : List (BitVec 2 × Nat)) (lo hi : Nat) : Nat := (hi - lo) * extents xs (· == 0)

/-- The least walk index of a nest whose spatial index lies in [lo, hi). -/
def firstTile : List (BitVec 2 × Nat) → Nat → Nat → Option Nat
  | [], lo, hi => if lo = 0 ∧ 0 < hi then some 0 else none
  | (k, n) :: rest, lo, hi =>
    if n = 0 ∨ hi ≤ lo then none
    else if k = 0 then firstTile rest lo hi
    else
      let t := extents rest (· != 0)
      if t = 0 then none
      else
        let c := lo / t
        if c < n then (firstTile rest (lo - c * t) (min (hi - c * t) t)).map (· + c * extents rest fun _ => true) else none

/-- The least walk index at or above w whose spatial index lies in [lo, hi) (R280). -/
def tileFrom : List (BitVec 2 × Nat) → Nat → Nat → Nat → Option Nat
  | [], lo, hi, w => if w = 0 ∧ lo = 0 ∧ 0 < hi then some 0 else none
  | (k, n) :: rest, lo, hi, w =>
    let sub := extents rest fun _ => true
    let t := extents rest (· != 0)
    if sub = 0 ∨ t = 0 then none
    else
      let c := w / sub
      let here :=
        if n ≤ c then none
        else if k = 0 then tileFrom rest lo hi (w % sub)
        else if hi ≤ c * t then none
        else tileFrom rest (lo - c * t) (min (hi - c * t) t) (w % sub)
      match here with
      | some x => some (c * sub + x)
      | none =>
        if k = 0 then (if c + 1 < n then (firstTile rest lo hi).map (· + (c + 1) * sub) else none)
        else
          let c' := max (c + 1) (lo / t)
          if c' < n ∧ c' * t < hi then (firstTile rest (lo - c' * t) (min (hi - c' * t) t)).map (· + c' * sub) else none

/-- The coordinates of a walk index, by walk position. -/
def walkCoords : List (BitVec 2 × Nat) → Nat → List Nat
  | [], _ => []
  | _ :: rest, w =>
    let sub := extents rest fun _ => true
    (if sub = 0 then 0 else w / sub) :: walkCoords rest (if sub = 0 then 0 else w % sub)

/-- The least and greatest coordinates of a level over a slice (R277). -/
def levelRange (xs : List (BitVec 2 × Nat)) (pos lo hi : Nat) : Nat × Nat :=
  let n := (xs.getD pos (0, 1)).2
  let t := extents (xs.drop (pos + 1)) (· != 0)
  let a := lo / t
  let b := (hi - 1) / t
  if a / n = b / n then (a % n, b % n) else (0, n - 1)

/-- A window of a job: output, first byte, byte after the last; none where it is empty (R277). -/
def windowOf (l : Loops) (shapes : List (Nat × Nat)) (w : WinEntry) (lo hi : Nat) : Option (Nat × Nat × Nat) :=
  if hi ≤ lo then none
  else
    let (r, v) := shapes.getD w.out (0, 0)
    let (cmin, cmax) := levelRange l.walk (l.perm.idxOf w.level) lo hi
    let first := cmin * w.tl
    let last := min ((cmax + 1) * w.tl) (shE r w.dim + 1) - 1
    if shE r w.dim + 1 ≤ first then none
    else
      let (x, y) := boxSpan r v (fun n => if n = w.dim then first else 0) (fun n => if n = w.dim then last else shE r n)
      some (w.out, natOf x, natOf (y + 1))

/-! ## The words (R280 to R284) -/

/-- The levels of a job's nest in walk order. -/
def Job.walk (j : Job) : List (BitVec 2 × Nat) := j.perm.map fun k => j.levels.getD k (0, 1)

/-- LIX with the coordinates of a walk index. -/
def setLix (v : Vector DWord 8) : List Nat → List Nat → Vector DWord 8
  | l :: ls, c :: cs => setLix (v.setIfInBounds l (BitVec.ofNat 64 c)) ls cs
  | _, _ => v

/-- `lsq.next` (R280). -/
def execLsqNext (d : XReg) (s : State) : Host.Outcome State Fault Refusal :=
  runS (do
    let j ← getJob
    if j.left = 0 then setX d 0
    else
      let lix := setLix (← getCore).sr.lix j.perm (walkCoords j.walk j.nextWalk)
      let next := (tileFrom j.walk j.sliceLo j.sliceHi (j.nextWalk + 1)).getD j.nextWalk
      modCore fun c => { c with
        sr := { c.sr with lix := lix }
        job := some { j with left := j.left - 1, nextWalk := next } }
      setX d 1
    advance) s

/-- Window k of a job as [lo, hi); 0 and 0 where it is empty or absent. -/
def Job.window (j : Job) (k : Nat) : Nat × Nat :=
  match j.windows.getD k none with
  | some (_, lo, hi) => (lo, hi)
  | none => (0, 0)

/-- An item of `lsq.info` (R281). -/
def Job.info (j : Job) (item : Nat) : DWord :=
  match item with
  | 0 => BitVec.ofNat 64 j.tiles
  | 1 => BitVec.ofNat 64 j.left
  | 2 => j.param
  | 3 => j.khandle.zeroExtend 64
  | 4 => BitVec.ofNat 64 (j.j + j.p * 2 ^ 32)
  | 5 => BitVec.ofNat 64 j.sliceLo
  | 6 => BitVec.ofNat 64 j.sliceHi
  | _ => if item < 12 then BitVec.ofNat 64 (j.window (item - 8)).1 else BitVec.ofNat 64 (j.window (item - 12)).2

/-- `lsq.info` (R281). -/
def execLsqInfo (d : XReg) (item : BitVec 7) (s : State) : Host.Outcome State Fault Refusal :=
  runS (do
    setX d ((← getJob).info item.toNat)
    advance) s

/-- A read of n bytes for `launch`: checks 1 to 5 of R162, no check at the home (R127, R298). -/
def launchRead (a : DWord) (n : Nat) : M Nat := do
  checkForm a false
  checkAlign a n
  if isGlobal a.toNat then
    scoreS [⟨.glob, a.toNat, a.toNat + n, false⟩]
    let e ← translate .load a.toNat
    let l ← locate e a.toNat false
    trapIf (leafFmt e.leaf != 0) .format a
    let ys ← pieceBytes e false a.toNat n
    countLine e a.toNat l n
    pure (leNat ys)
  else loadXs (localAddr a) n

/-- `lyset` (R282). -/
def execLyset (n : BitVec 3) (a : XReg) (s : State) : Host.Outcome State Fault Refusal :=
  runS (do
    let ea ← getX a
    let r := BitVec.ofNat 512 (← loadWord ea 64)
    trapIf (lyReserved r) .format ea
    modCore fun c => { c with ly := c.ly.set n.toFin r }
    advance) s

/-- The layout record built from a shape record and a resolved base (R283). -/
def shapeRecord (r base : Nat) : BitVec 512 :=
  BitVec.ofNat 512 (base + 3 * 2 ^ 64 + shFmt r * 2 ^ 68 + bits r 71 70 * 2 ^ 72 + bits r 77 72 * 2 ^ 74 +
    bits r 191 128 * 2 ^ 96 + bits r 319 192 * 2 ^ 192)

/-- A shape record at an address: the load has checks 1 to 5 of R162, and is no access of the job at its home (R267,
R283). -/
def readShape (a : DWord) : M Nat := do
  checkForm a false
  checkAlign a 64
  if isGlobal a.toNat then
    scoreS [⟨.glob, a.toNat, a.toNat + 64, false⟩]
    let e ← translate .load a.toNat
    let l ← locate e a.toNat false
    trapIf (!rawFmt (leafFmt e.leaf)) .format a
    let xs ← pieceBytes e false a.toNat 64
    countLine e a.toNat l 64
    pure (leNat xs)
  else loadXs (localAddr a) 64

/-- `lyseth` (R283). -/
def execLyseth (n : BitVec 3) (a b : XReg) (s : State) : Host.Outcome State Fault Refusal :=
  runS (do
    let x ← getCtx
    let j ← getJob
    let h ← getX a
    trapIf (decide (x.shapen ≤ h.toNat)) .handle h
    let ra := BitVec.ofNat 64 (x.shapes.toNat + 64 * h.toNat)
    let r ← readShape ra
    trapIf (shReserved r || decide (10 < shFmt r)) .format ra
    let pm ← if shMode r = 1 then loadWord (BitVec.ofNat 64 (j.param.toNat + shPoff r)) 8 else pure 0
    let c ← getCore
    let v := shBase r pm c.sr.tag c.sr.wbase
    let base := (v + (c.rx b).toNat) % 2 ^ 64
    modCore fun c => { c with ly := c.ly.set n.toFin (shapeRecord r base) }
    advance) s

/-- `bdset` (R284). -/
def execBdset (n : BitVec 3) (a : XReg) (s : State) : Host.Outcome State Fault Refusal :=
  .next (s.modCore fun c => { c with bd := c.bd.set n.toFin (bdClean (c.rx a)) }.advance)

end Sys2Proof.Machine
end

