-- ==== Sys2Proof/Machine/Gen.lean ====
section
/-! DEFINITION. Machine/Gen.lean: generator registers, the values they give, the angle tables and `gnset` (R409 to
R419). -/

namespace Sys2Proof.Machine

/-! ## Fields (R409) -/

/-- SEED. -/
def gnSeed (r : BitVec 512) : DWord := r.extractLsb' 0 64
/-- SCALE. -/
def gnScale (r : BitVec 512) : Word := r.extractLsb' 64 32
/-- ROW0. -/
def gnRow0 (r : BitVec 512) : Int := signed 32 (bits r.toNat 127 96)
/-- PARAM. -/
def gnParam (r : BitVec 512) : Nat := bits r.toNat 191 160
/-- MSHAPE. -/
def gnShape (r : BitVec 512) : Nat := bits r.toNat 266 264
/-- RSIN. -/
def gnSin (r : BitVec 512) : Bool := r.getLsbD 267
/-- SCOPE. -/
def gnScope (r : BitVec 512) : Nat := bits r.toNat 270 268

/-- An image is acceptable (R410). -/
def gnOk (r : BitVec 512) : Bool :=
  let k := gnKind r
  let sh := gnShape r
  decide (bits r.toNat 511 271 = 0) && !r.getLsbD 259 && decide (bits r.toNat 255 249 = 0) && decide (k ≤ 4) &&
    [1, 2, 3, 4, 6, 7, 8].contains (gnFmt r) &&
    (match f32V (gnScale r) with
      | .fin _ _ _ => true
      | _ => false) &&
    (decide (k ≤ 1) || (decide (gnSeed r = 0) && decide (gnScope r = 0))) &&
    (decide (k = 2) || (!gnSin r && decide (gnTbl r = 0))) && decide (gnTbl r % 4 = 0) &&
    (decide (k = 3) || decide (sh = 0)) && decide (sh ≤ 4) &&
    (if sh = 2 ∨ sh = 3 ∨ sh = 4 then decide (sh ≠ 3) || decide (1 ≤ gnParam r) else decide (gnParam r = 0))

/-- `gnset` (R411). -/
def execGnset (n : BitVec 3) (a : XReg) (s : State) : Host.Outcome State Fault Refusal :=
  runS (do
    let ea ← getX a
    let r := BitVec.ofNat 512 (← loadWord ea 64)
    trapIf (!gnOk r) .format ea
    modCore fun c => { c with gn := c.gn.set n.toFin r }
    advance) s

/-! ## Hashing (R413, R414) -/

/-- mix64. -/
def mix64 (x : DWord) : DWord :=
  let x := (x ^^^ (x >>> 31)) * 0xB7E35C219A4D6F0B
  let x := (x ^^^ (x >>> 29)) * 0x8C1F63A5D2E947B3
  x ^^^ (x >>> 32)

/-- hash. -/
def gnHash (s : DWord) (r c : Int) : DWord :=
  mix64 (mix64 (mix64 s ^^^ BitVec.ofInt 64 r) ^^^ BitVec.ofInt 64 c)

/-- The effective seed. -/
def effSeed (g : BitVec 512) (ctxSeed tag : DWord) (lidx : Nat) : DWord :=
  let s := gnSeed g
  let s := if g.getLsbD 268 then mix64 (s ^^^ ctxSeed) else s
  let s := if g.getLsbD 269 then mix64 (s ^^^ tag) else s
  if g.getLsbD 270 then mix64 (s ^^^ BitVec.ofNat 64 lidx) else s

/-! ## Sines (R416) -/

/-- The series of the sine continued for n terms after the term t of power k, in units of 2^-120; `neg` is the sign
of the next term. -/
def sineSeries (x2 : Nat) : Nat → Nat → Nat → Bool → Int → Int
  | 0, _, _, _, s => s
  | n + 1, k, t, neg, s =>
    let u := t * x2 / 2 ^ 120 / ((k + 1) * (k + 2))
    sineSeries x2 n (k + 2) u (!neg) (if neg then s - u else s + u)

/-- T(i) = sin(2π i/4096) rounded to FP32; the argument π i/2048 is below π/2, and the 21 terms lie within 2^-110 of
the sine, which no entry has nearer to a tie. -/
def sineEntry (i : Nat) : Val :=
  if 1024 ≤ i then .fin false 1 0
  else
    let x := 0x3243F6A8885A308D313198A2E037073 * i / 2048
    let s := sineSeries (x * x / 2 ^ 120) 20 1 x true x
    decF .f32 (convF .f32 .rne (.fin false s.toNat (-120))).1

/-- The quarter-wave lookup. -/
def sinq (p : Word) : Val :=
  let q := p.toNat / 2 ^ 30
  let w := p.toNat % 2 ^ 30
  let v := if q % 2 = 0 then w else 2 ^ 30 - w
  let j := v / 2 ^ 20
  let m := if 1024 ≤ j then Val.fin false 1 0
    else
      let lo := sineEntry j
      let diff := decF .f32 (addF .f32 (sineEntry (j + 1)) lo.neg).1
      decF .f32 (fmaF .f32 false false (.fin false (v % 2 ^ 20) (-20)) diff lo).1
  if 2 ≤ q ∧ !m.isZero then m.neg else m

/-! ## Values (R412, R415, R417) -/

/-- The mask shape holds at a coordinate. -/
def maskHolds (g : BitVec 512) (r c : Int) : Bool :=
  let w : Int := gnParam g
  match gnShape g with
  | 0 => decide (c ≤ r)
  | 1 => decide (r ≤ c)
  | 2 => decide (r - c ≤ w) && decide (c - r ≤ w)
  | 3 => r / w == c / w
  | _ => decide (c ≤ r + signed 32 (gnParam g))

/-- The number of ones of a word. -/
def popcount (x : DWord) : Nat := ((List.range 64).filter fun i => x.getLsbD i).length

/-- A zero made +0. -/
def plusZero (v : Val) : Val := if v.isZero then .fin false 0 0 else v

/-- The exact value at (r, c) for an effective seed and the angle of column c. -/
def gnExact (g : BitVec 512) (seed : DWord) (r c : Int) (angle : Word) : Val :=
  let scale := f32V (gnScale g)
  match gnKind g with
  | 0 => if (gnHash seed r c).getLsbD 0 then scale.neg else scale
  | 1 =>
    match scale with
    | .fin s m e =>
      let n : Int := (popcount (gnHash seed r c) : Int) - 32
      plusZero (.fin (s != decide (n < 0)) (m * n.natAbs) (e - 2))
    | v => v
  | 2 =>
    let p := BitVec.ofNat 32 ((r % 2 ^ 32).toNat * angle.toNat)
    let v := if gnSin g then sinq p else sinq (p + 0x40000000)
    plusZero ((mulV v scale).getD .nan)
  | 3 => if maskHolds g r c then plusZero scale else .fin false 0 0
  | _ => scale

/-- The generated element, in its output format. -/
def gnElem (g : BitVec 512) (seed : DWord) (r c : Int) (angle : Word) : Val :=
  let v := gnExact g seed r c angle
  match floatOf (gnFmt g) with
  | some f => decF f (convF f .sat v).1
  | none =>
    let w := fmtWidth (gnFmt g)
    valOfInt (convI (-(2 ^ (w - 1) : Nat)) ((2 ^ (w - 1) : Nat) - 1) .sat v).1

/-! ## Angle tables (R418) -/

/-- The angle of one virtual column, with its checks. -/
def readAngle (g : BitVec 512) (c : Int) : M Word := do
  let tbl := gnTbl g
  trapIf (decide (c < 0) || decide (2 ^ 20 ≤ c)) .format (BitVec.ofNat 64 tbl)
  let va := tbl + 4 * c.toNat
  trapIf (!isGlobal va) .page (pageInfo va 0 false)
  let id := (← getJob).ctx
  let e ← translate .load va
  let l ← locate e va false
  trapIf (leafFmt e.leaf != 0) .format (BitVec.ofNat 64 va)
  let s ← getS
  ringCheck va (s.lineKeysOf l 4)
  trapIf ((s.lineKeysOf l 4).any fun k => !(s.outsOf (s.ctxOf id) id va k).isEmpty) .conflict (BitVec.ofNat 64 va)
  let xs ← pieceBytes e false va 4
  countLine e va l 4
  pure (BitVec.ofNat 32 (leNat xs))

/-- The angles of the first n columns of a ROTARY generator, none of another. -/
def readAngles (g : BitVec 512) (n : Nat) : M (List Word) :=
  if gnKind g = 2 then mapM' (fun (k : Nat) => readAngle g (gnCol0 g + k)) (List.range n) else pure []

end Sys2Proof.Machine
end

