-- ==== Sys2Proof/Machine/Vector.lean ====
section
/-! DEFINITION. Machine/Vector.lean: the words of the V slot on registers: operands, results and what each word computes
(R63, R137, R138, R144, R178 to R204). -/

namespace Sys2Proof.Machine

/-! ## Operands and results (R63, R137, R138, R178, R180) -/

/-- A URS row. -/
def VecState.row (v : VecState) (n : Nat) : VReg := sget 0 v.urs n

/-- A URS row written. -/
def VecState.setRow (v : VecState) (n : Nat) (x : VReg) : VecState := { v with urs := sset 0 v.urs n x }

/-- The queue register a source names. -/
def srcQueue : VSrc → Option Nat
  | .q k => some (8 + k.toNat)
  | _ => none

/-- The queue register a destination names. -/
def dstQueue : VDst → Option Nat
  | .q k => some k.toNat
  | _ => none

/-- The source code of a destination that is also read; a queue code there does not decode (R182). -/
def dstSrc : VDst → VSrc
  | .v k => .v k
  | .o k => .o k
  | .lrl => .lrl
  | .q _ => .zero

/-- The value of a source; a popped entry's bits 31:0 go to every lane. -/
def VecState.src (v : VecState) (pops : List (Nat × DWord)) : VSrc → VReg
  | .v k => v.row (v.rowV k)
  | .o k => v.o[k.toFin]
  | .lrl => v.lrl
  | .zero => 0
  | .laneid => laneIds
  | .q k =>
    match pops.find? fun p => p.1 = 8 + k.toNat with
    | some p => bcast (BitVec.ofNat 32 p.2.toNat)
    | none => 0

/-- The result in its destination and in LRL; a queue register receives it at completion. -/
def VecState.put (v : VecState) (d : VDst) (x : VReg) : VecState :=
  let v := { v with lrl := x }
  match d with
  | .v k => v.setRow (v.rowV k) x
  | .o k => { v with o := v.o.set k.toFin x }
  | .lrl | .q _ => v

/-- One entry is popped from each queue register named. -/
def popSrcs : List Nat → M (List (Nat × DWord))
  | [] => pure []
  | n :: ns => do
    match (← getCore).qreg n with
    | [] => stop (.flag (48 + n))
    | v :: rest =>
      modCore fun c => c.setQreg n rest
      let ps ← popSrcs ns
      pure ((n, v) :: ps)

/-- The queue registers that sources name, each once (R138). -/
def srcQueues (srcs : List VSrc) : List Nat := (srcs.filterMap srcQueue).eraseDups

/-- The values of the sources. -/
def readSrcs (srcs : List VSrc) : M (List VReg) := do
  let pops ← popSrcs (srcQueues srcs)
  let v := (← getCore).vec
  pure (srcs.map (v.src pops))

/-- A change of the vector engine's state. -/
def modVec (f : VecState → VecState) : M Unit := modCore fun c => { c with vec := f c.vec }

/-- Room for the result. -/
def roomFor (d : VDst) : M Unit :=
  match dstQueue d with
  | some n => needRoom n
  | none => pure ()

/-- The command has its result. -/
def putResult (d : VDst) (r : VReg × Flags) (x : Cmd) : M Cmd := do
  modVec fun v => v.put d r.1
  let x := x.done (vectorFlags r.2)
  pure (match dstQueue d with
    | some n => x.push n (BitVec.ofNat 64 r.1.toNat)
    | none => x)

/-- A word that computes a result register from its sources. -/
def vecOp (srcs : List VSrc) (d : VDst) (f : List VReg → VReg × Flags) (x : Cmd) : M Cmd := do
  roomFor d
  let vs ← readSrcs srcs
  putResult d (f vs) x

/-- A word of one source. -/
def vec1 (i : Instr) (d : VDst) (a : VSrc) (g : Guard) (f : VReg → VReg × Flags) (s : State) :
    Host.Outcome State Fault Refusal :=
  runEng .v i g (vecOp [a] d fun vs => f (vs.getD 0 0)) s

/-- A word of two sources. -/
def vec2 (i : Instr) (d : VDst) (a b : VSrc) (g : Guard) (f : VReg → VReg → VReg × Flags) (s : State) :
    Host.Outcome State Fault Refusal :=
  runEng .v i g (vecOp [a, b] d fun vs => f (vs.getD 0 0) (vs.getD 1 0)) s

/-- A word of two sources that also reads its destination. -/
def vec3 (i : Instr) (d : VDst) (a b : VSrc) (g : Guard) (f : VReg → VReg → VReg → VReg × Flags) (s : State) :
    Host.Outcome State Fault Refusal :=
  runEng .v i g (vecOp [a, b, dstSrc d] d fun vs => f (vs.getD 0 0) (vs.getD 1 0) (vs.getD 2 0)) s

/-- A word of one source that also reads its destination. -/
def vecMerge (i : Instr) (d : VDst) (a : VSrc) (g : Guard) (f : VReg → VReg → VReg × Flags) (s : State) :
    Host.Outcome State Fault Refusal :=
  runEng .v i g (vecOp [a, dstSrc d] d fun vs => f (vs.getD 0 0) (vs.getD 1 0)) s

/-- A result that raises nothing. -/
def quiet (v : VReg) : VReg × Flags := (v, 0)

/-! ## Floating point (R185, R186) -/

/-- `vadd.f32` (R185). -/
def execVaddF32 (rl : Bool) (d : VDst) (a b : VSrc) (g : Guard) (s : State) :
    Host.Outcome State Fault Refusal :=
  vec2 (.vaddF32 rl d a b g) d a b g (laneAdd .f32) s

/-- `vsub.f32` (R185). -/
def execVsubF32 (rl : Bool) (d : VDst) (a b : VSrc) (g : Guard) (s : State) :
    Host.Outcome State Fault Refusal :=
  vec2 (.vsubF32 rl d a b g) d a b g (laneSub .f32) s

/-- `vmul.f32` (R185). -/
def execVmulF32 (rl : Bool) (d : VDst) (a b : VSrc) (g : Guard) (s : State) :
    Host.Outcome State Fault Refusal :=
  vec2 (.vmulF32 rl d a b g) d a b g (laneMul .f32) s

/-- `vmax.f32` (R185). -/
def execVmaxF32 (rl : Bool) (d : VDst) (a b : VSrc) (g : Guard) (s : State) :
    Host.Outcome State Fault Refusal :=
  vec2 (.vmaxF32 rl d a b g) d a b g (laneMax .f32) s

/-- `vmin.f32` (R185). -/
def execVminF32 (rl : Bool) (d : VDst) (a b : VSrc) (g : Guard) (s : State) :
    Host.Outcome State Fault Refusal :=
  vec2 (.vminF32 rl d a b g) d a b g (laneMin .f32) s

/-- `vabs.f32` (R185). -/
def execVabsF32 (rl : Bool) (d : VDst) (a : VSrc) (g : Guard) (s : State) :
    Host.Outcome State Fault Refusal :=
  vec1 (.vabsF32 rl d a g) d a g (laneAbs .f32) s

/-- `vneg.f32` (R185). -/
def execVnegF32 (rl : Bool) (d : VDst) (a : VSrc) (g : Guard) (s : State) :
    Host.Outcome State Fault Refusal :=
  vec1 (.vnegF32 rl d a g) d a g (laneNeg .f32) s

/-- `vadd.bf16` (R185). -/
def execVaddBf16 (rl : Bool) (d : VDst) (a b : VSrc) (g : Guard) (s : State) :
    Host.Outcome State Fault Refusal :=
  vec2 (.vaddBf16 rl d a b g) d a b g (laneAdd .bf16) s

/-- `vsub.bf16` (R185). -/
def execVsubBf16 (rl : Bool) (d : VDst) (a b : VSrc) (g : Guard) (s : State) :
    Host.Outcome State Fault Refusal :=
  vec2 (.vsubBf16 rl d a b g) d a b g (laneSub .bf16) s

/-- `vmul.bf16` (R185). -/
def execVmulBf16 (rl : Bool) (d : VDst) (a b : VSrc) (g : Guard) (s : State) :
    Host.Outcome State Fault Refusal :=
  vec2 (.vmulBf16 rl d a b g) d a b g (laneMul .bf16) s

/-- `vmax.bf16` (R185). -/
def execVmaxBf16 (rl : Bool) (d : VDst) (a b : VSrc) (g : Guard) (s : State) :
    Host.Outcome State Fault Refusal :=
  vec2 (.vmaxBf16 rl d a b g) d a b g (laneMax .bf16) s

/-- `vmin.bf16` (R185). -/
def execVminBf16 (rl : Bool) (d : VDst) (a b : VSrc) (g : Guard) (s : State) :
    Host.Outcome State Fault Refusal :=
  vec2 (.vminBf16 rl d a b g) d a b g (laneMin .bf16) s

/-- `vabs.bf16` (R185). -/
def execVabsBf16 (rl : Bool) (d : VDst) (a : VSrc) (g : Guard) (s : State) :
    Host.Outcome State Fault Refusal :=
  vec1 (.vabsBf16 rl d a g) d a g (laneAbs .bf16) s

/-- `vneg.bf16` (R185). -/
def execVnegBf16 (rl : Bool) (d : VDst) (a : VSrc) (g : Guard) (s : State) :
    Host.Outcome State Fault Refusal :=
  vec1 (.vnegBf16 rl d a g) d a g (laneNeg .bf16) s

/-- `vadd.f16` (R185). -/
def execVaddF16 (rl : Bool) (d : VDst) (a b : VSrc) (g : Guard) (s : State) :
    Host.Outcome State Fault Refusal :=
  vec2 (.vaddF16 rl d a b g) d a b g (laneAdd .f16) s

/-- `vsub.f16` (R185). -/
def execVsubF16 (rl : Bool) (d : VDst) (a b : VSrc) (g : Guard) (s : State) :
    Host.Outcome State Fault Refusal :=
  vec2 (.vsubF16 rl d a b g) d a b g (laneSub .f16) s

/-- `vmul.f16` (R185). -/
def execVmulF16 (rl : Bool) (d : VDst) (a b : VSrc) (g : Guard) (s : State) :
    Host.Outcome State Fault Refusal :=
  vec2 (.vmulF16 rl d a b g) d a b g (laneMul .f16) s

/-- `vmax.f16` (R185). -/
def execVmaxF16 (rl : Bool) (d : VDst) (a b : VSrc) (g : Guard) (s : State) :
    Host.Outcome State Fault Refusal :=
  vec2 (.vmaxF16 rl d a b g) d a b g (laneMax .f16) s

/-- `vmin.f16` (R185). -/
def execVminF16 (rl : Bool) (d : VDst) (a b : VSrc) (g : Guard) (s : State) :
    Host.Outcome State Fault Refusal :=
  vec2 (.vminF16 rl d a b g) d a b g (laneMin .f16) s

/-- `vabs.f16` (R185). -/
def execVabsF16 (rl : Bool) (d : VDst) (a : VSrc) (g : Guard) (s : State) :
    Host.Outcome State Fault Refusal :=
  vec1 (.vabsF16 rl d a g) d a g (laneAbs .f16) s

/-- `vneg.f16` (R185). -/
def execVnegF16 (rl : Bool) (d : VDst) (a : VSrc) (g : Guard) (s : State) :
    Host.Outcome State Fault Refusal :=
  vec1 (.vnegF16 rl d a g) d a g (laneNeg .f16) s

/-- `vfma.f32` (R186). -/
def execVfmaF32 (rl : Bool) (d : VDst) (a b : VSrc) (g : Guard) (s : State) :
    Host.Outcome State Fault Refusal :=
  vec3 (.vfmaF32 rl d a b g) d a b g (laneFma .f32 false false) s

/-- `vfms.f32` (R186). -/
def execVfmsF32 (rl : Bool) (d : VDst) (a b : VSrc) (g : Guard) (s : State) :
    Host.Outcome State Fault Refusal :=
  vec3 (.vfmsF32 rl d a b g) d a b g (laneFma .f32 false true) s

/-- `vfnma.f32` (R186). -/
def execVfnmaF32 (rl : Bool) (d : VDst) (a b : VSrc) (g : Guard) (s : State) :
    Host.Outcome State Fault Refusal :=
  vec3 (.vfnmaF32 rl d a b g) d a b g (laneFma .f32 true true) s

/-- `vfnms.f32` (R186). -/
def execVfnmsF32 (rl : Bool) (d : VDst) (a b : VSrc) (g : Guard) (s : State) :
    Host.Outcome State Fault Refusal :=
  vec3 (.vfnmsF32 rl d a b g) d a b g (laneFma .f32 true false) s

/-- `vfma.bf16` (R186). -/
def execVfmaBf16 (rl : Bool) (d : VDst) (a b : VSrc) (g : Guard) (s : State) :
    Host.Outcome State Fault Refusal :=
  vec3 (.vfmaBf16 rl d a b g) d a b g (laneFma .bf16 false false) s

/-- `vfms.bf16` (R186). -/
def execVfmsBf16 (rl : Bool) (d : VDst) (a b : VSrc) (g : Guard) (s : State) :
    Host.Outcome State Fault Refusal :=
  vec3 (.vfmsBf16 rl d a b g) d a b g (laneFma .bf16 false true) s

/-- `vfnma.bf16` (R186). -/
def execVfnmaBf16 (rl : Bool) (d : VDst) (a b : VSrc) (g : Guard) (s : State) :
    Host.Outcome State Fault Refusal :=
  vec3 (.vfnmaBf16 rl d a b g) d a b g (laneFma .bf16 true true) s

/-- `vfnms.bf16` (R186). -/
def execVfnmsBf16 (rl : Bool) (d : VDst) (a b : VSrc) (g : Guard) (s : State) :
    Host.Outcome State Fault Refusal :=
  vec3 (.vfnmsBf16 rl d a b g) d a b g (laneFma .bf16 true false) s

/-- `vfma.f16` (R186). -/
def execVfmaF16 (rl : Bool) (d : VDst) (a b : VSrc) (g : Guard) (s : State) :
    Host.Outcome State Fault Refusal :=
  vec3 (.vfmaF16 rl d a b g) d a b g (laneFma .f16 false false) s

/-- `vfms.f16` (R186). -/
def execVfmsF16 (rl : Bool) (d : VDst) (a b : VSrc) (g : Guard) (s : State) :
    Host.Outcome State Fault Refusal :=
  vec3 (.vfmsF16 rl d a b g) d a b g (laneFma .f16 false true) s

/-- `vfnma.f16` (R186). -/
def execVfnmaF16 (rl : Bool) (d : VDst) (a b : VSrc) (g : Guard) (s : State) :
    Host.Outcome State Fault Refusal :=
  vec3 (.vfnmaF16 rl d a b g) d a b g (laneFma .f16 true true) s

/-- `vfnms.f16` (R186). -/
def execVfnmsF16 (rl : Bool) (d : VDst) (a b : VSrc) (g : Guard) (s : State) :
    Host.Outcome State Fault Refusal :=
  vec3 (.vfnmsF16 rl d a b g) d a b g (laneFma .f16 true false) s

/-! ## Integer, logic, compare and select (R187 to R190) -/

/-- `vadd.i32` (R187). -/
def execVaddI32 (rl : Bool) (d : VDst) (a b : VSrc) (g : Guard) (s : State) :
    Host.Outcome State Fault Refusal :=
  vec2 (.vaddI32 rl d a b g) d a b g (laneInt2 32 (· + ·)) s

/-- `vsub.i32` (R187). -/
def execVsubI32 (rl : Bool) (d : VDst) (a b : VSrc) (g : Guard) (s : State) :
    Host.Outcome State Fault Refusal :=
  vec2 (.vsubI32 rl d a b g) d a b g (laneInt2 32 (· - ·)) s

/-- `vmul.i32` (R187). -/
def execVmulI32 (rl : Bool) (d : VDst) (a b : VSrc) (g : Guard) (s : State) :
    Host.Outcome State Fault Refusal :=
  vec2 (.vmulI32 rl d a b g) d a b g (laneInt2 32 (· * ·)) s

/-- `vmulh.i32` (R187). -/
def execVmulhI32 (rl : Bool) (d : VDst) (a b : VSrc) (g : Guard) (s : State) :
    Host.Outcome State Fault Refusal :=
  vec2 (.vmulhI32 rl d a b g) d a b g (laneInt2 32 fun x y => x * y / 2 ^ 32) s

/-- `vmin.i32` (R187). -/
def execVminI32 (rl : Bool) (d : VDst) (a b : VSrc) (g : Guard) (s : State) :
    Host.Outcome State Fault Refusal :=
  vec2 (.vminI32 rl d a b g) d a b g (laneInt2 32 min) s

/-- `vmax.i32` (R187). -/
def execVmaxI32 (rl : Bool) (d : VDst) (a b : VSrc) (g : Guard) (s : State) :
    Host.Outcome State Fault Refusal :=
  vec2 (.vmaxI32 rl d a b g) d a b g (laneInt2 32 max) s

/-- `vminu.i32` (R187). -/
def execVminuI32 (rl : Bool) (d : VDst) (a b : VSrc) (g : Guard) (s : State) :
    Host.Outcome State Fault Refusal :=
  vec2 (.vminuI32 rl d a b g) d a b g (laneUns2 32 min) s

/-- `vmaxu.i32` (R187). -/
def execVmaxuI32 (rl : Bool) (d : VDst) (a b : VSrc) (g : Guard) (s : State) :
    Host.Outcome State Fault Refusal :=
  vec2 (.vmaxuI32 rl d a b g) d a b g (laneUns2 32 max) s

/-- `vadds.i32` (R187). -/
def execVaddsI32 (rl : Bool) (d : VDst) (a b : VSrc) (g : Guard) (s : State) :
    Host.Outcome State Fault Refusal :=
  vec2 (.vaddsI32 rl d a b g) d a b g (laneSat2 32 (· + ·)) s

/-- `vsubs.i32` (R187). -/
def execVsubsI32 (rl : Bool) (d : VDst) (a b : VSrc) (g : Guard) (s : State) :
    Host.Outcome State Fault Refusal :=
  vec2 (.vsubsI32 rl d a b g) d a b g (laneSat2 32 (· - ·)) s

/-- `vabs.i32` (R187). -/
def execVabsI32 (rl : Bool) (d : VDst) (a : VSrc) (g : Guard) (s : State) :
    Host.Outcome State Fault Refusal :=
  vec1 (.vabsI32 rl d a g) d a g (laneInt1 32 fun x => (x.natAbs : Int)) s

/-- `vneg.i32` (R187). -/
def execVnegI32 (rl : Bool) (d : VDst) (a : VSrc) (g : Guard) (s : State) :
    Host.Outcome State Fault Refusal :=
  vec1 (.vnegI32 rl d a g) d a g (laneInt1 32 fun x => -x) s

/-- `vadd.i16` (R187). -/
def execVaddI16 (rl : Bool) (d : VDst) (a b : VSrc) (g : Guard) (s : State) :
    Host.Outcome State Fault Refusal :=
  vec2 (.vaddI16 rl d a b g) d a b g (laneInt2 16 (· + ·)) s

/-- `vsub.i16` (R187). -/
def execVsubI16 (rl : Bool) (d : VDst) (a b : VSrc) (g : Guard) (s : State) :
    Host.Outcome State Fault Refusal :=
  vec2 (.vsubI16 rl d a b g) d a b g (laneInt2 16 (· - ·)) s

/-- `vmul.i16` (R187). -/
def execVmulI16 (rl : Bool) (d : VDst) (a b : VSrc) (g : Guard) (s : State) :
    Host.Outcome State Fault Refusal :=
  vec2 (.vmulI16 rl d a b g) d a b g (laneInt2 16 (· * ·)) s

/-- `vmulh.i16` (R187). -/
def execVmulhI16 (rl : Bool) (d : VDst) (a b : VSrc) (g : Guard) (s : State) :
    Host.Outcome State Fault Refusal :=
  vec2 (.vmulhI16 rl d a b g) d a b g (laneInt2 16 fun x y => x * y / 2 ^ 16) s

/-- `vmin.i16` (R187). -/
def execVminI16 (rl : Bool) (d : VDst) (a b : VSrc) (g : Guard) (s : State) :
    Host.Outcome State Fault Refusal :=
  vec2 (.vminI16 rl d a b g) d a b g (laneInt2 16 min) s

/-- `vmax.i16` (R187). -/
def execVmaxI16 (rl : Bool) (d : VDst) (a b : VSrc) (g : Guard) (s : State) :
    Host.Outcome State Fault Refusal :=
  vec2 (.vmaxI16 rl d a b g) d a b g (laneInt2 16 max) s

/-- `vminu.i16` (R187). -/
def execVminuI16 (rl : Bool) (d : VDst) (a b : VSrc) (g : Guard) (s : State) :
    Host.Outcome State Fault Refusal :=
  vec2 (.vminuI16 rl d a b g) d a b g (laneUns2 16 min) s

/-- `vmaxu.i16` (R187). -/
def execVmaxuI16 (rl : Bool) (d : VDst) (a b : VSrc) (g : Guard) (s : State) :
    Host.Outcome State Fault Refusal :=
  vec2 (.vmaxuI16 rl d a b g) d a b g (laneUns2 16 max) s

/-- `vadds.i16` (R187). -/
def execVaddsI16 (rl : Bool) (d : VDst) (a b : VSrc) (g : Guard) (s : State) :
    Host.Outcome State Fault Refusal :=
  vec2 (.vaddsI16 rl d a b g) d a b g (laneSat2 16 (· + ·)) s

/-- `vsubs.i16` (R187). -/
def execVsubsI16 (rl : Bool) (d : VDst) (a b : VSrc) (g : Guard) (s : State) :
    Host.Outcome State Fault Refusal :=
  vec2 (.vsubsI16 rl d a b g) d a b g (laneSat2 16 (· - ·)) s

/-- `vabs.i16` (R187). -/
def execVabsI16 (rl : Bool) (d : VDst) (a : VSrc) (g : Guard) (s : State) :
    Host.Outcome State Fault Refusal :=
  vec1 (.vabsI16 rl d a g) d a g (laneInt1 16 fun x => (x.natAbs : Int)) s

/-- `vneg.i16` (R187). -/
def execVnegI16 (rl : Bool) (d : VDst) (a : VSrc) (g : Guard) (s : State) :
    Host.Outcome State Fault Refusal :=
  vec1 (.vnegI16 rl d a g) d a g (laneInt1 16 fun x => -x) s

/-- `vand` (R188). -/
def execVand (rl : Bool) (d : VDst) (a b : VSrc) (g : Guard) (s : State) :
    Host.Outcome State Fault Refusal :=
  vec2 (.vand rl d a b g) d a b g (fun u v => quiet (laneWord2 (fun x y => x &&& y) u v)) s

/-- `vor` (R188). -/
def execVor (rl : Bool) (d : VDst) (a b : VSrc) (g : Guard) (s : State) :
    Host.Outcome State Fault Refusal :=
  vec2 (.vor rl d a b g) d a b g (fun u v => quiet (laneWord2 (fun x y => x ||| y) u v)) s

/-- `vxor` (R188). -/
def execVxor (rl : Bool) (d : VDst) (a b : VSrc) (g : Guard) (s : State) :
    Host.Outcome State Fault Refusal :=
  vec2 (.vxor rl d a b g) d a b g (fun u v => quiet (laneWord2 (fun x y => x ^^^ y) u v)) s

/-- `vandn` (R188). -/
def execVandn (rl : Bool) (d : VDst) (a b : VSrc) (g : Guard) (s : State) :
    Host.Outcome State Fault Refusal :=
  vec2 (.vandn rl d a b g) d a b g (fun u v => quiet (laneWord2 (fun x y => x &&& ~~~y) u v)) s

/-- `vshl` (R188). -/
def execVshl (rl : Bool) (d : VDst) (a b : VSrc) (g : Guard) (s : State) :
    Host.Outcome State Fault Refusal :=
  vec2 (.vshl rl d a b g) d a b g (fun u v => quiet (laneWord2 (fun x y => x <<< (y.toNat % 32)) u v)) s

/-- `vshr` (R188). -/
def execVshr (rl : Bool) (d : VDst) (a b : VSrc) (g : Guard) (s : State) :
    Host.Outcome State Fault Refusal :=
  vec2 (.vshr rl d a b g) d a b g (fun u v => quiet (laneWord2 (fun x y => x >>> (y.toNat % 32)) u v)) s

/-- `vsra` (R188). -/
def execVsra (rl : Bool) (d : VDst) (a b : VSrc) (g : Guard) (s : State) :
    Host.Outcome State Fault Refusal :=
  vec2 (.vsra rl d a b g) d a b g (fun u v => quiet (laneWord2 (fun x y => x.sshiftRight (y.toNat % 32)) u v)) s

/-- `vnot` (R188). -/
def execVnot (rl : Bool) (d : VDst) (a : VSrc) (g : Guard) (s : State) :
    Host.Outcome State Fault Refusal :=
  vec1 (.vnot rl d a g) d a g (fun u => quiet (laneWord2 (fun x _ => ~~~x) u u)) s

/-- `vceq.f32` (R189). -/
def execVceqF32 (rl : Bool) (d : VDst) (a b : VSrc) (g : Guard) (s : State) :
    Host.Outcome State Fault Refusal :=
  vec2 (.vceqF32 rl d a b g) d a b g (fun u v => quiet (laneWord2 (fun x y => maskOf (feq x y)) u v)) s

/-- `vcne.f32` (R189). -/
def execVcneF32 (rl : Bool) (d : VDst) (a b : VSrc) (g : Guard) (s : State) :
    Host.Outcome State Fault Refusal :=
  vec2 (.vcneF32 rl d a b g) d a b g (fun u v => quiet (laneWord2 (fun x y => maskOf (!feq x y)) u v)) s

/-- `vclt.f32` (R189). -/
def execVcltF32 (rl : Bool) (d : VDst) (a b : VSrc) (g : Guard) (s : State) :
    Host.Outcome State Fault Refusal :=
  vec2 (.vcltF32 rl d a b g) d a b g (fun u v => quiet (laneWord2 (fun x y => maskOf (flt x y)) u v)) s

/-- `vcle.f32` (R189). -/
def execVcleF32 (rl : Bool) (d : VDst) (a b : VSrc) (g : Guard) (s : State) :
    Host.Outcome State Fault Refusal :=
  vec2 (.vcleF32 rl d a b g) d a b g (fun u v => quiet (laneWord2 (fun x y => maskOf (fle x y)) u v)) s

/-- `vceq.i32` (R189). -/
def execVceqI32 (rl : Bool) (d : VDst) (a b : VSrc) (g : Guard) (s : State) :
    Host.Outcome State Fault Refusal :=
  vec2 (.vceqI32 rl d a b g) d a b g (fun u v => quiet (laneWord2 (fun x y => maskOf (x == y)) u v)) s

/-- `vcne.i32` (R189). -/
def execVcneI32 (rl : Bool) (d : VDst) (a b : VSrc) (g : Guard) (s : State) :
    Host.Outcome State Fault Refusal :=
  vec2 (.vcneI32 rl d a b g) d a b g (fun u v => quiet (laneWord2 (fun x y => maskOf (x != y)) u v)) s

/-- `vclt.i32` (R189). -/
def execVcltI32 (rl : Bool) (d : VDst) (a b : VSrc) (g : Guard) (s : State) :
    Host.Outcome State Fault Refusal :=
  vec2 (.vcltI32 rl d a b g) d a b g (fun u v => quiet (laneWord2 (fun x y => maskOf (x.slt y)) u v)) s

/-- `vcle.i32` (R189). -/
def execVcleI32 (rl : Bool) (d : VDst) (a b : VSrc) (g : Guard) (s : State) :
    Host.Outcome State Fault Refusal :=
  vec2 (.vcleI32 rl d a b g) d a b g (fun u v => quiet (laneWord2 (fun x y => maskOf (x.sle y)) u v)) s

/-- `vclt.ui32` (R189). -/
def execVcltUi32 (rl : Bool) (d : VDst) (a b : VSrc) (g : Guard) (s : State) :
    Host.Outcome State Fault Refusal :=
  vec2 (.vcltUi32 rl d a b g) d a b g (fun u v => quiet (laneWord2 (fun x y => maskOf (x.ult y)) u v)) s

/-- `vcle.ui32` (R189). -/
def execVcleUi32 (rl : Bool) (d : VDst) (a b : VSrc) (g : Guard) (s : State) :
    Host.Outcome State Fault Refusal :=
  vec2 (.vcleUi32 rl d a b g) d a b g (fun u v => quiet (laneWord2 (fun x y => maskOf (x.ule y)) u v)) s

/-- `vsel` (R190). -/
def execVsel (rl : Bool) (d : VDst) (a b : VSrc) (g : Guard) (s : State) :
    Host.Outcome State Fault Refusal :=
  vec3 (.vsel rl d a b g) d a b g (fun u v m => quiet (laneSel m u v)) s

/-! ## Conversions (R191) -/

/-- `vcvt.bf16.f32` (R191). -/
def execVcvtBf16F32 (rl : Bool) (d : VDst) (a : VSrc) (part : BitVec 3) (mode : RMode) (g : Guard) (s : State) :
    Host.Outcome State Fault Refusal :=
  vecMerge (.vcvtBf16F32 rl d a part mode g) d a g (laneNarrow 16 part.toNat fun n => convF .bf16 mode (decF .f32 n)) s

/-- `vcvt.f16.f32` (R191). -/
def execVcvtF16F32 (rl : Bool) (d : VDst) (a : VSrc) (part : BitVec 3) (mode : RMode) (g : Guard) (s : State) :
    Host.Outcome State Fault Refusal :=
  vecMerge (.vcvtF16F32 rl d a part mode g) d a g (laneNarrow 16 part.toNat fun n => convF .f16 mode (decF .f32 n)) s

/-- `vcvt.e4.f32` (R191). -/
def execVcvtE4F32 (rl : Bool) (d : VDst) (a : VSrc) (part : BitVec 3) (mode : RMode) (g : Guard) (s : State) :
    Host.Outcome State Fault Refusal :=
  vecMerge (.vcvtE4F32 rl d a part mode g) d a g (laneNarrow 8 part.toNat fun n => convF .e4m3 mode (decF .f32 n)) s

/-- `vcvt.e5.f32` (R191). -/
def execVcvtE5F32 (rl : Bool) (d : VDst) (a : VSrc) (part : BitVec 3) (mode : RMode) (g : Guard) (s : State) :
    Host.Outcome State Fault Refusal :=
  vecMerge (.vcvtE5F32 rl d a part mode g) d a g (laneNarrow 8 part.toNat fun n => convF .e5m2 mode (decF .f32 n)) s

/-- `vcvt.f4.f32` (R191). -/
def execVcvtF4F32 (rl : Bool) (d : VDst) (a : VSrc) (part : BitVec 3) (mode : RMode) (g : Guard) (s : State) :
    Host.Outcome State Fault Refusal :=
  vecMerge (.vcvtF4F32 rl d a part mode g) d a g (laneNarrow 4 part.toNat fun n => convF .e2m1 mode (decF .f32 n)) s

/-- `vcvt.f32.bf16` (R191). -/
def execVcvtF32Bf16 (rl : Bool) (d : VDst) (a : VSrc) (part : BitVec 3) (mode : RMode) (g : Guard) (s : State) :
    Host.Outcome State Fault Refusal :=
  vec1 (.vcvtF32Bf16 rl d a part mode g) d a g (laneWiden .bf16 part.toNat) s

/-- `vcvt.f32.f16` (R191). -/
def execVcvtF32F16 (rl : Bool) (d : VDst) (a : VSrc) (part : BitVec 3) (mode : RMode) (g : Guard) (s : State) :
    Host.Outcome State Fault Refusal :=
  vec1 (.vcvtF32F16 rl d a part mode g) d a g (laneWiden .f16 part.toNat) s

/-- `vcvt.f32.e4` (R191). -/
def execVcvtF32E4 (rl : Bool) (d : VDst) (a : VSrc) (part : BitVec 3) (mode : RMode) (g : Guard) (s : State) :
    Host.Outcome State Fault Refusal :=
  vec1 (.vcvtF32E4 rl d a part mode g) d a g (laneWiden .e4m3 part.toNat) s

/-- `vcvt.f32.e5` (R191). -/
def execVcvtF32E5 (rl : Bool) (d : VDst) (a : VSrc) (part : BitVec 3) (mode : RMode) (g : Guard) (s : State) :
    Host.Outcome State Fault Refusal :=
  vec1 (.vcvtF32E5 rl d a part mode g) d a g (laneWiden .e5m2 part.toNat) s

/-- `vcvt.f32.f4` (R191). -/
def execVcvtF32F4 (rl : Bool) (d : VDst) (a : VSrc) (part : BitVec 3) (mode : RMode) (g : Guard) (s : State) :
    Host.Outcome State Fault Refusal :=
  vec1 (.vcvtF32F4 rl d a part mode g) d a g (laneWiden .e2m1 part.toNat) s

/-- `vcvt.i32.f32` (R191). -/
def execVcvtI32F32 (rl : Bool) (d : VDst) (a : VSrc) (part : BitVec 3) (mode : RMode) (g : Guard) (s : State) :
    Host.Outcome State Fault Refusal :=
  vec1 (.vcvtI32F32 rl d a part mode g) d a g (laneToInt (-2147483648) 2147483647 mode) s

/-- `vcvt.ui32.f32` (R191). -/
def execVcvtUi32F32 (rl : Bool) (d : VDst) (a : VSrc) (part : BitVec 3) (mode : RMode) (g : Guard) (s : State) :
    Host.Outcome State Fault Refusal :=
  vec1 (.vcvtUi32F32 rl d a part mode g) d a g (laneToInt 0 4294967295 mode) s

/-- `vcvt.f32.i32` (R191). -/
def execVcvtF32I32 (rl : Bool) (d : VDst) (a : VSrc) (part : BitVec 3) (mode : RMode) (g : Guard) (s : State) :
    Host.Outcome State Fault Refusal :=
  vec1 (.vcvtF32I32 rl d a part mode g) d a g (laneFromInt true mode) s

/-- `vcvt.f32.ui32` (R191). -/
def execVcvtF32Ui32 (rl : Bool) (d : VDst) (a : VSrc) (part : BitVec 3) (mode : RMode) (g : Guard) (s : State) :
    Host.Outcome State Fault Refusal :=
  vec1 (.vcvtF32Ui32 rl d a part mode g) d a g (laneFromInt false mode) s

/-- `vcvt.i8.i32` (R191). -/
def execVcvtI8I32 (rl : Bool) (d : VDst) (a : VSrc) (part : BitVec 3) (mode : RMode) (g : Guard) (s : State) :
    Host.Outcome State Fault Refusal :=
  vecMerge (.vcvtI8I32 rl d a part mode g) d a g (laneNarrow 8 part.toNat fun n => satI 8 (sgn 32 n)) s

/-- `vcvt.i16.i32` (R191). -/
def execVcvtI16I32 (rl : Bool) (d : VDst) (a : VSrc) (part : BitVec 3) (mode : RMode) (g : Guard) (s : State) :
    Host.Outcome State Fault Refusal :=
  vecMerge (.vcvtI16I32 rl d a part mode g) d a g (laneNarrow 16 part.toNat fun n => satI 16 (sgn 32 n)) s

/-! ## Block scales (R192 to R194) -/

/-- `vamax` (R192). -/
def execVamax (n : BitVec 2) (a : VSrc) (g : Guard) (s : State) : Host.Outcome State Fault Refusal :=
  runEng .v (.vamax n a g) g (fun x => do
    let vs ← readSrcs [a]
    modVec fun v => { v with mx := v.mx.set n.toFin (amaxOf v.mx[n.toFin] (vs.getD 0 0)) }
    pure (x.done 0)) s

/-- `vamaxr` (R192). -/
def execVamaxr (d : VDst) (n : BitVec 2) (g : Guard) (s : State) : Host.Outcome State Fault Refusal :=
  runEng .v (.vamaxr d n g) g (fun x => do
    roomFor d
    let m := (← getCore).vec.mx[n.toFin]
    modVec fun v => { v with mx := v.mx.set n.toFin 0 }
    putResult d (quiet (bcast m)) x) s

/-- `vquant.e4` (R193).
Log entry 73: DEDUCED, safe. -/
def execVquantE4 (d : VDst) (a : VSrc) (bs : BlkG) (g : Guard) (s : State) : Host.Outcome State Fault Refusal :=
  vec1 (.vquantE4 d a bs g) d a g (laneQuant .e4m3 bs) s

/-- `vdeq.e4` (R194). -/
def execVdeqE4 (d : VDst) (a : VSrc) (bs : BlkG) (g : Guard) (s : State) : Host.Outcome State Fault Refusal :=
  vec1 (.vdeqE4 d a bs g) d a g (laneDeq .e4m3 bs) s

/-- `vquant.e5` (R193). -/
def execVquantE5 (d : VDst) (a : VSrc) (bs : BlkG) (g : Guard) (s : State) : Host.Outcome State Fault Refusal :=
  vec1 (.vquantE5 d a bs g) d a g (laneQuant .e5m2 bs) s

/-- `vdeq.e5` (R194). -/
def execVdeqE5 (d : VDst) (a : VSrc) (bs : BlkG) (g : Guard) (s : State) : Host.Outcome State Fault Refusal :=
  vec1 (.vdeqE5 d a bs g) d a g (laneDeq .e5m2 bs) s

/-- `vquant.f4` (R193). -/
def execVquantF4 (d : VDst) (a : VSrc) (bs : BlkG) (g : Guard) (s : State) : Host.Outcome State Fault Refusal :=
  vec1 (.vquantF4 d a bs g) d a g (laneQuant .e2m1 bs) s

/-- `vdeq.f4` (R194). -/
def execVdeqF4 (d : VDst) (a : VSrc) (bs : BlkG) (g : Guard) (s : State) : Host.Outcome State Fault Refusal :=
  vec1 (.vdeqF4 d a bs g) d a g (laneDeq .e2m1 bs) s

/-! ## Reductions, permutes and moves (R195 to R197) -/

/-- `vrsum.f32` (R195). -/
def execVrsumF32 (d : VDst) (a : VSrc) (g : Guard) (s : State) : Host.Outcome State Fault Refusal :=
  vec1 (.vrsumF32 d a g) d a g (laneReduce (fun x y => addF .f32 (decF .f32 x) (decF .f32 y))) s

/-- `vrmax.f32` (R195). -/
def execVrmaxF32 (d : VDst) (a : VSrc) (g : Guard) (s : State) : Host.Outcome State Fault Refusal :=
  vec1 (.vrmaxF32 d a g) d a g (laneReduce (fun x y => (totalMax 32 x y, 0))) s

/-- `vrmin.f32` (R195). -/
def execVrminF32 (d : VDst) (a : VSrc) (g : Guard) (s : State) : Host.Outcome State Fault Refusal :=
  vec1 (.vrminF32 d a g) d a g (laneReduce (fun x y => (totalMin 32 x y, 0))) s

/-- `vrsum.i32` (R195). -/
def execVrsumI32 (d : VDst) (a : VSrc) (g : Guard) (s : State) : Host.Outcome State Fault Refusal :=
  vec1 (.vrsumI32 d a g) d a g (laneReduce (fun x y => ((x + y) % 2 ^ 32, 0))) s

/-- `vrmax.i32` (R195). -/
def execVrmaxI32 (d : VDst) (a : VSrc) (g : Guard) (s : State) : Host.Outcome State Fault Refusal :=
  vec1 (.vrmaxI32 d a g) d a g (laneReduce (fun x y => (if sgn 32 x < sgn 32 y then y else x, 0))) s

/-- `vrmin.i32` (R195). -/
def execVrminI32 (d : VDst) (a : VSrc) (g : Guard) (s : State) : Host.Outcome State Fault Refusal :=
  vec1 (.vrminI32 d a g) d a g (laneReduce (fun x y => (if sgn 32 y < sgn 32 x then y else x, 0))) s

/-- `vperm` (R196). -/
def execVperm (rl : Bool) (d : VDst) (a b : VSrc) (g : Guard) (s : State) :
    Host.Outcome State Fault Refusal :=
  vec2 (.vperm rl d a b g) d a b g (fun u v => quiet (lanePerm u v)) s

/-- `vbcast` (R196). -/
def execVbcast (rl : Bool) (d : VDst) (a : VSrc) (n : BitVec 6) (g : Guard) (s : State) :
    Host.Outcome State Fault Refusal :=
  vec1 (.vbcast rl d a n g) d a g (fun u => quiet (laneBcast u n.toNat)) s

/-- `vext` (R196). -/
def execVext (rl : Bool) (d : VDst) (a : VSrc) (n : BitVec 6) (g : Guard) (s : State) :
    Host.Outcome State Fault Refusal :=
  vec1 (.vext rl d a n g) d a g (fun u => quiet (laneExt u n.toNat)) s

/-- `vins` (R196). -/
def execVins (rl : Bool) (d : VDst) (a : VSrc) (n : BitVec 6) (g : Guard) (s : State) :
    Host.Outcome State Fault Refusal :=
  vecMerge (.vins rl d a n g) d a g (fun u v => quiet (laneIns u v n.toNat)) s

/-- `vmov` (R197). -/
def execVmov (d : VDst) (a : VSrc) (g : Guard) (s : State) : Host.Outcome State Fault Refusal :=
  vec1 (.vmov d a g) d a g quiet s

/-- `vsetview` (R197): its source is named through the old view. -/
def execVsetview (a : VSrc) (g : Guard) (s : State) : Host.Outcome State Fault Refusal :=
  runEng .v (.vsetview a g) g (fun x => do
    let vs ← readSrcs [a]
    modVec fun v => { v with vview := BitVec.ofNat 8 (vs.getD 0 0).toNat }
    pure (x.done 0)) s

/-- `vsetwview` (R197). -/
def execVsetwview (a : VSrc) (g : Guard) (s : State) : Host.Outcome State Fault Refusal :=
  runEng .v (.vsetwview a g) g (fun x => do
    let vs ← readSrcs [a]
    modVec fun v => { v with wview := BitVec.ofNat 8 (vs.getD 0 0).toNat }
    pure (x.done 0)) s

/-- `vgetview` (R197). -/
def execVgetview (d : VDst) (g : Guard) (s : State) : Host.Outcome State Fault Refusal :=
  runEng .v (.vgetview d g) g (fun x => do
    let v := (← getCore).vec
    vecOp [] d (fun _ => quiet (bcast (BitVec.ofNat 32 (v.vview.toNat + 256 * v.wview.toNat)))) x) s

/-! ## Conditional streams (R201) -/

/-- The records `vcpush` appends: the lanes of a where b is not zero. -/
def pushed (a b : VReg) : List Word := (List.range 64).filterMap fun i => if lane b i ≠ 0 then some (lane a i) else none

/-- `vcpush` (R201). -/
def execVcpush (a b : VSrc) (g : Guard) (s : State) : Host.Outcome State Fault Refusal :=
  runEng .v (.vcpush a b g) g (fun x => do
    let vs ← readSrcs [a, b]
    let ws := pushed (vs.getD 0 0) (vs.getD 1 0)
    let v := (← getCore).vec
    trapIf (decide (1024 < v.cond.length + ws.length)) .queue 16
    modVec fun v => { v with cond := v.cond ++ ws }
    pure (x.done 0)) s

/-- `vcpop` (R201). -/
def execVcpop (d : VDst) (g : Guard) (s : State) : Host.Outcome State Fault Refusal :=
  runEng .v (.vcpop d g) g (fun x => do
    roomFor d
    let ws := (← getCore).vec.cond
    modVec fun v => { v with cond := ws.drop 64 }
    putResult d (quiet (mkLanes fun i => ws.getD i 0)) x) s

/-- `vccnt` (R201). -/
def execVccnt (d : VDst) (g : Guard) (s : State) : Host.Outcome State Fault Refusal :=
  runEng .v (.vccnt d g) g (fun x => do
    let n := (← getCore).vec.cond.length
    vecOp [] d (fun _ => quiet (bcast (BitVec.ofNat 32 n))) x) s

/-! ## Immediates and exponent helpers (R202, R203) -/

/-- `vimm` (R202). -/
def execVimm (fmt : BitVec 2) (d : VDst) (imm : Half) (g : BitVec 2) (s : State) : Host.Outcome State Fault Refusal :=
  runEng .v (.vimm fmt d imm g) (0#2 ++ g) (vecOp [] d fun _ => quiet (bcast (imm ++ imm))) s

/-- `vxexp` (R203). -/
def execVxexp (d : VDst) (a : VSrc) (g : Guard) (s : State) : Host.Outcome State Fault Refusal :=
  vec1 (.vxexp d a g) d a g (map1 32 xexpW) s

/-- `vxmant` (R203). -/
def execVxmant (d : VDst) (a : VSrc) (g : Guard) (s : State) : Host.Outcome State Fault Refusal :=
  vec1 (.vxmant d a g) d a g (map1 32 xmantW) s

/-- `vldexp` (R203). -/
def execVldexp (d : VDst) (a b : VSrc) (g : Guard) (s : State) : Host.Outcome State Fault Refusal :=
  vec2 (.vldexp d a b g) d a b g (map2 32 ldexpW) s

/-! ## Guards (R144) -/

/-- What `vgset` makes of a vector. -/
def gsetValue (mode : GsetMode) (v : VReg) : Bool :=
  match mode with
  | .any => (lanesOf v).any (· != 0)
  | .all => (lanesOf v).all (· != 0)
  | .lane0 => lane v 0 != 0

/-- `vgset` (R144). -/
def execVgset (mode : GsetMode) (n : Guard) (a : VSrc) (g : Guard) (s : State) : Host.Outcome State Fault Refusal :=
  runEng .v (.vgset mode n a g) g (fun x => do
    let vs ← readSrcs [a]
    trapIf (!((← getCore).pair n).isOpen) .guard (n.zeroExtend 64)
    modCore fun c => c.resolve n (gsetValue mode (vs.getD 0 0))
    pure (x.done 0)) s

end Sys2Proof.Machine
end

