-- ==== Sys2Proof/Machine/VecMem.lean ====
section
/-! DEFINITION. Machine/VecMem.lean: the words of the V slot on XS and on accumulator rows, and the count of XS bank
conflicts (R198 to R200, R204, R230, R302). -/

namespace Sys2Proof.Machine

/-! ## Bank conflicts (R230) -/

/-- The cycles a read of distinct 256-byte chunks loses to conflicts. -/
def chunkLoss (chunks : List Nat) : Nat :=
  let cs := chunks.eraseDups
  let port := fun p => (cs.filter fun k => k % 4 = p).length
  max (max (port 0) (port 1)) (max (port 2) (port 3)) - (cs.length + 3) / 4

/-- LYCONF counts what a read of the address generator lost; it is performance event 6 (R448).
Log entry 69: DESIGN CHOICE, safe. -/
def countConflicts (chunks : List Nat) : M Unit := modS fun s =>
  let n := chunkLoss chunks
  (s.modCore fun c => { c with lyconf := BitVec.ofNat 32 (min (c.lyconf.toNat + n) 0xFFFFFFFF) }).perfCount 6 n

/-- The chunks of a range. -/
def chunksOf (a n : Nat) : List Nat := (List.range ((a + n - 1) / 256 + 1 - a / 256)).map (a / 256 + ·)

/-! ## Addresses (R198) -/

/-- An address of a vector access: a multiple of 4, all of its bytes in the XS a program may access. The sum is exact,
and TINFO has its 64-bit two's complement.
Log entry 104: DESIGN CHOICE, unsafe. -/
def checkVecAddr (a : Int) (n : Nat) : M Nat := do
  trapIf (decide (a % 4 ≠ 0)) .misalign (BitVec.ofInt 64 a)
  trapIf (decide (a < 0) || decide (((← getCore).barBase : Int) < a + n)) .window (BitVec.ofInt 64 a)
  pure a.toNat

/-- The record's space is XS. -/
def checkVecSpace (r : BitVec 512) : M Unit := trapIf (decide (lySpace r ≠ 0)) .window (BitVec.ofNat 64 (lyBase r))

/-- The address of a one-address access. -/
def vecAddr (r : BitVec 512) (k size : Nat) : M Nat := do
  checkVecSpace r
  checkVecAddr (lyBase r + size * k) size

/-- The 64 addresses of a strided access, each checked in lane order (R199). -/
def stridedAddrs (r : BitVec 512) (k : Nat) : M (List Nat) := do
  checkVecSpace r
  mapM' (fun (i : Nat) => checkVecAddr (lyBase r + k * lyStride r 1 + i * lyStride r 0) 4) (List.range 64)

/-- The element an index names (R200). -/
def indexAddr (r : BitVec 512) (j : Nat) : Int :=
  let (e0, e1, e2, e3) := lyCoords r j
  lyBase r + e0 * lyStride r 0 + e1 * lyStride r 1 + e2 * lyStride r 2 + e3 * lyStride r 3

/-- The addresses of a gather or scatter, each index and address checked in lane order (R200). -/
def indexedAddrs (r : BitVec 512) (idx : VReg) : M (List Nat) := do
  checkVecSpace r
  mapM' (fun (i : Nat) => do
    let j := (lane idx i).toNat
    trapIf (decide (lyCount r ≤ j)) .window (BitVec.ofNat 64 (lyBase r + 4 * j))
    checkVecAddr (indexAddr r j) 4) (List.range 64)

/-- Words read at addresses. -/
def readLanes (as : List Nat) : M VReg := do
  let m := (← getCore).xs
  countConflicts (as.map (· / 256))
  pure (ofElems 32 (as.map fun a => readLE m a 4))

/-- Words written at addresses, in lane order. -/
def writeLanes (as : List Nat) (v : VReg) : M Unit :=
  modCore fun c => { c with xs := as.zipIdx.foldl (fun m p => writeLE m p.1 4 (elemN 32 v p.2)) c.xs }

/-! ## The words -/

/-- `vld` (R198). -/
def execVld (rl : Bool) (d : VDst) (n : BitVec 3) (k : BitVec 6) (g : Guard) (s : State) :
    Host.Outcome State Fault Refusal :=
  runEng .v (.vld rl d n k g) g (fun x => do
    let a ← vecAddr (x.snap.lyr n) k.toNat 256
    roomFor d
    countConflicts (chunksOf a 256)
    let m := (← getCore).xs
    putResult d (quiet (BitVec.ofNat 2048 (readLE m a 256))) x) s

/-- `vld.w` (R180, R198): LRL stays as it was. -/
def execVldW (rl : Bool) (w : BitVec 2) (n : BitVec 3) (k : BitVec 6) (g : Guard) (s : State) :
    Host.Outcome State Fault Refusal :=
  runEng .v (.vldW rl w n k g) g (fun x => do
    let a ← vecAddr (x.snap.lyr n) k.toNat 1024
    countConflicts (chunksOf a 1024)
    let m := (← getCore).xs
    modVec fun v => (List.range 4).foldl (fun v j =>
      v.setRow (v.rowW w j) (BitVec.ofNat 2048 (readLE m (a + 256 * j) 256))) v
    pure (x.done 0)) s

/-- `vst` (R198). -/
def execVst (rl : Bool) (n : BitVec 3) (a : VSrc) (k : BitVec 6) (g : Guard) (s : State) :
    Host.Outcome State Fault Refusal :=
  runEng .v (.vst rl n a k g) g (fun x => do
    let at_ ← vecAddr (x.snap.lyr n) k.toNat 256
    let vs ← readSrcs [a]
    modCore fun c => { c with xs := writeLE c.xs at_ 256 (vs.getD 0 0).toNat }
    pure (x.done 0)) s

/-- `vst.w` (R198). -/
def execVstW (rl : Bool) (n : BitVec 3) (w : BitVec 2) (k : BitVec 6) (g : Guard) (s : State) :
    Host.Outcome State Fault Refusal :=
  runEng .v (.vstW rl n w k g) g (fun x => do
    let at_ ← vecAddr (x.snap.lyr n) k.toNat 1024
    modCore fun c => { c with xs := (List.range 4).foldl (fun m j =>
      writeLE m (at_ + 256 * j) 256 (c.vec.row (c.vec.rowW w j)).toNat) c.xs }
    pure (x.done 0)) s

/-- `vlds` (R199). -/
def execVlds (rl : Bool) (d : VDst) (n : BitVec 3) (k : BitVec 6) (g : Guard) (s : State) :
    Host.Outcome State Fault Refusal :=
  runEng .v (.vlds rl d n k g) g (fun x => do
    let as ← stridedAddrs (x.snap.lyr n) k.toNat
    roomFor d
    let v ← readLanes as
    putResult d (quiet v) x) s

/-- `vsts` (R199). -/
def execVsts (rl : Bool) (n : BitVec 3) (a : VSrc) (k : BitVec 6) (g : Guard) (s : State) :
    Host.Outcome State Fault Refusal :=
  runEng .v (.vsts rl n a k g) g (fun x => do
    let as ← stridedAddrs (x.snap.lyr n) k.toNat
    let vs ← readSrcs [a]
    writeLanes as (vs.getD 0 0)
    pure (x.done 0)) s

/-- `vgath` (R200). It waits for room in its destination and for its queue entries before it checks the record's space.
Log entry 105: DESIGN CHOICE, unsafe. -/
def execVgath (rl : Bool) (d : VDst) (n : BitVec 3) (b : VSrc) (g : Guard) (s : State) :
    Host.Outcome State Fault Refusal :=
  runEng .v (.vgath rl d n b g) g (fun x => do
    roomFor d
    let vs ← readSrcs [b]
    let as ← indexedAddrs (x.snap.lyr n) (vs.getD 0 0)
    let v ← readLanes as
    putResult d (quiet v) x) s

/-- `vscat` (R200). It waits for its queue entries before it checks the record's space.
Log entry 105: DESIGN CHOICE, unsafe. -/
def execVscat (rl : Bool) (n : BitVec 3) (a b : VSrc) (g : Guard) (s : State) : Host.Outcome State Fault Refusal :=
  runEng .v (.vscat rl n a b g) g (fun x => do
    let vs ← readSrcs [a, b]
    let as ← indexedAddrs (x.snap.lyr n) (vs.getD 1 0)
    writeLanes as (vs.getD 0 0)
    pure (x.done 0)) s

/-- A tile is declared (R104, R204). -/
def checkTile (t : BitVec 3) : M Unit := do trapIf (decide ((← getCore).acct ≤ t.toNat)) .window (t.zeroExtend 64)

/-- `vacc.rd` (R204). -/
def execVaccRd (d : VDst) (t : BitVec 3) (row : BitVec 6) (g : Guard) (s : State) : Host.Outcome State Fault Refusal :=
  runEng .v (.vaccRd d t row g) g (fun x => do
    checkTile t
    roomFor d
    let v := (← getCore).accRow t.toNat row.toNat
    putResult d (quiet v) x) s

/-- `vacc.wr` (R204). -/
def execVaccWr (t : BitVec 3) (a : VSrc) (row : BitVec 6) (g : Guard) (s : State) : Host.Outcome State Fault Refusal :=
  runEng .v (.vaccWr t a row g) g (fun x => do
    checkTile t
    let vs ← readSrcs [a]
    modCore fun c => c.setAccRow t.toNat row.toNat (vs.getD 0 0)
    pure (x.done 0)) s

end Sys2Proof.Machine
end

