-- ==== Sys2Proof/Machine/Array.lean ====
section
/-! DEFINITION. Machine/Array.lean: the operands of the matrix array and one K-step of its fold (R41 to R46, R218,
R225 to R239, R430). -/

namespace Sys2Proof.Machine

/-! ## Issue and start checks (R41, R104, R227 to R229, R233) -/

/-- Address ranges in ascending order of their first byte. -/
def insertRange (a : Int × Nat) : List (Int × Nat) → List (Int × Nat)
  | [] => [a]
  | b :: bs => if a.1 ≤ b.1 then a :: b :: bs else b :: insertRange a bs

/-- Ranges of XS lie in what a program may access, or WINDOW with the first offending local address (R104). -/
def checkXsRanges (rs : List (Int × Nat)) : M Unit := do
  let e : Int := (← getCore).barBase
  forM' (fun (r : Int × Nat) =>
    trapIf (decide (r.1 < 0) || decide (e < r.1 + r.2)) .window
      (BitVec.ofNat 64 (wrapI 32 (if r.1 < 0 then r.1 else max r.1 e)))) (rs.foldr insertRange [])

/-- The lines of an operand record: from line lo, at most n of them, with the bytes of k elements each (R225). -/
def operandLines (r : BitVec 512) (lo n k : Nat) : List (Int × Nat) :=
  let bytes := lineBytes (lyFmt r) (min k (lyExt r 0))
  (List.range (min n (lyExt r 1 - lo))).map fun i => (lyOrigin r + (lo + i : Nat) * lyStride r 1, bytes)

/-- An LY operand at issue (R229): its space, with the TINFO BASE; in XS its lines and scales; its alignment; in global
memory, after these and before the profile, the form of its addresses (R228).
Log entry 107: DESIGN CHOICE, unsafe. Log entry 108: DESIGN CHOICE, unsafe. -/
def checkOperand (r : BitVec 512) (lines scales : List (Int × Nat)) : M Unit := do
  let base := BitVec.ofNat 64 (lyBase r)
  trapIf (decide (lySpace r ≠ 0) && decide (lySpace r ≠ 3)) .window base
  if lySpace r = 0 then checkXsRanges (lines ++ scales) else pure ()
  let o := lyOrigin r
  trapIf (decide (o % 16 ≠ 0)) .misalign (BitVec.ofInt 64 o)
  trapIf (decide (lyStride r 1 % 16 ≠ 0)) .misalign (BitVec.ofInt 64 (o + lyStride r 1))
  if lySpace r = 3 then
    forM' (fun (a : Int) => trapIf (decide (a < 0) || decide (2 ^ 57 ≤ a)) .page (pageInfo (wrapI 57 a) 0 false))
      ((lyBase r : Int) :: o :: lines.map (·.1))
  else pure ()

/-- The checks of R227 on a record alone: block scales where the format takes none, or none where it needs them. -/
def checkScaling (r : BitVec 512) : M Unit :=
  let f := lyFmt r
  trapIf ((decide (lySg r ≠ 0) && (f == 6 || f == 7 || f == 8)) || (decide (lySg r = 0) && f == 5)) .format
    (BitVec.ofNat 64 (lyBase r))

/-- A B descriptor at issue (R233). -/
def checkImage (d : DWord) : M Unit := do
  let a := BitVec.ofNat 64 (bdAddr d)
  trapIf (!(← getCore).wsOk (bdAddr d) (bdSize d)) .window a
  trapIf (decide (bdAddr d % 64 ≠ 0)) .misalign a

/-- The profile accepts the formats and the planes, or PROFILE (R41, R224). -/
def checkProfile (prof : BitVec 4) (fa fb d : Nat) : M Profile := do
  let four := fun f => f == 3 || f == 4 || f == 5
  let ok := isMmaFmt fa && isMmaFmt fb &&
    match profileOf prof with
    | some .np1 | some .np3 => d == 0
    | some .np2 => d == 0 && four fa && four fb
    | some .np4 => [6, 7, 1, 2, 3].contains fb && decide (d ≤ sigPlanes fb)
    | none => false
  match profileOf prof with
  | some p => if ok then pure p else trapM .profile (BitVec.ofNat 64 (prof.toNat + 16 * d))
  | none => trapM .profile (BitVec.ofNat 64 (prof.toNat + 16 * d))

/-! ## Elements of a layout record (R225, R227, R228, R321, R430) -/

/-- A codebook table as the encodings it holds. -/
def readTableBits (own : Bool) (table : Nat) : M (List Nat) := do
  let cb := (← getCtx).codebooks.toNat
  let xs ← readGlobal own rawFmt (cb + 32 * table) 32
  pure ((List.range 16).map fun k => leNat ((xs.drop (2 * k)).take 2))

/-- Sixteen codebook entries of a table (R321). -/
def readTable (own : Bool) (table : Nat) : M (List Val) := do
  pure ((← readTableBits own table).map (decF .bf16))

/-- The bits of an element of width w at byte offset o of a line; `odd` selects the high nibble. -/
def elemBits (xs : List Byte) (w o : Nat) (odd : Bool) : Nat :=
  if w = 4 then (xs.getD o 0).toNat / (if odd then 16 else 1) % 16 else leNat ((xs.drop o).take (w / 8))

/-- The value of an element's bits, through a codebook table for CB4. -/
def codeVal (code x : Nat) (table : List Val) : Val := if code = 5 then table.getD x (.fin false 0 0) else elemVal code x

/-- The page format under an address whose access has been made. -/
def pageFmtAt (va : Nat) : M Nat := do
  let e ← translate .load va
  pure (leafFmt e.leaf)

/-- The value of an element of a global record, with the page and scale-map checks of R228. -/
def globalElem (r : BitVec 512) (va : Nat) (odd : Bool) (x : Nat) : M Val := do
  let code := lyFmt r
  let f ← pageFmtAt va
  let at_ := BitVec.ofNat 64 va
  if f = 0 then
    trapIf (decide (lySg r ≠ 0) || code == 5) .format at_
    pure (elemVal code x)
  else
    let id := (← getJob).ctx
    match (← getS).smapOf id va with
    | none =>
      trapIf (decide (lySg r ≠ 0)) .format at_
      pure (elemVal code x)
    | some e =>
      trapIf (decide (e.g.toNat ≠ lySg r)) .format at_
      let s ← readScale false e code va odd
      let table ← if code = 5 then readTable false e.cb.toNat else pure []
      pure (scaleV (codeVal code x table) (sc16 s))

/-- The elements of a line, from element ea at most n, that the record has. -/
def lineCount (r : BitVec 512) (line ea n : Nat) : Nat := if lyExt r 1 ≤ line then 0 else min n (lyExt r 0 - ea)

/-- The byte at which element e of a line begins. -/
def elemAddr (r : BitVec 512) (line e : Nat) : Nat :=
  natOf (lyOrigin r + line * lyStride r 1) + e * fmtWidth (lyFmt r) / 8

/-- The bytes that elements ea to ea + n - 1 of a line take: where they begin and how many they are. -/
def lineSpan (r : BitVec 512) (line ea n : Nat) : Nat × Nat :=
  let w := fmtWidth (lyFmt r)
  (elemAddr r line ea, ((ea + lineCount r line ea n) * w + 7) / 8 - ea * w / 8)

/-- Those bytes in pieces of one line of memory. -/
def linePieces (r : BitVec 512) (line ea n : Nat) : List (Nat × Nat) :=
  if lineCount r line ea n = 0 then []
  else
    let (a, nb) := lineSpan r line ea n
    pieces a nb

/-- The elements of a line of a GLOBAL record that begin in one piece: its bytes, then each element's scale and
codebook.
Log entry 67: DESIGN CHOICE, unsafe. -/
def readLinePiece (r : BitVec 512) (line ea n : Nat) (p : Nat × Nat) : M (List Val) := do
  let ys ← readPiece false (rawOr (lyFmt r)) p.1 p.2
  let es := ((List.range (lineCount r line ea n)).map (ea + ·)).filter fun e =>
    p.1 ≤ elemAddr r line e ∧ elemAddr r line e < p.1 + p.2
  mapM' (fun e =>
    let a := elemAddr r line e
    globalElem r a (e % 2 = 1) (elemBits ys (fmtWidth (lyFmt r)) (a - p.1) (e % 2 = 1))) es

/-- Values filled up with +0. -/
def padZero (n : Nat) (xs : List Val) : List Val := xs ++ List.replicate (n - xs.length) (Val.fin false 0 0)

/-- One line of a record from element ea, n elements; elements and lines the record does not have read as +0. In XS
`scale` gives the address of an element's scale; `table` is the codebook of an XS CB4 record. -/
def readLine (r : BitVec 512) (line ea n : Nat) (scale : Nat → Nat) (table : List Val) : M (List Val) := do
  if lySpace r = 3 then
    let xs ← mapM' (readLinePiece r line ea n) (linePieces r line ea n)
    pure (padZero n xs.flatten)
  else
    let m := (← getCore).xs
    let (a, nb) := lineSpan r line ea n
    let xs := readBytes m a nb
    pure (padZero n ((List.range (lineCount r line ea n)).map fun k =>
      let e := ea + k
      let v := codeVal (lyFmt r) (elemBits xs (fmtWidth (lyFmt r)) (elemAddr r line e - a) (e % 2 = 1)) table
      if lySg r = 0 then v else scaleV v (sc16 (BitVec.ofNat 16 (readLE m (scale e) 2)))))

/-- A piece of a line of one of two records put before those at higher addresses. -/
def insertPiece (a : (Nat × Nat) × Bool × Nat) : List ((Nat × Nat) × Bool × Nat) → List ((Nat × Nat) × Bool × Nat)
  | [] => [a]
  | b :: bs => if a.1.1 ≤ b.1.1 then a :: b :: bs else b :: insertPiece a bs

/-- Lines of two GLOBAL records, read together in ascending address order (R239, R430). -/
def readTogether (ra rw : BitVec 512) (la lw : List Nat) (ea n : Nat) : M (List (List Val) × List (List Val)) := do
  let of_ := fun (first : Bool) (r : BitVec 512) (ls : List Nat) =>
    ls.flatMap fun l => (linePieces r l ea n).map fun p => (p, first, l)
  let out ← mapM' (fun (j : (Nat × Nat) × Bool × Nat) => do
    pure (j.2, ← readLinePiece (if j.2.1 then ra else rw) j.2.2 ea n j.1))
    ((of_ true ra la ++ of_ false rw lw).foldr insertPiece [])
  let line := fun (first : Bool) (l : Nat) =>
    padZero n ((out.filter fun o => o.1 = (first, l)).flatMap (·.2))
  pure (la.map (line true), lw.map (line false))

/-- The order in which the lines of a record are read: ascending addresses (R239). -/
def lineOrder (r : BitVec 512) (lines : List Nat) : List Nat := if lyStride r 1 < 0 then lines.reverse else lines

/-- Lines of a record, in the order of their numbers. -/
def readLines (r : BitVec 512) (lines : List Nat) (ea n : Nat) (scale : Nat → Nat → Nat) (table : List Val) :
    M (List (List Val)) := do
  if lySpace r = 0 then
    let ls := lines.filter fun l => lineCount r l ea n ≠ 0
    countConflicts (ls.flatMap fun l =>
      let (a, nb) := lineSpan r l ea n
      chunksOf a nb)
    if lySg r = 0 then pure ()
    else countConflicts (ls.flatMap fun l => (List.range (lineCount r l ea n)).map fun k => scale l (ea + k) / 256)
  else pure ()
  let xs ← mapM' (fun l => readLine r l ea n (scale l) table) (lineOrder r lines)
  pure (if lyStride r 1 < 0 then xs.reverse else xs)

/-- Rows and columns of a matrix exchanged. -/
def transpose (cols : Nat) (xs : List (List Val)) : List (List Val) :=
  (List.range cols).map fun j => xs.map fun row => row.getD j (.fin false 0 0)

/-! ## Elements of a plane image (R231 to R233, R46) -/

/-- A half-word of WS by local address; beyond the declared WS it is a free value. -/
def wsHalf (c : Core) (fresh a : Nat) : Half :=
  if c.wsOk a 2 then BitVec.ofNat 16 (readLE c.ws (a - wsBase) 2)
  else Config.freeByte fresh (2 * a) ++ Config.freeByte fresh (2 * a + 1)

/-- B element (k, j) of a descriptor, cut to d planes when d is not 0. A CB4 image without scales, for which `mma` has no
fault, reads as its BF16 values. The scale of a transposed image's element stands where its block number puts it, also
past the last scale group.
Log entry 46: DESIGN CHOICE, unsafe. Log entry 110: DESIGN CHOICE, unsafe. -/
def imageElem (c : Core) (fresh : Nat) (b : DWord) (tb : Bool) (d k j : Nat) : Val :=
  let (r, p) := if tb then (j, k) else (k, j)
  if bdRows b ≤ r ∨ bdWb b ≤ p then .fin false 0 0
  else
    let code := bdFmt b
    let a := bdAddr b - wsBase
    let x := planeElem (readByte c.ws) a code (bdRows b) (bdWb b) r p
    let f := imageFmt code
    let v := match floatOf f with
      | some ff => decF ff (truncPlanes ff d x)
      | none => elemVal f x
    let g := blockSize (bdG b)
    if g = 0 then v
    else
      let s := bdAddr b + planeBytes code (bdRows b) (bdWb b) + 2 * bdWb b * (k / g) + 2 * j
      scaleV v (sc16 (wsHalf c fresh s))

/-! ## The fold (R42 to R45) -/

/-- A value as an integer: the elements of the integer domain. -/
def intOf : Val → Int
  | .fin s m e => (if s then -1 else 1) * ((m * 2 ^ e.toNat : Nat) : Int)
  | _ => 0

/-- One group's fold of an element. -/
def foldElem (int : Bool) (acc : Word) (a b : List Val) : Word × Flags :=
  if int then foldI acc ((a.map intOf).zip (b.map intOf)) else foldF acc (a.zip b)

/-- A row of the tile after one group: `bcols` are the columns of B. -/
def foldRow (int : Bool) (row : List Word) (a : List Val) (bcols : List (List Val)) : List Word × Flags :=
  let rs := List.zipWith (fun w b => foldElem int w a b) row bcols
  (rs.map (·.1), rs.foldl (fun f r => f ||| r.2) 0)

/-- One group folded into a tile; with `zero` the accumulator starts at +0. -/
def foldGroup (t : Nat) (zero int : Bool) (arows bcols : List (List Val)) : M Flags := fun s =>
  let step := fun (st : Core × Flags) (p : List Val × Nat) =>
    let row := if zero then List.replicate 64 0 else lanesOf (st.1.accRow t p.2)
    let (r, f) := foldRow int row p.1 bcols
    (st.1.setAccRow t p.2 (ofLanes r), st.2 ||| f)
  let (c, f) := arows.zipIdx.foldl step (s.core, 0)
  .ok (f, s.setCore c)

/-- The groups of a K-step folded in ascending order; `zero` concerns the first of them. -/
def foldGroups (t : Nat) (int : Bool) (size : Nat) (zero : Bool) (arows bcols : List (List Val)) : List Nat → M Flags
  | [] => pure 0
  | g :: gs => do
    let cut := fun (xs : List (List Val)) => xs.map fun x => (x.drop (g * size)).take size
    let f ← foldGroup t (zero && g == 0) int (cut arows) (cut bcols)
    let fs ← foldGroups t int size zero arows bcols gs
    pure (f ||| fs)

/-- The number of groups or steps of a size that n takes. -/
def stepsOf (n size : Nat) : Nat := (n + size - 1) / size

/-! ## The lease (R220, R221) -/

/-- The cluster of the executing core. -/
def State.curCluster (s : State) : Fin 32 := ⟨s.clusterOf s.cur.val % 32, Nat.mod_lt _ (by decide)⟩

/-- An array command needs the lease of its cluster's array. -/
def needLease : M Unit := do
  let s ← getS
  waitIf (s.leases[s.curCluster].holder != some s.cur) .engine

/-- An array command that starts counts under the lease. -/
def countLease (x : Cmd) : M Unit :=
  if x.phase = .waiting then
    modS fun s =>
      let l := s.leases[s.curCluster]
      { s with leases := s.leases.set s.curCluster { l with started := l.started + 1 } }
  else pure ()

/-- An array command whose queue entries stand ready enters the array under the lease, and pops them (R137, R221). -/
def enterArray (ns : List Nat) (x : Cmd) : M Cmd := do
  let c ← getCore
  match if x.popped.isEmpty then ns.find? fun n => (c.qreg n).isEmpty else none with
  | some n => stop (.flag (48 + n))
  | none => pure ()
  needLease
  countLease x
  popQs ns x

/-- The array command has left the array: the lease ends with its last command. -/
def endLease : M Unit := modS fun s =>
  let l := s.leases[s.curCluster]
  if l.holder = some s.cur ∧ l.len ≤ l.started then
    { s with leases := s.leases.set s.curCluster { l with holder := none, started := 0 } }
  else s

end Sys2Proof.Machine
end

