-- ==== Sys2Proof/Machine/Copy.lean ====
section
/-! DEFINITION. Machine/Copy.lean: the copy engine: walks, chunks, the data commands, transaction groups and `cfence`
(R243 to R264). -/

namespace Sys2Proof.Machine

/-! ## Walks (R22, R245) -/

/-- The bytes of walk position n. -/
def elemAddrs (r : BitVec 512) (n : Nat) : List Nat :=
  let a := natOf (lyAddr r n).1
  (List.range (lyElemBytes r)).map (a + ·)

/-- A key put into an ascending list. -/
def insertKey (a : Nat) : List Nat → List Nat
  | [] => [a]
  | b :: bs => if a < b then a :: b :: bs else if a = b then b :: bs else b :: insertKey a bs

/-- Addresses in ascending order, each once. -/
def sortKeys (as : List Nat) : List Nat := as.foldr insertKey []

/-- A keyed value put into an ascending list. -/
def insertKeyed {α : Type} (a : Nat × α) : List (Nat × α) → List (Nat × α)
  | [] => [a]
  | b :: bs => if a.1 < b.1 then a :: b :: bs else b :: insertKeyed a bs

/-- Runs of consecutive addresses, each within one 64-byte line. -/
def byteRuns : List Nat → List (Nat × Nat)
  | [] => []
  | a :: as =>
    match byteRuns as with
    | (b, n) :: rs => if a + 1 = b ∧ a / 64 = b / 64 then (a, n + 1) :: rs else (a, 1) :: (b, n) :: rs
    | [] => [(a, 1)]

/-- The bytes of positions of a record, ascending. -/
def walkAddrs (r : BitVec 512) (ps : List Nat) : List Nat := sortKeys (ps.flatMap (elemAddrs r))

/-- The bits of an element from a table of bytes. -/
def rawElem (r : BitVec 512) (tbl : List (Nat × Byte)) (n : Nat) : Nat :=
  let (a, hi) := lyAddr r n
  let a := natOf a
  if fmtWidth (lyFmt r) = 4 then (sget 0 tbl a).toNat / (if hi then 16 else 1) % 16
  else leNat ((List.range (lyElemBytes r)).map fun k => sget 0 tbl (a + k))

/-! ## Issue checks (R246, R257) -/

/-- SPACE is XS or GLOBAL (R246). -/
def checkSpaces (rs : List (BitVec 512)) : M Unit := do
  match rs.find? fun r => lySpace r ≠ 0 ∧ lySpace r ≠ 3 with
  | some r => trapM .window (BitVec.ofNat 64 (lyBase r))
  | none => pure ()

/-- The lowest of the addresses that a function gives for a record's positions. -/
def lowestOf (r : BitVec 512) (f : Int → Option Int) : Option Int :=
  (List.range (lyCount r)).foldl (fun m n => match f (lyAddr r n).1, m with
    | some a, some x => some (min x a)
    | some a, none => some a
    | none, _ => m) none

/-- The lowest byte of a record at or beyond an address. -/
def lowestBeyond (r : BitVec 512) (e : Int) : Option Int :=
  lowestOf r fun a => if e < a + lyElemBytes r then some (max a e) else none

/-- The first byte of a record outside [0, e). -/
def firstOutside (r : BitVec 512) (e : Int) : Option Int :=
  let (lo, hi) := lySpan r
  if lo < 0 then some lo else if hi ≤ e then none else lowestBeyond r e

/-- A record lies in the declared XS, or its base and its addresses have the global form (R109, R246).
Log entry 45: DEDUCED, unsafe. -/
def checkExtent (writes : Bool) (r : BitVec 512) : M Unit := do
  let c ← getCore
  if lySpace r = 0 then
    match firstOutside r c.barBase with
    | some a => trapM .window (BitVec.ofNat 64 (wrapI 32 a))
    | none => pure ()
  else
    trapIf (decide (2 ^ 57 ≤ lyBase r)) .page (pageInfo (lyBase r) 0 writes)
    match firstOutside r (2 ^ 57 : Nat) with
    | some a => trapM .page (pageInfo (wrapI 57 a) 0 writes)
    | none => pure ()

/-- Every element address of a record is a multiple of its size (R246): the lowest that is not.
Log entry 45: DEDUCED, unsafe. -/
def misaligned (r : BitVec 512) : Option Int :=
  let b : Int := lyElemBytes r
  if lyOrigin r % b = 0 ∧ (List.range 4).all (fun n => lyExt r n = 1 ∨ lyStride r n % b = 0) then none
  else lowestOf r fun a => if a % b ≠ 0 then some a else none

/-- The records of a command are aligned. -/
def checkAligned (rs : List (BitVec 512)) : M Unit := do
  match rs.findSome? misaligned with
  | some a => trapM .misalign (BitVec.ofInt 64 a)
  | none => pure ()

/-- The issue checks of R246: a destination with the positions written, if any, and the records read with the ranges of
their block scales. The WINDOW of a group command with a local destination (R260) stands after the check of spaces and
has the destination's BASE; that of block scales in XS stands after the extents, before MISALIGN. Within one check the
destination comes before the sources.
Log entry 97: DESIGN CHOICE, unsafe. Log entry 112: DESIGN CHOICE, unsafe. Log entry 125: DESIGN CHOICE, unsafe. -/
def checkRecords (d : Option (BitVec 512 × List Nat)) (srcs : List (BitVec 512)) (scales : List (Int × Nat)) :
    M Unit := do
  let rs := (d.map (·.1)).toList ++ srcs
  checkSpaces rs
  match d with
  | some (r, _) => trapIf ((← getCore).tx.isSome && lySpace r == 0) .window (BitVec.ofNat 64 (lyBase r))
  | none => pure ()
  forM' (fun (r, _) => checkExtent true r) d.toList
  forM' (checkExtent false) srcs
  checkXsRanges scales
  checkAligned rs
  match d with
  | some (r, ps) => if lySpace r = 3 then checkWrites false (walkAddrs r ps) else pure ()
  | none => pure ()

/-- Two regions of one space share a byte (R257): a region is a span, or the bytes of positions. -/
def regionsMeet (a b : BitVec 512) (as bs : Option (List Nat)) : Bool :=
  let (lo, hi) := lySpan a
  let (lo', hi') := lySpan b
  lySpace a == lySpace b && decide (lo < hi') && decide (lo' < hi) &&
    match as, bs with
    | none, none => true
    | _, _ =>
      let bytes := fun r (ps : Option (List Nat)) (l h : Int) => match ps with
        | some ps => walkAddrs r ps
        | none => (List.range (h - l).toNat).map (natOf l + ·)
      let ys := bytes b bs lo' hi'
      (bytes a as lo hi).any ys.contains

/-! ## Reads (R247, R249) -/

/-- Bytes at ascending addresses of a space. -/
def readAddrs (space : Nat) (fmtOk : Nat → Bool) (as : List Nat) : M (List (Nat × Byte)) := do
  if space = 3 then
    let xs ← mapM' (fun (p : Nat × Nat) => do
      let ys ← readPiece true fmtOk p.1 p.2
      pure ((List.range p.2).map (p.1 + ·) |>.zip ys)) (byteRuns as)
    pure xs.flatten
  else
    countConflicts (as.map (· / 256))
    let m := (← getCore).xs
    pure (as.map fun a => (a, readByte m a))

/-- The raw elements at positions of a record. -/
def readElems (r : BitVec 512) (ps : List Nat) : M (List Nat) := do
  let tbl ← readAddrs (lySpace r) anyFmt (walkAddrs r ps)
  pure (ps.map (rawElem r tbl))

/-- The scale-map entry of an element of a global source, with the checks of R249: on a RAW page none, else as
R228. -/
def elemScale (r : BitVec 512) (va : Nat) : M (Option SmapEntry) := do
  let f ← pageFmtAt va
  let id := (← getJob).ctx
  let e := (← getS).smapOf id va
  let ok := match e with
    | none => lySg r == 0 && lyFmt r != 5
    | some e => f != 0 && e.g.toNat == lySg r
  trapIf (!ok) .format (BitVec.ofNat 64 va)
  pure e

/-- What is done at each element of a global source, in ascending address order, with what those before it have left:
position, address, nibble and bits. -/
def globalFold {β : Type} (r : BitVec 512) (ps : List Nat) (f : β → Nat → Nat → Bool → Nat → M β) (b : β) : M β := do
  let keyed := (ps.map fun n =>
    let (a, hi) := lyAddr r n
    (2 * natOf a + (if hi then 1 else 0), n)).foldr insertKeyed []
  foldM' (fun b (p : Nat × Nat) => do
    let ys ← readPiece true (rawOr (lyFmt r)) p.1 p.2
    let tbl := (List.range p.2).map (p.1 + ·) |>.zip ys
    foldM' (fun b (q : Nat × Nat) => f b q.2 (q.1 / 2) (q.1 % 2 = 1) (rawElem r tbl q.2)) b
      (keyed.filter fun q => p.1 ≤ q.1 / 2 ∧ q.1 / 2 < p.1 + p.2)) b (byteRuns (walkAddrs r ps))

/-- A scale of an XS source by its block. -/
def xsScale (m : Mem) (r : BitVec 512) (k : Nat) : Half := BitVec.ofNat 16 (readLE m (lyScaddr r + 2 * k) 2)

/-- The reads of an XS source's scales, by their blocks, lose cycles of their own (R230). -/
def countScales (r : BitVec 512) (ks : List Nat) : M Unit :=
  if lySg r = 0 then pure () else countConflicts (ks.map fun k => (lyScaddr r + 2 * k) / 256)

/-- The decoded values at positions of a source of `cconv`; `bits` is the codebook table of an XS CB4 record (R249). -/
def readValues (r : BitVec 512) (bits : List Nat) (ps : List Nat) : M (List Val) := do
  let code := lyFmt r
  if lySpace r = 3 then
    let vs ← globalFold r ps (fun vs n va hi x => do
      match ← elemScale r va with
      | none => pure ((n, elemVal code x) :: vs)
      | some e =>
        let s ← readScale true e code va hi
        let table ← if code = 5 then readTable true e.cb.toNat else pure []
        pure ((n, scaleV (codeVal code x table) (sc16 s)) :: vs)) []
    pure (ps.map fun n => ((vs.find? fun v => v.1 = n).map (·.2)).getD (.fin false 0 0))
  else
    let m := (← getCore).xs
    let tbl ← readAddrs 0 anyFmt (walkAddrs r ps)
    countScales r (ps.map (· / blockSize (lySg r)))
    pure (ps.map fun n =>
      let v := codeVal code (rawElem r tbl n) (bits.map (decF .bf16))
      if lySg r = 0 then v else scaleV v (sc16 (xsScale m r (n / blockSize (lySg r)))))

/-- The block scales of an XS source of `cconv`. -/
def convScales (r : BitVec 512) : List (Int × Nat) :=
  if lySpace r = 0 ∧ lySg r ≠ 0 ∧ isScaledFmt (lyFmt r) then
    [((lyScaddr r : Int), 2 * stepsOf (lyCount r) (blockSize (lySg r)))]
  else []

/-- The scales and codebooks that the decoding of a `cconv`'s source reads: its block scales and its codebook table in XS,
or those of the scale map for every element that an entry covers (R113, R249, R321). -/
def convReads (s : State) (r : BitVec 512) : List Range :=
  if lySpace r = 0 then
    (convScales r).map (fun p => ⟨.xs, natOf p.1, natOf p.1 + p.2, false⟩) ++
      (if lyFmt r = 5 then [bookRange s s.core (lyCb r)] else [])
  else if isScaledFmt (lyFmt r) then
    (List.range (lyCount r)).flatMap fun n =>
      let (a, hi) := lyAddr r n
      match s.smapOf s.curCtx (natOf a) with
      | none => []
      | some e =>
        let at_ := e.sbase.toNat + 2 * smapBlock e (lyFmt r) (natOf a) hi
        ⟨.glob, at_, at_ + 2, false⟩ :: if lyFmt r = 5 then [bookRange s s.core e.cb.toNat] else []
  else []

/-- Positions of a record share a byte with scales or a codebook that its command reads (R257). -/
def readsMeet (d : BitVec 512) (ps : List Nat) (rs : List Range) : Bool :=
  let rs := rs.filter fun r => r.space = (if lySpace d = 0 then Space.xs else .glob)
  !rs.isEmpty && (walkAddrs d ps).any fun b => rs.any fun r => decide (r.lo ≤ b ∧ b < r.hi)

/-! ## Writes (R22, R247, R249) -/

/-- The element's zero fill of bits 7:4 applies: it is the last of its line, in bits 3:0, and no position of the walk
has that nibble (R22). -/
def zeroFill (r : BitVec 512) (n : Nat) : Bool :=
  let (a, hi) := lyAddr r n
  !hi && decide (n % lyExt r 0 + 1 = lyExt r 0) && (List.range (lyCount r)).all fun k => lyAddr r k != (a, true)

/-- An element put into a table of what is written of each byte: a 4-bit one puts its own nibble (R22). -/
def putElem (r : BitVec 512) (conv : Bool) (t : List (Nat × Nibbles)) (e : Nat × Nat) : List (Nat × Nibbles) :=
  let (a, hi) := lyAddr r e.1
  let a := natOf a
  if fmtWidth (lyFmt r) = 4 then
    let v := e.2 % 16
    t.map fun p =>
      if p.1 ≠ a then p
      else if hi then (a, nibOver (BitVec.ofNat 8 (16 * v), 2) p.2.1, p.2.2 ||| 2)
      else if conv && zeroFill r e.1 then (a, BitVec.ofNat 8 v, 3)
      else (a, nibOver (BitVec.ofNat 8 v, 1) p.2.1, p.2.2 ||| 1)
  else
    let bs := leBytes (lyElemBytes r) e.2
    t.map fun p => if a ≤ p.1 ∧ p.1 < a + bs.length then (p.1, bs.getD (p.1 - a) 0, 3) else p

/-- No scale-map entry covers a converting write (R249). -/
def checkUncovered (a n : Nat) : M Unit := do
  let id := (← getJob).ctx
  let s ← getS
  match ((List.range n).map (a + ·)).find? fun b => (s.smapOf id b).isSome with
  | some b => trapM .format (BitVec.ofNat 64 b)
  | none => pure ()

/-- Elements written to positions of a destination: every byte is translated and checked in ascending order, then
written.
Log entry 80: DEDUCED, unsafe. -/
def writeElems (iseq : Word) (r : BitVec 512) (conv : Bool) (es : List (Nat × Nat)) : M Unit := do
  let as := walkAddrs r (es.map (·.1))
  modS fun s => s.perfCount 3 as.length
  let tbl := es.foldl (putElem r conv) (as.map fun a => (a, (0, 0)))
  if lySpace r = 3 then
    let ok := if conv then rawOr (lyFmt r) else anyFmt
    let ts ← mapM' (fun (p : Nat × Nat) => do
      let t ← writeTarget .store ok p.1 p.2
      if conv then checkUncovered p.1 p.2 else pure ()
      writeCheck p.1 t
      pure (p, t)) (byteRuns as)
    forM' (fun (q : (Nat × Nat) × TlbEntry × Loc) =>
      writePiece iseq q.1.1 q.2 ((List.range q.1.2).map fun k => sget (0, 0) tbl (q.1.1 + k))) ts
  else
    let m := (← getCore).xs
    forM' (fun (p : Nat × Nibbles) => writeXs p.1 [nibOver p.2 (readByte m p.1)]) tbl

/-! ## The start and the chunks of a data command (R244, R247, R248) -/

/-- The queue register of a barrier select.
Log entry 85: DEDUCED, unsafe. -/
def barQueue (b : BarSel) : Nat := if b.q15 then 15 else 14

/-- The format of a record is not reserved (R245, R248). -/
def checkReserved (rs : List (BitVec 512)) : M Unit := do
  match rs.find? fun r => 10 < lyFmt r with
  | some r => trapM .format (BitVec.ofNat 64 (lyBase r))
  | none => pure ()

/-- The barrier of a command whose select follows `before` other pops: its handle is checked. -/
def startBarrier (b : Option BarSel) (first : Option Nat) (x : Cmd) : M (Option (BitVec 24 × Bool)) := do
  match b with
  | none => pure none
  | some b =>
    let n := match first with
      | some q => if q = barQueue b then 0 else 1
      | none => 0
    let h := BitVec.ofNat 24 (x.pop n).toNat
    trapIf (!(← getS).handleOk h) .handle (h.zeroExtend 64)
    pure (some (h, b.outbound))

/-- A free range-table entry for a command that writes global memory outside a group (R114). -/
def startRange (r : BitVec 512) (x : Cmd) : M Unit := do
  if x.phase = .waiting ∧ lySpace r = 3 ∧ (← getCore).tx.isNone then rangeEntry else pure ()

/-- The walk positions of chunk k of a command, in the order the chunks run (R247). -/
def chunkPositions (total per : Nat) (desc : Bool) (k : Nat) : List Nat :=
  let i := if desc then stepsOf total per - 1 - k else k
  (List.range (min per (total - i * per))).map (i * per + ·)

/-- The next chunk of a command runs, once no home holds a write of the one before; the command stops at the restart
point after it, or has executed (R247, R248, R337). -/
def runChunks (total per : Nat) (desc : Bool) (chunk : List Nat → M Unit) (x : Cmd) : M Cmd := do
  let s ← getS
  waitIf (s.holding s.cur (· == x.iseq)) .engine
  chunk (chunkPositions total per desc x.progress)
  if stepsOf total per ≤ x.progress + 1 then pure (x.done 0)
  else pure { x with phase := .stopped, progress := x.progress + 1 }

/-- The chunk length of a record: the positions of 4,096 bytes of walk output. -/
def chunkLen (r : BitVec 512) : Nat := 32768 / fmtWidth (lyFmt r)

/-- The destination has room for a source's walk (R245). -/
def checkCount (d a : BitVec 512) : M Unit :=
  trapIf (decide (lyCount d < lyCount a)) .window (BitVec.ofInt 64 (lyOrigin d))

/-- The pops of a command's start. -/
def copyPops (b : Option BarSel) (first : Option Nat) : List Nat := first.toList ++ (b.map barQueue).toList

/-- The key of the line that a group stages for a byte of a context: its physical line, or its VA's where it has no
translation now. -/
def State.stagedLine (s : State) (id : CtxId) (va : Nat) : Nat :=
  match s.leafOf id va with
  | some e =>
    let pa := leafPa e.leaf + (va - e.va.toNat)
    if leafAperture e.leaf then
      match s.apertureLoc (bits pa 43 40) (bits pa 39 0) with
      | some l => 2 * (stageKey l / 64)
      | none => 2 * (va / 64) + 1
    else 2 * (pa / 64)
  | none => 2 * (va / 64) + 1

/-- At its head, a command whose writes would bring its group's staged lines above 256 KiB faults QUEUE (R260): the
positions of the destination it writes. -/
def groupRoom (d : BitVec 512) (ps : List Nat) : M Unit := do
  match (← getCore).tx with
  | some g =>
    let s ← getS
    let new := ((walkAddrs d ps).map (· / 64)).eraseDups.map fun k => s.stagedLine s.curCtx (64 * k)
    trapIf (decide (4096 < ((g.lines.map fun (l : StagedLine) => 2 * (l.pa.toNat / 64)) ++ new).eraseDups.length)) .queue 17
  | none => pure ()

/-- A data command (R248): its issue checks and pops, its start, made once, and a chunk. -/
def runCopy (i : Instr) (g : Guard) (b : Option BarSel) (first : Option Nat) (issue : Cmd → M Unit)
    (start : Cmd → M (List Nat)) (body : Cmd → M Cmd) (s : State) : Host.Outcome State Fault Refusal :=
  runEngFrom .c 2 i g
    (fun x => do
      if x.phase = .waiting then
        issue x
        popQs (copyPops b first) x
      else pure x)
    (fun x => do
      if x.phase = .waiting then
        let h ← startBarrier b first x
        let t ← start x
        pure { x with phase := .stopped, barrier := h, table := t }
      else pure x)
    body s

/-! ## ccopy (R250, R251) -/

/-- A plain `ccopy`. -/
def plainCopy (d a : BitVec 512) : Bool := lyPlain d && lyPlain a

/-- The issue of a `ccopy`. -/
def copyIssue (d a : BitVec 512) : M Unit := do
  let ps := List.range (min (lyCount a) (lyCount d))
  checkRecords (some (d, ps)) [a] []
  trapIf (!plainCopy d a && regionsMeet d a (some ps) (some (List.range (lyCount a)))) .overlap 0
  checkCount d a

/-- The chunks of a plain copy run downward. -/
def copyDown (d a : BitVec 512) : Bool :=
  plainCopy d a && regionsMeet d a none none && decide (lyOrigin a < lyOrigin d)

/-- `ccopy` (R250). -/
def execCcopy (rl : Bool) (d a : BitVec 3) (b : Option BarSel) (g : Guard) (s : State) :
    Host.Outcome State Fault Refusal :=
  runCopy (.ccopy rl d a b g) g b none
    (fun x => do
      copyIssue (x.snap.lyr d) (x.snap.lyr a)
      groupRoom (x.snap.lyr d) (List.range (lyCount (x.snap.lyr a)))
      startRange (x.snap.lyr d) x)
    (fun x => do
      let (d, a) := (x.snap.lyr d, x.snap.lyr a)
      checkReserved [d, a]
      trapIf (decide (fmtWidth (lyFmt d) ≠ fmtWidth (lyFmt a))) .format (BitVec.ofNat 64 (lyBase d))
      pure [])
    (fun x =>
      let (d, a) := (x.snap.lyr d, x.snap.lyr a)
      runChunks (lyCount a) (chunkLen d) (copyDown d a) (fun ps => do
        let vs ← readElems a ps
        writeElems x.iseq d false (ps.zip vs)) x) s

/-! ## cconv (R252) -/

/-- A destination format of R252. -/
def convDst (code : Nat) : Bool := (floatOf code).isSome || isIntFmt code

/-- The encoding of a value rounded to a format; no flag is set. -/
def encodeVal (code : Nat) (mode : RMode) (v : Val) : Nat :=
  match floatOf code with
  | some f => (convF f mode v).1
  | none =>
    let w := fmtWidth code
    wrapI w (convI (-(2 ^ (w - 1) : Nat)) ((2 ^ (w - 1) : Nat) - 1) mode v).1

/-- The record checks of a converting destination (R249, R252). -/
def checkConvDst (d : BitVec 512) : M Unit :=
  trapIf (!convDst (lyFmt d) || decide (lySg d ≠ 0)) .format (BitVec.ofNat 64 (lyBase d))

/-- The codebook table of an XS CB4 source, read at the start of its command (R249, R323). -/
def startTable (a : BitVec 512) : M (List Nat) :=
  if lySpace a = 0 ∧ lyFmt a = 5 then readTableBits true (lyCb a) else pure []

/-- The record checks of a decoded source (R249). -/
def checkDecoded (a : BitVec 512) : M Unit :=
  let f := lyFmt a
  trapIf ((decide (lySg a ≠ 0) && !isScaledFmt f) || (decide (lySg a = 0) && f == 5)) .format (BitVec.ofNat 64 (lyBase a))

/-- `cconv` (R252). The WINDOW of a destination that is too short comes after OVERLAP; of the FORMAT checks at start,
reserved codes come first, then the source's format, the destination's format and SG, and the source's SG.
Log entry 111: DESIGN CHOICE, unsafe. Log entry 114: DESIGN CHOICE, unsafe. -/
def execCconv (rl : Bool) (d a : BitVec 3) (b : Option BarSel) (mode : RMode) (g : Guard) (s : State) :
    Host.Outcome State Fault Refusal :=
  runCopy (.cconv rl d a b mode g) g b none
    (fun x => do
      let (d, a) := (x.snap.lyr d, x.snap.lyr a)
      let ps := List.range (min (lyCount a) (lyCount d))
      checkRecords (some (d, ps)) [a] (convScales a)
      trapIf (regionsMeet d a (some ps) (some (List.range (lyCount a))) || readsMeet d ps (convReads (← getS) a)) .overlap 0
      checkCount d a
      groupRoom d (List.range (lyCount a))
      startRange d x)
    (fun x => do
      let (d, a) := (x.snap.lyr d, x.snap.lyr a)
      checkReserved [d, a]
      trapIf (!convDst (lyFmt a) && lyFmt a != 5) .format (BitVec.ofNat 64 (lyBase a))
      checkConvDst d
      checkDecoded a
      startTable a)
    (fun x =>
      let (d, a) := (x.snap.lyr d, x.snap.lyr a)
      runChunks (lyCount a) (chunkLen d) false (fun ps => do
        let vs ← readValues a x.table ps
        writeElems x.iseq d true (ps.zip (vs.map (encodeVal (lyFmt d) mode)))) x) s

/-! ## cgath and cscat (R254) -/

/-- The issue of an indexed move: n indices are needed. A list that is not in XS faults first, with its BASE; the check of
R122 takes every position of the destination, also of a `cscat`, whose indices are not read yet. The WINDOW of a list that
is too short comes after OVERLAP.
Log entry 98: DESIGN CHOICE, unsafe. Log entry 113: DESIGN CHOICE, unsafe. Log entry 125: DESIGN CHOICE, unsafe. -/
def indexedIssue (d a m : BitVec 512) (n : Nat) : M Unit := do
  trapIf (decide (lySpace m ≠ 0)) .window (BitVec.ofNat 64 (lyBase m))
  checkRecords (some (d, List.range (lyCount d))) [a, m] []
  trapIf (regionsMeet d a none none || regionsMeet d m none none) .overlap 0
  trapIf (decide (lyCount m < n)) .window (BitVec.ofNat 64 (lyBase m))

/-- The first n indices of a list as XS now holds them. -/
def indicesNow (xs : Mem) (m : BitVec 512) (n : Nat) : List Nat :=
  (List.range n).map fun k => readLE xs (natOf (lyAddr m k).1) 4

/-- The record checks and the indices of an indexed move, each below a count: the FORMAT of a list that is not INT32 comes
before that of unequal widths.
Log entry 126: DESIGN CHOICE, unsafe. -/
def readIndices (d a m : BitVec 512) (n limit : Nat) : M (List Nat) := do
  checkReserved [d, a, m]
  trapIf (decide (lyFmt m ≠ 10)) .format (BitVec.ofNat 64 (lyBase m))
  trapIf (decide (fmtWidth (lyFmt d) ≠ fmtWidth (lyFmt a))) .format (BitVec.ofNat 64 (lyBase d))
  let xs ← readElems m (List.range n)
  match xs.findIdx? fun j => limit ≤ j with
  | some k => trapM .window (BitVec.ofInt 64 (lyAddr m k).1)
  | none => pure xs

/-- `cgath` (R254). -/
def execCgath (rl : Bool) (d a : BitVec 3) (b : Option BarSel) (idx : BitVec 3) (g : Guard) (s : State) :
    Host.Outcome State Fault Refusal :=
  runCopy (.cgath rl d a b idx g) g b none
    (fun x => do
      let (d, a, m) := (x.snap.lyr d, x.snap.lyr a, x.snap.lyr idx)
      indexedIssue d a m (lyCount d)
      groupRoom d (List.range (lyCount d))
      startRange d x)
    (fun x =>
      let (d, a, m) := (x.snap.lyr d, x.snap.lyr a, x.snap.lyr idx)
      readIndices d a m (lyCount d) (lyCount a))
    (fun x =>
      let (d, a) := (x.snap.lyr d, x.snap.lyr a)
      runChunks (lyCount d) (chunkLen d) false (fun ps => do
        let vs ← readElems a (ps.map fun n => x.table.getD n 0)
        writeElems x.iseq d false (ps.zip vs)) x) s

/-- `cscat` (R254). -/
def execCscat (rl : Bool) (d a : BitVec 3) (b : Option BarSel) (idx : BitVec 3) (g : Guard) (s : State) :
    Host.Outcome State Fault Refusal :=
  runCopy (.cscat rl d a b idx g) g b none
    (fun x => do
      let (d, a, m) := (x.snap.lyr d, x.snap.lyr a, x.snap.lyr idx)
      indexedIssue d a m (lyCount a)
      groupRoom d ((indicesNow (← getCore).xs m (lyCount a)).filter fun j => j < lyCount d)
      startRange d x)
    (fun x =>
      let (d, a, m) := (x.snap.lyr d, x.snap.lyr a, x.snap.lyr idx)
      readIndices d a m (lyCount a) (lyCount d))
    (fun x =>
      let (d, a) := (x.snap.lyr d, x.snap.lyr a)
      runChunks (lyCount a) (chunkLen d) false (fun ps => do
        let vs ← readElems a ps
        writeElems x.iseq d false ((ps.map fun n => x.table.getD n 0).zip vs)) x) s

/-! ## cfill and cdrain (R255, R256) -/

/-- `cfill` (R255). -/
def execCfill (rl : Bool) (d : BitVec 3) (b : Option BarSel) (q15 : Bool) (g : Guard) (s : State) :
    Host.Outcome State Fault Refusal :=
  let q := if q15 then 15 else 14
  runCopy (.cfill rl d b q15 g) g b (some q)
    (fun x => do
      let d := x.snap.lyr d
      checkRecords (some (d, List.range (lyCount d))) [] []
      groupRoom d (List.range (lyCount d))
      startRange d x)
    (fun x => do
      checkReserved [x.snap.lyr d]
      pure [])
    (fun x =>
      let d := x.snap.lyr d
      let v := (x.pop 0).toNat % 2 ^ fmtWidth (lyFmt d)
      runChunks (lyCount d) (chunkLen d) false
        (fun ps => writeElems x.iseq d false (ps.map fun n => (n, v))) x) s

/-- A tile word read as FP32, or as INT32. -/
def drainVal (int : Bool) (w : Word) : Val := if int then valOfInt w.toInt else f32V w

/-- `cdrain` (R256). -/
def execCdrain (rl : Bool) (d : BitVec 3) (t : BitVec 3) (b : Option BarSel) (int : Bool) (mode : RMode) (g : Guard)
    (s : State) : Host.Outcome State Fault Refusal :=
  runCopy (.cdrain rl d t b int mode g) g b none
    (fun x => do
      let d := x.snap.lyr d
      checkRecords (some (d, List.range (lyCount d))) [] []
      trapIf (decide ((← getCore).acct ≤ t.toNat)) .window (t.zeroExtend 64)
      trapIf (decide (64 < lyExt d 0) || decide (64 < lyExt d 1) || decide (lyExt d 2 ≠ 1) || decide (lyExt d 3 ≠ 1))
        .window (BitVec.ofInt 64 (lyOrigin d))
      groupRoom d (List.range (lyCount d))
      startRange d x)
    (fun x => do
      checkReserved [x.snap.lyr d]
      checkConvDst (x.snap.lyr d)
      pure [])
    (fun x => do
      let d := x.snap.lyr d
      let c ← getCore
      let word := fun n => lane (c.accRow t.toNat (n / lyExt d 0)) (n % lyExt d 0)
      runChunks (lyCount d) (chunkLen d) false (fun ps =>
        writeElems x.iseq d true (ps.map fun n => (n, encodeVal (lyFmt d) mode (drainVal int (word n))))) x) s

/-! ## cplane (R253) -/

/-- The block scales of an XS source of `cplane`. -/
def planeScales (a : BitVec 512) : List (Int × Nat) :=
  if lySpace a = 0 ∧ lySg a ≠ 0 ∧ isScaledFmt (lyFmt a) then
    [((lyScaddr a : Int), 2 * (lyExt a 1 * stepsOf (lyExt a 0) (blockSize (lySg a))))]
  else []

/-- The issue of a `cplane`; the image of a descriptor whose FMT is no MMA format is that of `bdSize`.
Log entry 124: DESIGN CHOICE, unsafe. -/
def planeIssue (d : DWord) (a : BitVec 512) : M Unit := do
  checkRecords none [a] (planeScales a)
  let at_ := BitVec.ofNat 64 (bdAddr d)
  checkImage d
  trapIf (decide (lyExt a 2 ≠ 1) || decide (lyExt a 3 ≠ 1) || decide (bdRows d < lyExt a 0) ||
    decide (bdWb d < lyExt a 1)) .window at_

/-- The record checks of a `cplane`. -/
def planeStart (d : DWord) (a : BitVec 512) : M Unit := do
  checkReserved [a]
  let at_ := BitVec.ofNat 64 (lyBase a)
  trapIf (!isMmaFmt (bdFmt d)) .format at_
  trapIf (decide (lyFmt a ≠ bdFmt d)) .format at_
  checkDecoded a
  trapIf (bdFmt d == 5 && bdG d == 0) .format at_
  trapIf (decide (lySpace a = 0) && decide (lySg a ≠ bdG d)) .format at_

/-- A source element of a chunk: its position, the bits its image element has, and its block's scale. -/
abbrev PlaneElem := Nat × (Nat × Half)

/-- An element of an image block whose scale-map block is `blk` joins those found: G elements of one image block share
one, or FORMAT at the first that does not (R253). -/
def planeBlock (d : DWord) (a : BitVec 512) (n va blk : Nat) (seen : List (Nat × Nat)) : M (List (Nat × Nat)) := do
  let g := blockSize (bdG d)
  let key := n / lyExt a 0 * 65536 + n % lyExt a 0 / (if g = 0 then 1 else g)
  match seen.find? fun p => p.1 = key with
  | some p => do
    trapIf (decide (g ≠ 0) && p.2 != blk) .format (BitVec.ofNat 64 va)
    pure seen
  | none => pure ((key, blk) :: seen)

/-- The elements of a global source, each checked before the next is read. -/
def planeGlobal (d : DWord) (a : BitVec 512) (ps : List Nat) : M (List PlaneElem) := do
  let r ← globalFold a ps (fun (xs, seen) n va hi x => do
    let at_ := BitVec.ofNat 64 va
    match ← elemScale a va with
    | none =>
      trapIf (decide (blockSize (bdG d) ≠ 0)) .format at_
      pure ((n, x, (0 : Half)) :: xs, seen)
    | some e =>
      trapIf (decide (e.g.toNat ≠ bdG d)) .format at_
      let seen ← planeBlock d a n va (e.dbase.toNat * 2 ^ 64 + smapBlock e (lyFmt a) va hi) seen
      let s ← readScale true e (lyFmt a) va hi
      let table ← if lyFmt a = 5 then readTableBits true e.cb.toNat else pure []
      pure ((n, (if lyFmt a = 5 then table.getD x 0 else x), s) :: xs, seen)) ([], [])
  pure r.1

/-- The elements of an XS source; `table` is its codebook. -/
def planeLocal (d : DWord) (a : BitVec 512) (table : List Nat) (ps : List Nat) : M (List PlaneElem) := do
  let m := (← getCore).xs
  let tbl ← readAddrs 0 anyFmt (walkAddrs a ps)
  let g := blockSize (bdG d)
  let block := fun (n : Nat) => n / lyExt a 0 * stepsOf (lyExt a 0) g + n % lyExt a 0 / g
  countScales a (ps.map block)
  pure (ps.map fun n =>
    let x := rawElem a tbl n
    (n, ((if lyFmt a = 5 then table.getD x 0 else x), if g = 0 then 0 else xsScale m a (block n))))

/-- The byte j of row r of plane q of an image. -/
def planeByte (code q : Nat) (row : List Nat) (j : Nat) : Byte :=
  BitVec.ofNat 8 ((List.range 8).map fun b => planeBitOf code (row.getD (8 * j + b) 0) q * 2 ^ b).sum

/-- Rows lo to hi of an image and the scales of their blocks written to WS. -/
def writePlanes (d : DWord) (a : BitVec 512) (es : List PlaneElem) (lo hi : Nat) : M Unit := modCore fun c =>
  let code := bdFmt d
  let wb := bdWb d
  let base := bdAddr d - wsBase
  let elem := fun (r p : Nat) =>
    if r < lyExt a 0 ∧ p < lyExt a 1 then (es.find? fun e => e.1 = r + lyExt a 0 * p).map (·.2) else none
  let rows := (List.range (hi - lo)).map fun r => (List.range wb).map fun p => ((elem (lo + r) p).map (·.1)).getD 0
  let ws := (List.range (sigPlanes code + headPlanes code)).foldl (fun m q =>
    rows.zipIdx.foldl (fun m row =>
      writeBytes m (base + q * bdRows d * (wb / 8) + (lo + row.2) * (wb / 8))
        ((List.range (wb / 8)).map (planeByte code q row.1))) m) c.ws
  let g := blockSize (bdG d)
  let scale := fun (b p : Nat) => ((elem (b * g) p).map (·.2)).getD 0
  let ws := if g = 0 then ws
    else (List.range (stepsOf (hi - lo) g)).foldl (fun m k =>
      let b := lo / g + k
      (List.range wb).foldl (fun m p =>
        writeLE m (base + planeBytes code (bdRows d) wb + b * 2 * wb + 2 * p) 2 (scale b p).toNat) m) ws
  { c with ws := ws }

/-- The image rows lo to hi built from the source. -/
def planeChunk (d : DWord) (a : BitVec 512) (table : List Nat) (lo hi : Nat) : M Unit := do
  let rows := min hi (lyExt a 0) - lo
  let ps := (List.range (lyExt a 1)).flatMap fun c => (List.range rows).map fun r => lo + r + lyExt a 0 * c
  let es ← if lySpace a = 3 then planeGlobal d a ps else planeLocal d a table ps
  modS fun s => s.perfCount 3 ((hi - lo) * bdWb d * fmtWidth (lyFmt a) / 8)
  writePlanes d a es lo hi

/-- `cplane` (R253). -/
def execCplane (rl : Bool) (d a : BitVec 3) (b : Option BarSel) (g : Guard) (s : State) :
    Host.Outcome State Fault Refusal :=
  runCopy (.cplane rl d a b g) g b none
    (fun x => planeIssue (x.snap.bdr d) (x.snap.lyr a))
    (fun x => do
      planeStart (x.snap.bdr d) (x.snap.lyr a)
      startTable (x.snap.lyr a))
    (fun x =>
      let (d, a) := (x.snap.bdr d, x.snap.lyr a)
      runChunks (bdRows d) 64 false (fun ps => planeChunk d a x.table (ps.headD 0) (ps.headD 0 + ps.length)) x) s

/-! ## Transaction groups and cfence (R259 to R263) -/

/-- `ctxb` (R259).
Log entry 48: DEDUCED, unsafe. -/
def execCtxb (g : Guard) (s : State) : Host.Outcome State Fault Refusal :=
  runEng .c (.ctxb g) g (fun x => do
    modCore fun c => { c with tx := some { lines := [], members := [], decrements := [] } }
    pure (x.done 0)) s

/-- A staged line, before any that starts above it. -/
def insertStaged (a : StagedLine) : List StagedLine → List StagedLine
  | [] => [a]
  | b :: bs => if a.va.toNat ≤ b.va.toNat then a :: b :: bs else b :: insertStaged a bs

/-- The first staged byte of a line. -/
def StagedLine.first (x : StagedLine) : Nat := ((List.range 64).find? fun k => (x.at_ k).2 ≠ 0).getD 0

/-- The core's decrements have been applied at their homes, none of them on its way or held there (R258, R308). -/
def countsApplied : M Unit := do
  let s ← getS
  waitIf (s.decrements.any (fun d => d.core == s.cur) || s.cores.toList.any fun c => c.barHeld.any fun o =>
    o.core == s.cur && (o.kind == .decIn || o.kind == .decOut)) .engine

/-- The lines of a group are applied as one act and its deferred decrements follow, in program order (R261). -/
def State.commit (s : State) (iseq : Word) (t : TxGroup) (lines : List StagedLine) : State :=
  let s := lines.foldl (fun s l => s.applyStaged iseq l) s
  let sent := t.decrements.map fun (b : BitVec 24 × Bool) => (⟨b.1, b.2, s.core.jobSlot, s.cur⟩ : Decrement)
  (State.modCore { s with decrements := s.decrements ++ sent } fun c => { c with tx := none }).settleInv

/-- `ctxe` (R261): every staged line is checked, then all are applied as one act; it completes when the group's deferred
decrements have been applied. -/
def execCtxe (g : Guard) (s : State) : Host.Outcome State Fault Refusal :=
  runEngFrom .c 2 (.ctxe g) g pure
    (fun x => do
      if x.phase = .waiting then
        let c ← getCore
        match c.tx with
        | none => trapM .queue 17
        | some t =>
          waitIf (c.cq.any fun y => y.inGroup && y.iseq != x.iseq) .engine
          let lines := t.lines.foldr insertStaged []
          forM' (fun (l : StagedLine) => homeCheck true none (l.va.toNat + l.first) [l.pa.toNat / 64]) lines
          modS fun s => s.commit x.iseq t lines
          pure { x with phase := .stopped }
      else pure x)
    (fun x => do
      countsApplied
      let s ← getS
      waitIf (s.holding s.cur (· == x.iseq)) .engine
      pure (x.done 0)) s

/-- `cfence` (R263). -/
def execCfence (g : Guard) (s : State) : Host.Outcome State Fault Refusal :=
  runEng .c (.cfence g) g (fun x => do
    let s ← getS
    waitIf (s.core.cq.any fun y => decide (y.iseq.toNat < x.iseq.toNat)) .engine
    countsApplied
    pure (x.done 0)) s

end Sys2Proof.Machine
end

