-- ==== Sys2Proof/Machine/Pool.lean ====
section
/-! DEFINITION. Machine/Pool.lean: launch records and their checks, the pending pool, its reserve and the spill queues
(R286, R287, R297). -/

namespace Sys2Proof.Machine

/-- Bytes to be written, cut into pieces of one line. -/
def writePieces (xs : List (Nat × List Byte)) : List (Nat × List Byte) :=
  xs.flatMap fun x => (pieces x.1 x.2.length).map fun p => (p.1, (x.2.drop (p.1 - x.1)).take p.2)

/-- The place of a piece that the device writes: its leaf and where it lies. -/
def deviceTarget (id : CtxId) (p : Nat × List Byte) : M ((Nat × List Byte) × TlbEntry × Loc) := do
  trapIf (!isGlobal p.1) .page (pageInfo p.1 0 true)
  let e ← translateFor id .store p.1
  let l ← locateAll e p.1 p.2.length
  pure (p, e, l)

/-- A piece written by the device, and counted (R328). -/
def State.devicePut (s : State) (t : (Nat × List Byte) × TlbEntry × Loc) : State :=
  (s.writeHome t.2.1 t.2.2 t.1.2).countLines t.2.1 t.1.1 t.2.2 t.1.2.length

/-- Device writes of a context's memory, by address: all are translated, then written; no tag, no check (R127). -/
def deviceWrites (id : CtxId) (xs : List (Nat × List Byte)) : M Unit := do
  let ts ← mapM' (deviceTarget id) (writePieces xs)
  modS fun s => ts.foldl State.devicePut s

/-- A device write of a context's memory. -/
def deviceWrite (id : CtxId) (va : Nat) (ys : List Byte) : M Unit := deviceWrites id [(va, ys)]

/-- A launch record from its 128 bytes (R286). -/
def parseLaunch (b : Nat) : LaunchRec where
  khandle := BitVec.ofNat 32 b
  gprio := BitVec.ofNat 8 (bits b 39 32)
  phb := bitN b 40
  pblen := bits b 63 48
  param := BitVec.ofNat 64 (bits b 127 64)
  part := BitVec.ofNat 128 (bits b 255 128)
  wait := BitVec.ofNat 256 (bits b 511 256)
  set := BitVec.ofNat 256 (bits b 767 512)

/-- The low 96 bytes of a launch record (R286); the rest of its 128 are 0. -/
def LaunchRec.toNat (r : LaunchRec) : Nat :=
  r.khandle.toNat + r.gprio.toNat * 2 ^ 32 + r.phb.toNat * 2 ^ 40 + r.pblen % 2 ^ 16 * 2 ^ 48 + r.param.toNat * 2 ^ 64 +
    r.part.toNat * 2 ^ 128 + r.wait.toNat * 2 ^ 256 + r.set.toNat * 2 ^ 512

/-- The refusal of a record at submission, if there is one (R287): reasons 16, 17 and, for a `launch`, 19. -/
def launchRefusal (b ncore : Nat) (cores : BitVec 128) (child : Bool) : Option Nat :=
  let r := parseLaunch b
  if bits b 47 41 ≠ 0 ∨ bits b 1023 768 ≠ 0 ∨ (r.pblen ≠ 0 ∧ r.param.toNat % 64 ≠ 0) then some 16
  else if r.part = 0 ∨ 2 ^ ncore ≤ r.part.toNat ∨ r.part &&& ~~~cores ≠ 0 then some 17
  else if child ∧ 64 < r.pblen then some 19
  else none

/-- The entry that a record of a depth takes: an ordinary one, or, from depth 2, one of the reserve; none where it
finds no entry (R297). -/
def State.poolEntry (s : State) (depth : Nat) : Option Bool :=
  if (s.pool.filter fun r => !r.reserve).length < 480 then some false
  else if 2 ≤ depth ∧ (s.pool.filter fun r => r.reserve).length < 32 then some true
  else none

/-- A record enters the pool and is tested (R289, R297). -/
def State.intoPool (s : State) (r : PoolRec) (reserve : Bool) : State :=
  { s with pool := s.pool ++ [{ r with reserve := reserve, ready := none }] }.testPool r.ctx

/-- The lch event (R84, R85). -/
def State.lch (s : State) (id : CtxId) : State :=
  s.modCtx id fun x => { x with state := if x.state = .runnable then .running else x.state }

/-- A record goes to the tail of its context's spill queue: a ring of records of 128 bytes at SPILLQ (R81, R297).
Log entry 58: DESIGN CHOICE, unsafe. -/
def State.spillRec (s : State) (r : PoolRec) : State :=
  let x := s.ctxOf r.ctx
  let s := match deviceWrite r.ctx (x.spillq.toNat + 128 * (x.spilled % x.spilln)) (leBytes 128 r.record.toNat) s with
    | .ok (_, t) => t
    | .error _ => s
  s.modCtx r.ctx fun x => { x with spill := x.spill ++ [r], spilled := x.spilled + 1 }

/-- A record enters the pool or its context's spill queue; none where neither can take it (R297).
Log entry 60: DEDUCED, safe. -/
def State.submit (s : State) (r : PoolRec) : Option State :=
  let x := s.ctxOf r.ctx
  match if 2 ≤ r.depth ∨ x.spill.isEmpty then s.poolEntry r.depth else none with
  | some reserve => some ((s.intoPool r reserve).lch r.ctx)
  | none =>
    if x.spill.length < x.spilln then some ((s.spillRec r).lch r.ctx) else none

/-- An identity put into a rising list. -/
def insertId (n : CtxId) : List CtxId → List CtxId
  | [] => [n]
  | m :: ms => if n.toNat ≤ m.toNat then n :: m :: ms else m :: insertId n ms

/-- The contexts in the order of their turns: ascending CTXID from the one after the last served. -/
def State.spillOrder (s : State) : List CtxId :=
  let ids := ((s.ctxs.toList.filter fun x => !x.spill.isEmpty).map (·.ctxid)).foldr insertId []
  (ids.filter fun n => s.spillTurn.toNat < n.toNat) ++ (ids.filter fun n => n.toNat ≤ s.spillTurn.toNat)

/-- The head record of a context's spill queue enters the pool if an entry takes it. -/
def State.unspill (s : State) (id : CtxId) : Option State :=
  match (s.ctxOf id).spill with
  | [] => none
  | r :: rest =>
    match s.poolEntry r.depth with
    | none => none
    | some reserve =>
      let s := s.modCtx id fun x => { x with spill := rest }
      some ({ s with spillTurn := id }.intoPool r reserve)

/-- Free entries are filled from the spill queues, which take turns (R297). -/
def State.refill : Nat → State → State
  | 0, s => s
  | n + 1, s =>
    match s.spillOrder.findSome? fun id => s.unspill id with
    | some t => State.refill n t
    | none => s

end Sys2Proof.Machine
end

