-- ==== Sys2Proof/Machine/Stash.lean ====
section
/-! DEFINITION. Machine/Stash.lean: Sump's rings in device memory, and Grotto's entries, frames, victims, prefetches and
moves (R363, R399 to R403). -/

namespace Sys2Proof.Machine

/-! ## Sump's rings (R363) -/

/-- The address of entry k of a ring. -/
def ringAddr (base : DWord) (k : Nat) : Nat := bits base.toNat 50 12 * 4096 + 8 * (k % 2 ^ ringLog (base.toNat % 32) 16)

/-- The entries between a producer and a consumer, at most a ring's size. -/
def ringLeft (base prod cons : DWord) : Nat := min (prod - cons).toNat (2 ^ ringLog (base.toNat % 32) 16)

/-- What waits for the release ring is written while it has room. -/
def State.flushReturned : Nat → State → State
  | 0, s => s
  | n + 1, s =>
    match s.returned with
    | [] => s
    | x :: rest =>
      let r := s.regs
      if (r.srrprod - r.srrcons).toNat < 2 ^ ringLog (r.srrbase.toNat % 32) 16 then
        State.flushReturned n { s with
          returned := rest, mem := writeLE s.mem (ringAddr r.srrbase r.srrprod.toNat) 8 x.toNat
          regs := { r with srrprod := r.srrprod + 1 } }
      else s

/-- Frames or groups returned to the release ring. -/
def State.giveRing (s : State) (xs : List Nat) : State :=
  let s := { s with returned := s.returned ++ xs.map (BitVec.ofNat 64) }
  s.flushReturned s.returned.length

/-- n usable entries from the head of a free ring of `left` entries, the unusable ones before them, and the consumer
index after them. A usable entry is wanted, or holds up the ring. -/
def takeEntriesFrom (rd : Nat → Nat) (kind : Nat → Option Bool) : Nat → Nat → Nat → Option (List Nat × List Nat × Nat)
  | _, k, 0 => some ([], [], k)
  | 0, _, _ + 1 => none
  | left + 1, k, n + 1 =>
    match kind (rd k) with
    | none => (takeEntriesFrom rd kind left (k + 1) (n + 1)).map fun r => (r.1, rd k :: r.2.1, r.2.2)
    | some false => none
    | some true => (takeEntriesFrom rd kind left (k + 1) n).map fun r => (rd k :: r.1, r.2.1, r.2.2)

/-- A free-frame entry is usable: aligned, in TIER 0. -/
def State.frameKind (s : State) (pa : Nat) : Option Bool :=
  if pa % 4096 = 0 ∧ s.inTier 0 pa 4096 then some true else none

/-- A free-group entry is usable, and of a wanted tier. -/
def State.groupKind (s : State) (tier pa : Nat) : Option Bool :=
  if pa % 65536 = 0 ∧ (s.inTier 1 pa 65536 ∨ s.inTier 2 pa 65536) then some (s.inTier tier pa 65536) else none

/-- Free HBM frames in the free ring. -/
def State.freeHbm (s : State) : Nat := ringLeft s.regs.srfbase s.regs.srfprod s.regs.srfcons

/-- The marks looked at (R332): demotion goes on from below LOW up to HIGH. -/
def State.noteMarks (s : State) : State :=
  let n := s.freeHbm
  { s with demoting :=
      if n < bits s.regs.smark.toNat 31 0 then true
      else if bits s.regs.smark.toNat 63 32 ≤ n then false else s.demoting }

/-- A free frame. -/
def State.takeFrame (s : State) : Option (Nat × State) :=
  let r := s.regs
  match takeEntriesFrom (fun k => readLE s.mem (ringAddr r.srfbase k) 8) s.frameKind
      (ringLeft r.srfbase r.srfprod r.srfcons) r.srfcons.toNat 1 with
  | some ([f], bad, k) =>
    some (f, State.noteMarks ({ s with regs := { r with srfcons := BitVec.ofNat 64 k } }.giveRing bad))
  | _ => none

/-- n free page groups of a tier, their page records cleared.
Log entry 24: DESIGN CHOICE, unsafe. -/
def State.takeGroups (s : State) (tier n : Nat) : Option (List Nat × State) :=
  let r := s.regs
  match takeEntriesFrom (fun k => readLE s.mem (ringAddr r.srgbase k) 8) (s.groupKind tier)
      (ringLeft r.srgbase r.srgprod r.srgcons) r.srgcons.toNat n with
  | some (gs, bad, k) =>
    let s := { s with
      regs := { r with srgcons := BitVec.ofNat 64 k }
      mem := gs.foldl (fun m g => writeBytes m g (List.replicate 0x500 0)) s.mem }
    some (gs, s.giveRing bad)
  | none => none

/-- The unusable entries at the head of a free ring, and the consumer index after them. -/
def skipBad (rd : Nat → Nat) (kind : Nat → Option Bool) : Nat → Nat → List Nat × Nat
  | 0, k => ([], k)
  | left + 1, k =>
    if (kind (rd k)).isNone then
      let r := skipBad rd kind left (k + 1)
      (rd k :: r.1, r.2)
    else ([], k)

/-- Where no entry could be taken, the unusable ones at the heads of the free rings go to the release ring (R363). -/
def State.dropBad (s : State) : State :=
  let r := s.regs
  let f := skipBad (fun k => readLE s.mem (ringAddr r.srfbase k) 8) s.frameKind
    (ringLeft r.srfbase r.srfprod r.srfcons) r.srfcons.toNat
  let g := skipBad (fun k => readLE s.mem (ringAddr r.srgbase k) 8) (s.groupKind 1)
    (ringLeft r.srgbase r.srgprod r.srgcons) r.srgcons.toNat
  State.noteMarks ({ s with
    regs := { r with srfcons := BitVec.ofNat 64 f.2, srgcons := BitVec.ofNat 64 g.2 } }.giveRing (f.1 ++ g.1))

/-! ## Entries and budgets (R399, R400) -/

/-- The key code stage · 2^20 + slot · 2^16 + tag (R405). -/
def stashKey (stage : Nat) (slot : BitVec 4) (tag : Nat) : BitVec 22 :=
  BitVec.ofNat 22 (stage % 4 * 2 ^ 20 + slot.toNat * 2 ^ 16 + tag % 2 ^ 16)

/-- Grotto serves a context (R399). -/
def State.grottoServes (s : State) (id : CtxId) : Bool := s.grotto.ctl.getLsbD 16 && s.weir.ctx == some id

/-- The entry of a key; none is RELEASED. -/
def Grotto.find (g : Grotto) (key : BitVec 22) : Option StashEntry := g.entries.find? fun e => e.key = key

/-- An entry changed. -/
def Grotto.modify (g : Grotto) (key : BitVec 22) (f : StashEntry → StashEntry) : Grotto :=
  { g with entries := g.entries.map fun e => if e.key = key then f e else e }

/-- An entry changed in the state. -/
def State.modStash (s : State) (key : BitVec 22) (f : StashEntry → StashEntry) : State :=
  { s with grotto := s.grotto.modify key f }

/-- Frames of an entry of n bytes. -/
def stashFrames (n : Nat) : Nat := (n + 4095) / 4096

/-- Page groups of an entry of n bytes (R401). -/
def stashGroups (n : Nat) : Nat := (stashFrames n + 15) / 16

/-- The first byte of the stash area. -/
def Grotto.base (g : Grotto) : Nat := bits g.hbase.toNat 50 12 * 4096

/-- The physical address of a frame. -/
def Grotto.frame (g : Grotto) (k : Nat) : Nat := g.base + 4096 * k

/-- The frames Grotto may use: none of an area not wholly in TIER 0. -/
def State.frameBudget (s : State) : Nat :=
  let n := bits s.grotto.hlim.toNat 31 0
  if s.inTier 0 s.grotto.base (4096 * n) then n else 0

/-- The frames in use. -/
def Grotto.used (g : Grotto) : List Nat := g.entries.flatMap StashEntry.frames

/-- The lowest n free frames. -/
def State.freeFrames (s : State) (n : Nat) : Option (List Nat) :=
  let used := s.grotto.used
  let fs := ((List.range (min s.frameBudget (used.length + n))).filter fun k => !used.contains k).take n
  if fs.length = n then some fs else none

/-- The page groups in use. -/
def Grotto.groupCount (g : Grotto) : Nat := (g.entries.map fun e => e.groups.length).sum

/-- GRUSE (R399). -/
def Grotto.use (g : Grotto) : DWord :=
  BitVec.ofNat 64 (g.entries.length * 2 ^ 48 + g.groupCount % 2 ^ 16 * 2 ^ 32 + g.used.length)

/-- The spill tier. -/
def Grotto.tier (g : Grotto) : Nat := if bits g.ctl.toNat 19 18 = 2 then 2 else 1

/-- The page groups for n bytes, within GRCLIM. -/
def State.spillGroups (s : State) (n : Nat) : Option (List Nat × State) :=
  if s.grotto.groupCount + stashGroups n ≤ bits s.grotto.clim.toNat 15 0 then s.takeGroups s.grotto.tier (stashGroups n)
  else none

/-! ## Prefetches (R401, R403) -/

/-- The event *pre* at an entry: a SPILLED entry's promotion starts with frames that are free, or waits for them. -/
def State.prefetchEntry (s : State) (e : StashEntry) : State :=
  match e.state with
  | .resident => s.modStash e.key fun e => { e with state := .ready }
  | .compressing =>
    (s.modStash e.key fun e => { e with state := .ready, groups := [] }).giveRing (e.groups.map BitVec.toNat)
  | .spilled =>
    match s.freeFrames (stashFrames e.bytes) with
    | some fs => s.modStash e.key fun e => { e with state := .prefetching, frames := fs, wantFrames := false }
    | none => s.modStash e.key fun e => { e with wantFrames := true }
  | _ => s

/-- A prefetch of every SPILLED entry of a stage and tag, in ascending slot order. -/
def State.prefetchTag (s : State) (stage tag : Nat) : State :=
  (List.range 16).foldl (fun s slot =>
    match s.grotto.find (stashKey stage (BitVec.ofNat 4 slot) tag) with
    | some e => if e.state = .spilled then s.prefetchEntry e else s
    | none => s) s

/-- The prefetches that wait for frames go on as frames free.
Log entry 25: DEDUCED, safe. -/
def State.kickPrefetch (s : State) : State :=
  s.grotto.entries.foldl (fun s e => if e.wantFrames && e.state == .spilled then s.prefetchEntry e else s) s

/-- Weir names its lookahead to Grotto (R393, R403). -/
def State.nameStash (s : State) : State :=
  if s.grotto.ctl.getLsbD 16 ∧ s.weir.ctx.isSome then
    (s.weir.stages.zipIdx).foldl (fun s (st, k) => st.lookahead.foldl (fun s t => s.prefetchTag k t.toNat) s) s
  else s

/-! ## Victims (R402) -/

/-- The stage, tag and rank of an entry: the ASN of its live record, if any. -/
def State.stashAsn (s : State) (key : BitVec 22) : Option Nat :=
  let st := s.weir.stages.getD (key.toNat / 2 ^ 20) WeirStage.start
  (st.recs.find? fun r => r.tag.toNat = key.toNat % 2 ^ 16).map WeirRec.asn

/-- Weir's latest lookahead names the entry's tag. -/
def State.stashNamed (s : State) (key : BitVec 22) : Bool :=
  let st := s.weir.stages.getD (key.toNat / 2 ^ 20) WeirStage.start
  st.lookahead.any fun t => decide (t.toNat = key.toNat % 2 ^ 16)

/-- A `cfetch` of the entry is under way on a core. -/
def State.beingFetched (s : State) (key : BitVec 22) : Bool :=
  s.cores.toList.any fun c => c.cq.any fun x => x.phase == .stopped && decide (0 < x.progress) && match x.instr with
    | .cfetch _ slot _ _ => stashKey x.snap.stage.toNat slot x.snap.tag.toNat == key
    | _ => false

/-- One entry ranks above another as a victim. -/
def rankAbove (a b : Option Nat × BitVec 22) : Bool :=
  match a.1, b.1 with
  | none, some _ => true
  | some _, none => false
  | none, none => decide (b.2.toNat < a.2.toNat)
  | some m, some n => decide (n < m) || (m == n && decide (b.2.toNat < a.2.toNat))

/-- A victim dropped or spilled; none where it is passed over. -/
def State.evict (s : State) (e : StashEntry) : Option State :=
  let drop := (s.modStash e.key fun e => { e with state := .dropped, frames := [] }).kickPrefetch
  if e.recomputable ∧ s.grotto.ctl.getLsbD 17 then some drop
  else
    match s.spillGroups e.bytes with
    | some (gs, t) => some (t.modStash e.key fun e =>
        { e with state := .compressing, groups := gs.map (BitVec.ofNat 51), kept := [] })
    | none => if e.recomputable then some drop else none

/-- The entry of highest rank among some. -/
def State.topVictim (s : State) : List StashEntry → Option StashEntry
  | [] => none
  | e :: es =>
    match s.topVictim es with
    | none => some e
    | some f => if rankAbove (s.stashAsn e.key, e.key) (s.stashAsn f.key, f.key) then some e else some f

/-- The victim of R402 handled. -/
def State.chooseVictim (s : State) : Option State :=
  match s.topVictim (s.grotto.entries.filter fun e =>
      e.state = .resident ∧ !s.stashNamed e.key ∧ !s.beingFetched e.key ∧ (s.evict e).isSome) with
  | some e => s.evict e
  | none => none

/-- Frames for a placement or a fetch's promotion: victims are chosen until so many are free or freeing. -/
def State.makeRoom (n : Nat) : Nat → State → State
  | 0, s => s
  | fuel + 1, s =>
    let freeing := ((s.grotto.entries.filter fun e => e.state = .compressing).map fun e => e.frames.length).sum
    if n + s.grotto.used.length ≤ s.frameBudget + freeing then s
    else
      match s.chooseVictim with
      | some t => State.makeRoom n fuel t
      | none => s.dropBad

/-! ## Moves (R401) -/

/-- The frame i of an entry as a page of its groups: where its page record lies. -/
def StashEntry.page (e : StashEntry) (i : Nat) : Nat := (e.groups.getD (i / 16) 0).toNat + 4096 * (i % 16)

/-- Frame i encoded into its page group; a page that finds no room is kept beside it. -/
def encodeFrame (e : StashEntry) (a : Mem × List (Nat × List Byte)) (i : Nat) (xs : List Byte) : Mem × List (Nat × List Byte) :=
  match findUnits a.1 (groupOf (e.page i)) (pageClass (encodePage xs) * 4) with
  | some start => (placePage a.1 (e.page i) start xs, a.2)
  | none => (a.1, a.2 ++ [(i, xs)])

/-- *cmp*: COMPRESSING becomes SPILLED (R401). -/
def State.compressed (s : State) (key : BitVec 22) : State :=
  match s.grotto.find key with
  | some e =>
    if e.state ≠ .compressing then s
    else
      let (m, kept) := (e.frames.zipIdx).foldl (fun a (f, i) => encodeFrame e a i (readBytes s.mem (s.grotto.frame f) 4096))
        (s.mem, [])
      ({ s with mem := m }.modStash key fun e => { e with state := .spilled, frames := [], kept := kept }).kickPrefetch
  | none => s

/-- The bytes of frame i of a SPILLED entry. -/
def StashEntry.pageBytes (e : StashEntry) (m : Mem) (i : Nat) : Option (List Byte) :=
  match e.kept.find? fun p => p.1 = i with
  | some p => some p.2
  | none => readPage m (e.page i)

/-- *prm*: PREFETCHING becomes READY (R401); a page in error is a fatal event of the context (R399). -/
def State.promoted (s : State) (key : BitVec 22) : State :=
  match s.grotto.find key with
  | some e =>
    if e.state ≠ .prefetching then s
    else
      let pages := (List.range e.frames.length).map (e.pageBytes s.mem)
      if pages.any Option.isNone then s.fatal (s.weir.ctx.getD 0) 21 0x7F
      else
        let m := (e.frames.zip pages).foldl (fun m p => writeBytes m (s.grotto.frame p.1) (p.2.getD [])) s.mem
        ({ s with mem := m }.modStash key fun e => { e with state := .ready, groups := [], kept := [] }).giveRing
          (e.groups.map BitVec.toNat)
  | none => s

/-- The entry goes; its frames and groups are free. -/
def State.releaseStash (s : State) (e : StashEntry) : State :=
  ({ s with grotto := { s.grotto with entries := s.grotto.entries.filter fun x => x.key ≠ e.key } }.giveRing
    (e.groups.map BitVec.toNat)).kickPrefetch

/-- Every entry of a context is discarded when it reaches RETIRED (R399). -/
def State.discardStash (s : State) (id : CtxId) : State :=
  if s.weir.ctx = some id then
    let gs := s.grotto.entries.flatMap fun e => e.groups.map BitVec.toNat
    { s with grotto := { s.grotto with entries := [] } }.giveRing gs
  else s

/-- A group has retired: the keys its jobs placed are raced by no one (R405). -/
def State.stashRetired (s : State) (slot : Nat) : State :=
  { s with grotto := { s.grotto with entries := s.grotto.entries.map fun e => if e.slot = slot then { e with slot := 128 } else e } }

end Sys2Proof.Machine
end

