-- ==== Sys2Proof/Machine/Weir.lean ====
section
/-! DEFINITION. Machine/Weir.lean: the microbatch scheduler: stages and policy rows, arrivals, retirements, evaluation,
picks, weight versions and the `mb.*` words (R381 to R398). -/

namespace Sys2Proof.Machine

/-! ## Stage descriptors and policy rows (R382, R383) -/

/-- KF, KB or KW by step kind. -/
def sdKernel (d : Nat) (step : Nat) : Nat := bits d (32 * step + 31) (32 * step)
/-- GPRIO. -/
def sdGprio (d : Nat) : Nat := bits d 103 96
/-- SFLAGS. -/
def sdFlags (d : Nat) : Nat := bits d 111 104
/-- WARM. -/
def sdWarm (d : Nat) : Nat := bits d 119 112
/-- LAG. -/
def sdLag (d : Nat) : Nat := bits d 122 120
/-- PART. -/
def sdPart (d : Nat) : Nat := bits d 255 128
/-- PARAM. -/
def sdParam (d : Nat) : Nat := bits d 319 256
/-- PBLEN. -/
def sdPblen (d : Nat) : Nat := bits d 335 320
/-- DONEEV. -/
def sdDone (d : Nat) : Nat := bits d 351 336
/-- VSTRIDE. -/
def sdVstride (d : Nat) : Nat := bits d 383 352
/-- VBASE. -/
def sdVbase (d : Nat) : Nat := bits d 447 384

/-- A VALID descriptor keeps R397. -/
def sdOk (d ncore : Nat) (cores : BitVec 128) : Bool :=
  let part : BitVec 128 := BitVec.ofNat 128 (sdPart d)
  decide (sdFlags d / 4 = 0) && decide (bits d 127 123 = 0) && decide (bits d 350 344 = 0) && decide (bits d 511 448 = 0) &&
    decide (sdWarm d ≤ 64) && decide (sdLag d ≤ 6) && decide (sdKernel d 0 ≠ 0) && decide (sdKernel d 1 ≠ 0) &&
    decide (part ≠ 0) && decide (part.toNat < 2 ^ ncore) && decide (part &&& ~~~cores = 0) && decide (sdPblen d ≤ 64) &&
    (decide (sdPblen d = 0) || decide (sdParam d % 64 = 0)) && decide (sdVstride d ≠ 0) && decide (sdVstride d % 64 = 0) &&
    decide (sdVbase d % 64 = 0) && isGlobal (sdVbase d)

/-- A VALID policy row keeps R397. -/
def rowOk (v : Nat) : Bool :=
  decide (bits v 63 39 = 0) && !bitN v 31 && decide (bits v 23 18 = 0) && !bitN v 15 && !bitN v 11 && !bitN v 3 &&
    decide (bits v 6 4 ≤ 4) && decide (bits v 17 16 ≤ 2) && decide (bits v 38 32 ≤ 64) && decide (bits v 30 24 ≤ 64)

/-! ## Records and versions (R384, R390, R391) -/

/-- The number of step kind F, B or W in a record's state: the queue it stands in. -/
def WeirStage.queued (st : WeirStage) (x : RecState) : List WeirRec := st.recs.filter fun r => r.state = x

/-- The record of least key among some. -/
def least (key : WeirRec → Nat) : List WeirRec → Option WeirRec
  | [] => none
  | r :: rs =>
    match least key rs with
    | none => some r
    | some q => if key q < key r then some q else some r

/-- need(a). -/
def WeirStage.need (st : WeirStage) (r : WeirRec) : Nat := r.asn - sdLag st.sd.toNat

/-- A change of the record of an arrival number. -/
def WeirStage.modRec (st : WeirStage) (asn : Nat) (f : WeirRec → WeirRec) : WeirStage :=
  { st with recs := st.recs.map fun r => if r.asn = asn then f r else r }

/-- Slot k serves a version. -/
def servesVersion (v : Nat) : Option (Nat × Nat) → Bool
  | some (lo, hi) => decide (lo ≤ v) && decide (v ≤ hi)
  | none => false

/-- The slot that serves a version. -/
def WeirStage.slotServing (st : WeirStage) (v : Nat) : Option Nat := st.slots.findIdx? (servesVersion v)

/-- The base of a version slot. -/
def WeirStage.slotVa (st : WeirStage) (k : Nat) : DWord :=
  BitVec.ofNat 64 (sdVbase st.sd.toNat + k * sdVstride st.sd.toNat)

/-- Slot k is in use (R391). -/
def WeirStage.inUse (st : WeirStage) (k : Nat) : Bool :=
  (match st.reserved with
    | some (r, _) => r == k
    | none => false) ||
    match st.slots.getD k none with
    | none => false
    | some (lo, hi) =>
      servesVersion st.head (some (lo, hi)) || decide (max lo (st.head + 1) ≤ min hi st.published) ||
        st.recs.any fun r => match r.held with
          | some v => servesVersion v (some (lo, hi))
          | none => false

/-- The W step of a record has retired: its version is published and the record freed (R390, R391). -/
def WeirStage.publish (st : WeirStage) (asn : Nat) : WeirStage :=
  let slots := match st.reserved with
    | some (k, _) => st.slots.set k (some (asn + 1, asn + 1))
    | none =>
      match st.slotServing asn with
      | some k => st.slots.modify k fun x => x.map fun p => (p.1, max p.2 (asn + 1))
      | none => st.slots
  { st with
    slots := slots, reserved := none, published := max st.published (asn + 1), infl := st.infl - 1
    recs := st.recs.filter fun r => r.asn ≠ asn }

/-- A stage of Weir. -/
def State.stage (s : State) (k : Nat) : WeirStage := s.weir.stages.getD k WeirStage.start

/-- A stage of Weir changed. -/
def State.modStage (s : State) (k : Nat) (f : WeirStage → WeirStage) : State :=
  { s with weir := { s.weir with stages := s.weir.stages.modify k f } }

/-! ## Picks (R388) -/

/-- Records held for want of room are submitted in the order of their picks. -/
def State.submitHeld : Nat → State → State
  | 0, s => s
  | n + 1, s =>
    match s.weir.held with
    | [] => s
    | r :: rest =>
      match s.submit r with
      | some t => State.submitHeld n { t with weir := { t.weir with held := rest } }
      | none => s

/-- The launch record of a pick; what R397 checked of the descriptor, R287 would find again. -/
def pickRecord (id : CtxId) (st : WeirStage) (k step : Nat) (r : WeirRec) : PoolRec :=
  let d := st.sd.toNat
  let v := r.held.getD 0
  { ctx := id
    record := {
      khandle := BitVec.ofNat 32 (sdKernel d step), gprio := BitVec.ofNat 8 (sdGprio d), phb := bitN (sdFlags d) 1
      pblen := sdPblen d, param := BitVec.ofNat 64 (sdParam d), part := BitVec.ofNat 128 (sdPart d), wait := 0, set := 0 }
    depth := 0, copy := none, desc := 0, ready := none, reserve := false
    pick := some {
      stage := BitVec.ofNat 2 k, step := BitVec.ofNat 2 step, tag := r.tag, asn := r.asn
      wver := BitVec.ofNat 64 v, wbase := st.slotVa ((st.slotServing v).getD 0) } }

/-- A pick is submitted behind those already held. -/
def State.pick (s : State) (k step : Nat) (r : WeirRec) : State :=
  let id := s.weir.ctx.getD 0
  let s := s.modStage k fun st => { st with picked := st.picked + 1 }
  let p := pickRecord id (s.stage k) k step r
  State.submitHeld (s.weir.held.length + 1) { s with weir := { s.weir with held := s.weir.held ++ [p] } }

/-! ## Evaluation (R383, R387) -/

/-- A queue named by a bit of QNE or QEM. -/
def WeirStage.emptyQueue (st : WeirStage) (q : Nat) : Bool :=
  (st.queued (if q = 0 then .arrivedF else if q = 1 then .arrivedB else .wPending)).isEmpty

/-- A row's conditions hold (R383). -/
def WeirStage.holds (st : WeirStage) (v : Nat) : Bool :=
  st.valid && !st.halt && decide (bits v 30 24 ≤ st.infl) && decide (st.infl ≤ bits v 38 32) &&
    (match bits v 17 16 with
      | 1 => decide (0 < st.warm)
      | 2 => decide (st.warm = 0)
      | _ => true) &&
    ((List.range 3).all fun q =>
      (!bitN v (8 + q) || !st.emptyQueue q) && (!bitN v (12 + q) || st.emptyQueue q)) &&
    (!bitN v 7 || decide (st.picked = 0))

/-- A pick F of the oldest record of the F queue. -/
def State.pickF (s : State) (k : Nat) : Option State :=
  let st := s.stage k
  match least WeirRec.asn (st.queued .arrivedF) with
  | none => none
  | some r =>
    if st.need r ≠ st.head then none
    else
      let r' := { r with state := .fRunning, held := some st.head, warmed := decide (0 < st.warm) }
      let s := s.modStage k fun st => { st.modRec r.asn (fun _ => r') with infl := st.infl + 1, warm := st.warm - 1 }
      some (s.pick k 0 r')

/-- A pick B of the first record of the B queue. -/
def State.pickB (s : State) (k : Nat) : Option State :=
  match least WeirRec.since ((s.stage k).queued .arrivedB) with
  | none => none
  | some r => some ((s.modStage k fun st => st.modRec r.asn fun r => { r with state := .bRunning }).pick k 1 r)

/-- A pick W of the lowest record, which with KW = 0 retires at once. -/
def State.pickW (s : State) (k : Nat) : Option State :=
  match least WeirRec.asn (s.stage k).recs with
  | none => none
  | some r =>
    if r.state ≠ .wPending then none
    else if sdKernel (s.stage k).sd.toNat 2 = 0 then some (s.modStage k fun st => st.publish r.asn)
    else some ((s.modStage k fun st => st.modRec r.asn fun r => { r with state := .wRunning }).pick k 2 r)

/-- ADV. -/
def State.advHead (s : State) (k : Nat) : Option State :=
  let st := s.stage k
  match least WeirRec.asn (st.queued .arrivedF) with
  | none => none
  | some r =>
    if st.head + 1 ≤ st.published ∧ st.head < st.need r then some (s.modStage k fun st => { st with head := st.head + 1 })
    else none

/-- What one scan of the rows comes to: an action performed, or nothing further. -/
def State.scanRows (s : State) : List DWord → Option State
  | [] => none
  | w :: ws =>
    let v := w.toNat
    let k := bits v 2 1
    if bitN v 0 && (s.stage k).holds v then
      match bits v 6 4 with
      | 0 => none
      | 1 => match s.pickF k with
        | some t => some t
        | none => s.scanRows ws
      | 2 => match s.pickB k with
        | some t => some t
        | none => s.scanRows ws
      | 3 => match s.pickW k with
        | some t => some t
        | none => s.scanRows ws
      | _ => match s.advHead k with
        | some t => some t
        | none => s.scanRows ws
    else s.scanRows ws

/-- `evaluate`: each action moves a record on or the head towards a published version, so that 4096 rounds end it. -/
def State.evalRounds : Nat → State → State
  | 0, s => s
  | n + 1, s =>
    match s.scanRows s.weir.rows with
    | some t => State.evalRounds n t
    | none => s

/-- The tags named to Grotto (R393): the two lowest-numbered records that are STASHED or ARRIVED_B. -/
def WeirStage.named (st : WeirStage) : List Half :=
  let rs := st.recs.filter fun r => r.state = .stashed ∨ r.state = .arrivedB
  match least WeirRec.asn rs with
  | none => []
  | some a =>
    match least WeirRec.asn (rs.filter fun r => r.asn ≠ a.asn) with
    | none => [a.tag]
    | some b => [a.tag, b.tag]

/-- Weir evaluates after an event.
Log entry 62: DEDUCED, unsafe. -/
def State.evaluate (s : State) : State :=
  let s := State.evalRounds 4096 s
  State.nameStash { s with weir := { s.weir with stages := s.weir.stages.map fun st => { st with lookahead := st.named } } }

/-- A stage's marker is to be applied (R396). -/
def WeirStage.markerDue (st : WeirStage) : Bool :=
  match st.marker with
  | some n => st.recs.all fun r => decide (n ≤ r.asn)
  | none => false

/-- A marker is applied as one event: WARM, DONEEV, the evaluation (R396). -/
def State.applyMarker (s : State) (k : Nat) : State :=
  let d := (s.stage k).sd.toNat
  let s := s.modStage k fun st => { st with marker := none, warm := sdWarm d }
  let s := if bitN (sdDone d) 15 then s.setEvents (s.weir.ctx.getD 0) (1#256 <<< (sdDone d % 256)) else s
  s.evaluate

/-- Markers that an event made due, each once.
Log entry 63: DEDUCED, unsafe. -/
def State.applyMarkers : Nat → State → State
  | 0, s => s
  | n + 1, s =>
    match (List.range 4).find? fun k => (s.stage k).markerDue with
    | some k => State.applyMarkers n (s.applyMarker k)
    | none => s

/-- One Weir event and what follows it. -/
def State.weirEvent (s : State) : State := State.applyMarkers 4 s.evaluate

/-! ## Arrivals, retirements and faults (R385, R386) -/

/-- What an arrival comes to. -/
inductive Arrival where
  | applied | refused | waits
deriving DecidableEq, Repr

/-- An arrival before its evaluation. -/
def WeirStage.arrive (st : WeirStage) (isB : Bool) (tag : Half) (src : FSource) (clock : Nat) : WeirStage × Arrival :=
  match isB, st.recs.find? fun r => r.tag = tag with
  | false, some _ => (st, .refused)
  | false, none =>
    if st.fsrc.isSome ∧ st.fsrc ≠ some src then (st, .refused)
    else if 64 ≤ st.recs.length then (st, .waits)
    else
      ({ st with
          recs := st.recs ++ [⟨tag, st.nextAsn, .arrivedF, false, none, false, 0⟩]
          nextAsn := st.nextAsn + 1, fsrc := some src }, .applied)
  | true, none => (st, .refused)
  | true, some r =>
    match r.state with
    | .arrivedF | .fRunning =>
      if r.bpend then (st, .refused)
      else (st.modRec r.asn fun r => { r with bpend := true, since := clock }, .applied)
    | .stashed => (st.modRec r.asn fun r => { r with state := .arrivedB, since := clock }, .applied)
    | _ => (st, .refused)

/-- An arrival at a stage of the Weir, with what it comes to. -/
def State.weirArrive (s : State) (k : Nat) (isB : Bool) (tag : Half) (src : FSource) : State × Arrival :=
  if !(s.stage k).valid then (s, .refused)
  else
    let (st, a) := (s.stage k).arrive isB tag src s.weir.clock
    if a = .applied then
      let s := { s with weir := { s.weir with clock := s.weir.clock + 1 } }
      ((s.modStage k fun _ => st).weirEvent, a)
    else (s, a)

/-- The stage still has a record of a pick's arrival number. -/
def State.pickLive (s : State) (id : CtxId) (p : WeirPick) : Bool :=
  s.weir.ctx == some id && (s.stage p.stage.toNat).recs.any fun r => r.asn == p.asn

/-- *fr*, *br* and *wr*: a picked group has retired (R386). -/
def State.weirRetired (s : State) (id : CtxId) (p : WeirPick) : State :=
  if !s.pickLive id p then s
  else
    let k := p.stage.toNat
    (s.modStage k fun st =>
      let st := { st with picked := st.picked - 1 }
      match p.step.toNat with
      | 0 => st.modRec p.asn fun r =>
          if r.bpend then { r with state := .arrivedB, bpend := false } else { r with state := .stashed }
      | 1 => st.modRec p.asn fun r => { r with state := .wPending }
      | _ => st.publish p.asn).weirEvent

/-- *pf*: a picked group has reached FAULTED; the pick is undone and its stage halts (R386, R388). -/
def State.weirFaulted (s : State) (id : CtxId) (p : WeirPick) : State :=
  if !s.pickLive id p then s
  else
    (s.modStage p.stage.toNat fun st =>
      let st := { st with picked := st.picked - 1, halt := true }
      match p.step.toNat with
      | 0 =>
        let back := st.recs.any fun r => decide (r.asn = p.asn) && r.warmed
        let st := st.modRec p.asn fun r => { r with state := .arrivedF, held := none, warmed := false }
        { st with infl := st.infl - 1, warm := st.warm + if back then 1 else 0 }
      | 1 => st.modRec p.asn fun r => { r with state := .arrivedB }
      | _ => { st.modRec p.asn (fun r => { r with state := .wPending }) with reserved := none }).weirEvent

/-- Weir is unbound when its context reaches RETIRED (R381). -/
def State.unbindWeir (s : State) (id : CtxId) : State :=
  if s.weir.ctx = some id then
    { s with weir := { s.weir with ctx := none, rows := [], stages := List.replicate 4 WeirStage.start, held := [] } }
  else s

/-- A bit of EV is the DONEEV bit of a VALID stage of the Weir bound to a context; with `marked`, of one that holds a
recorded and unapplied marker (R290, R300). -/
def State.doneBit (s : State) (id : CtxId) (marked : Bool) (n : Nat) : Bool :=
  s.weir.ctx == some id && s.weir.stages.any fun st =>
    st.valid && bitN (sdDone st.sd.toNat) 15 && decide (sdDone st.sd.toNat % 256 = n) && (!marked || st.marker.isSome)

/-! ## The words (R394 to R398) -/

/-- `mb.post`, `mb.done` and `mb.ver` need the Weir of their context. -/
def needWeir : M Unit := do
  let s ← getS
  trapIf (s.weir.ctx != some s.curCtx) .queue 21

/-- `mb.post` (R395). -/
def mbPost (isB : Bool) (st : BitVec 2) (a : XReg) (s : State) : Host.Outcome State Fault Refusal :=
  runS (do
    needWeir
    let tag ← getX a
    trapIf (decide (tag.toNat / 65536 ≠ 0) || !((← getS).stage st.toNat).valid) .queue 19
    releaseS
    let s ← getS
    let (t, r) := s.weirArrive st.toNat isB (BitVec.ofNat 16 tag.toNat) (.core (BitVec.ofNat 7 s.cur.val))
    match r with
    | .refused => trapM .queue 19
    | .waits => stop .engine
    | .applied => modS fun _ => t
    advance) s

/-- `mb.post.f` (R395). -/
def execMbPostF (a : XReg) (st : BitVec 2) (s : State) : Host.Outcome State Fault Refusal := mbPost false st a s

/-- `mb.post.b` (R395). -/
def execMbPostB (a : XReg) (st : BitVec 2) (s : State) : Host.Outcome State Fault Refusal := mbPost true st a s

/-- `mb.done` (R396). -/
def execMbDone (st : BitVec 2) (s : State) : Host.Outcome State Fault Refusal :=
  runS (do
    needWeir
    let x := (← getS).stage st.toNat
    trapIf (!x.valid) .queue 19
    waitIf x.marker.isSome .engine
    modS fun s => State.applyMarkers 4 (s.modStage st.toNat fun x => { x with marker := some x.nextAsn })
    advance) s

/-- A stage after `mb.pol` (R384, R390, R391). -/
def freshStage (d : Nat) : WeirStage :=
  { WeirStage.start with
    sd := BitVec.ofNat 512 d, valid := bitN (sdFlags d) 0, warm := sdWarm d
    slots := some (0, 0) :: List.replicate 7 none }

/-- `mb.pol` (R397). -/
def execMbPol (a : XReg) (s : State) : Host.Outcome State Fault Refusal :=
  runS (do
    let x ← getCtx
    trapIf (!x.priv) .priv (sInfo (0xE0000002 + a.toNat * 65536))
    let s ← getS
    let id := s.curCtx
    trapIf ((match s.weir.ctx with
      | some w => w != id
      | none => false) || (s.weir.ctx == some id && s.weir.stages.any fun st => !st.recs.isEmpty)) .queue 21
    let ea ← getX a
    let lines ← mapM' (fun k => loadWeir ea k) (List.range 8)
    let b := lines.foldr (fun x n => x + 2 ^ 512 * n) 0
    let rows := (List.range 32).map fun k => bits b (64 * k + 63) (64 * k)
    let sds := (List.range 4).map fun k => bits b (2048 + 512 * k + 511) (2048 + 512 * k)
    let ok := (rows.all fun v => !bitN v 0 || rowOk v) && sds.all fun d => !bitN (sdFlags d) 0 || sdOk d s.ncore x.cores
    trapIf (!ok) .format ea
    modS fun s => { s with weir := { s.weir with
      ctx := some id, rows := rows.map (BitVec.ofNat 64), stages := sds.map freshStage, held := [] } }.weirEvent
    advance) s
where
  /-- Line k of the block. -/
  loadWeir (ea : DWord) (k : Nat) : M Nat := loadWord (ea + BitVec.ofNat 64 (64 * k)) 64

/-- `mb.ver` (R398). -/
def mbVer (d : XReg) (new : Bool) (s : State) : Host.Outcome State Fault Refusal :=
  runS (do
    needWeir
    let s ← getS
    let j ← getJob
    match (s.group j.slot).bind (·.src.pick) with
    | none => trapM .queue 20
    | some p =>
      trapIf (p.step != 2 || decide (j.j ≠ 0)) .queue 20
      let k := p.stage.toNat
      let st := s.stage k
      if !new then setX d (st.slotVa ((st.slotServing p.asn).getD 0))
      else
        match st.reserved with
        | some (r, _) => setX d (st.slotVa r)
        | none =>
          match (List.range 8).find? fun r => !st.inUse r with
          | none => stop .engine
          | some r =>
            modS fun s => s.modStage k fun st => { st with reserved := some (r, j.slot), slots := st.slots.set r none }
            setX d (st.slotVa r)
    advance) s

/-- `mb.ver.cur` (R398). -/
def execMbVerCur (d : XReg) (s : State) : Host.Outcome State Fault Refusal := mbVer d false s

/-- `mb.ver.new` (R398). -/
def execMbVerNew (d : XReg) (s : State) : Host.Outcome State Fault Refusal := mbVer d true s

/-- WEIR_HELD_SUBMIT (R388): records that found no room are submitted again. -/
def execWeirHeldSubmit (s : State) : Host.Outcome State Fault Refusal :=
  .next (State.submitHeld s.weir.held.length s)

end Sys2Proof.Machine
end

