-- ==== Sys2Proof/Machine/Group.lean ====
section
/-! DEFINITION. Machine/Group.lean: dispatch and its checks, placement, job start and end, retirement, `launch` and the
event words (R105, R120, R274 to R279, R287 to R300, R450). -/

namespace Sys2Proof.Machine

/-! ## Dispatch reads (R267 to R278, R323) -/

/-- What ends a dispatch before its end: a reason with which the group faults LAUNCH, or a stop of its path. -/
inductive DispatchEnd where
  | reason (n : Nat)
  | stopped (x : Stop)
deriving DecidableEq, Repr

/-- A dispatch check. -/
abbrev Dispatch := ExceptT DispatchEnd M

/-- Fault the group. -/
def refuse {α : Type} (reason : Nat) : Dispatch α := ExceptT.mk (pure (.error (.reason reason)))

/-- Fault the group when a condition holds. -/
def refuseIf (b : Bool) (reason : Nat) : Dispatch Unit := if b then refuse reason else pure ()

/-- What a group has read is recorded. -/
def State.noteRead (s : State) (slot : Nat) (key : Nat × Nat) (v : Nat) : State :=
  let g := (s.group slot).map fun g => { g with reads := g.reads ++ [(key, v)] }
  { s with groups := s.groups.setIfInBounds slot g }

/-- A dispatch read, which after a stop of a later one is not made again (R268, R323): a precise outcome faults the
group with the reason of what it reads (R278). -/
def dispatchRead (slot reason : Nat) (key : Nat × Nat) (act : M Nat) : Dispatch Nat := ExceptT.mk fun s =>
  match (((s.group slot).map (·.reads)).getD []).find? fun e => e.1 = key with
  | some e => .ok (.ok e.2, s)
  | none => match act s with
    | .ok (v, t) => .ok (.ok v, t.noteRead slot key v)
    | .error (.trap .ecc _, _) => .ok (.error (.stopped (.fatal 21)), s)
    | .error (.trap _ _, _) => .ok (.error (.reason reason), s)
    | .error (x, _) => .ok (.error (.stopped x), s)

/-- A dispatch read of n bytes of a context's memory. -/
def dispatchNat (slot reason : Nat) (id : CtxId) (va n : Nat) : Dispatch Nat :=
  dispatchRead slot reason (va, n) (deviceNat id va n)

/-- The logical indices of a partition, ascending. -/
def partCores (part : BitVec 128) : List (Fin 128) := (List.finRange 128).filter fun i => part.getLsbD i.val

/-- The VA of a parameter copy (R298). -/
def copyVa (image : BitVec 57) (lidx : BitVec 7) (k : Nat) : Nat :=
  image.toNat + lidx.toNat * 0x400000 + 0x3C0000 + 4096 * k

/-- The parameter block a group's jobs see: the copy of a child, PARAM of a host launch in place, 0 where there is
none. -/
def PoolRec.paramVa (r : PoolRec) (image : BitVec 57) : Nat :=
  match r.copy with
  | some (l, k) => copyVa image l k
  | none => if r.record.pblen = 0 then 0 else r.record.param.toNat

/-- TAG, STAGE, WVER and WBASE of a group's jobs (R279, R388). -/
def PoolRec.startRegs (r : PoolRec) : DWord × DWord × DWord × DWord :=
  match r.pick with
  | some p => (p.tag.zeroExtend 64, BitVec.ofNat 64 (p.stage.toNat + (p.step.toNat + 1) * 256), p.wver, p.wbase)
  | none => (0, 0, 0, 0)

/-- The shape record of an output and its resolved base, checked (R271). -/
def dispatchShape (slot : Nat) (x : Context) (r : PoolRec) (pb pbsize shape : Nat) : Dispatch (Nat × Nat) := do
  let q ← dispatchNat slot 3 r.ctx (x.shapes.toNat + 64 * shape) 64
  refuseIf (shReserved q || decide (10 < shFmt q)) 3
  refuseIf (decide (shMode q = 1) && (decide (shPoff q % 8 ≠ 0) || decide (pbsize ≤ shPoff q))) 3
  let pm ← if shMode q = 1 then dispatchNat slot 3 r.ctx (pb + shPoff q) 8 else pure 0
  let regs := r.startRegs
  let v := shBase q pm regs.1 regs.2.2.2
  let (lo, hi) := shSpan q v
  refuseIf (decide (lo < 0) || decide (2 ^ 57 ≤ lo) || decide (hi < 0) || decide (2 ^ 57 ≤ hi)) 3
  pure (q, v)

/-- Two ranges share a number. -/
def meet (a b : Nat × Nat) : Bool := decide (a.1 < b.2) && decide (b.1 < a.2)

/-- Every pair of a list keeps a condition. -/
def allPairs {α : Type} (p : α → α → Bool) : List α → Bool
  | [] => true
  | x :: xs => xs.all (p x) && allPairs p xs

/-- Windows of two jobs for one output share no byte (R277). -/
def windowsApart (a b : List (Option (Nat × Nat × Nat))) : Bool :=
  a.all fun x => b.all fun y => match x, y with
    | some (o, lo, hi), some (o', lo', hi') => o != o' || !meet (lo, hi) (lo', hi')
    | _, _ => true

/-- The extents of the levels of a loop table. -/
def readExtents (slot : Nat) (id : CtxId) (pb b : Nat) : Dispatch (List Nat) :=
  (List.range (bits b 3 0)).foldlM (fun acc k => do
    let e := bits b (64 * k + 127) (64 * k + 64)
    let n ← if bitN e 32 then dispatchNat slot 2 id (pb + bits e 31 0) 4 else pure (bits e 31 0)
    pure (acc ++ [n])) []

/-- What a validated group brings: its jobs, its outputs, and two fields of its descriptor. -/
structure Dispatched where
  jobs : List (Fin 128 × Job)
  outs : List LiveOut
  cosched : Bool
  nbar : Nat

/-- The checks at DISPATCHING up to the registration of the outputs (R267 to R278, R287). -/
def validate (r : PoolRec) (slot : Nat) : Dispatch Dispatched := do
  let s ← ExceptT.lift getS
  let x := s.ctxOf r.ctx
  let cores := partCores r.record.part
  let p := cores.length
  let desc ← dispatchRead slot 5 (r.record.khandle.toNat, 0) (do
    pure (((← kernelLookup r.ctx r.record.khandle).map (· + 1)).getD 0))
  let va := desc - 1
  refuseIf (decide (desc = 0) || r.pick.isNone && va != r.desc.toNat) 5
  let b ← dispatchNat slot 1 r.ctx va 128
  let d ← match parseDesc x b with
    | none => refuse 1
    | some d => pure d
  refuseIf (r.record.phb && (decide (d.nbar = 0) || (!d.cosched && decide (1 < p)))) 18
  refuseIf (decide (64 * r.record.pblen < d.pbsize)) 19
  let pb := r.paramVa x.image
  let t ← dispatchNat slot 2 r.ctx d.loops 128
  refuseIf (parseLoops d t (List.replicate (bits t 3 0) 1)).isNone 2
  let ext ← readExtents slot r.ctx pb t
  let l ← match parseLoops d t ext with
    | none => refuse 2
    | some l => pure l
  let shapes ← d.outs.foldlM (fun acc o => do
    let q ← dispatchShape slot x r pb d.pbsize o.shape
    pure (acc ++ [q])) []
  let p0 := (cores.filter fun i => s.physOf i.val < 64).length
  let jobs := (cores.zipIdx).map fun (i, j) =>
    let (lo, hi) := sliceOf l.walk j p p0
    let tiles := tilesOf l.walk lo hi
    let job : Job := {
      ctx := r.ctx, slot := slot, j := j, p := p, starting := true, preempted := false, ended := false, stopping := false
      escalated := false, code := BitVec.ofNat 57 d.code, nbun := d.nbun, poolmap := BitVec.ofNat 57 d.poolmap
      khandle := r.record.khandle, param := BitVec.ofNat 64 pb, xsb := d.xsb, wsb := d.wsb, acct := d.acct, nbar := d.nbar
      levels := l.levels, perm := l.perm, tiles := tiles, left := tiles, nextWalk := (firstTile l.walk lo hi).getD 0
      sliceLo := lo, sliceHi := hi, windows := l.wins.map fun w => windowOf l shapes w lo hi }
    (i, job)
  refuseIf (!allPairs (fun a b => windowsApart a.2.windows b.2.windows) jobs) 4
  let phbar : Option (BitVec 24) := if r.record.phb then
      some (BitVec.ofNat 24 ((cores.headD 0).val * 2 ^ 17 + (d.xsb - 16 * d.nbar) / 16))
    else none
  let outs := (d.outs.zip shapes).zipIdx.map fun ((o, q, v), k) =>
    let (lo, hi) := shSpan q v
    ({ base := BitVec.ofInt 57 (lo / 64 * 64), limit := natOf (hi / 64 * 64 + 64), kind := o.kind, outidx := BitVec.ofNat 3 k
       phbar := phbar, slot := slot, cn := BitVec.ofNat 12 o.cn, complete := BitVec.ofNat 64 o.complete, reg := 0 } : LiveOut)
  pure ⟨jobs, outs, d.cosched, d.nbar⟩

/-! ## Groups in their slots -/

/-- The group of a slot replaced. -/
def State.setGroup (s : State) (slot : Nat) (g : Option Group) : State :=
  { s with groups := s.groups.setIfInBounds slot g }

/-- The state of a context in which its groups are selected and placed (R293). -/
def CtxState.runs : CtxState → Bool
  | .runnable | .running | .faultWait => true
  | _ => false

/-- A group leaves: its slot, its live outputs and its parameter copy are free (R292); what is still on its way to its
jobs finds them gone (R147, R308). -/
def State.freeGroup (s : State) (slot : Nat) (g : Group) : State :=
  State.modCtx { s.setGroup slot none with
    signals := s.signals.filter fun x => x.slot != slot
    decrements := s.decrements.filter fun d => d.slot != slot } g.ctx fun x => { x with
    outs := x.outs.filter fun e => match e.2 with
      | some o => o.slot != slot
      | none => false
    copies := match g.src.copy with
      | some c => x.copies.erase c
      | none => x.copies }

/-- A group reaches FAULTED (R292): it is reported, Weir learns of it, the context takes the esc event. -/
def State.groupFault (s : State) (slot : Nat) (g : Group) (reason : Nat) : State :=
  let s := s.freeGroup slot g
  let s := s.pushFault {
    w0 := g.src.record.khandle.zeroExtend 64
    w1 := BitVec.ofNat 64 (g.ctx.toNat + 2 ^ 16 + 3 * 2 ^ 22 + 0x7F * 2 ^ 32 + slot * 2 ^ 40 + reason * 2 ^ 48)
    w2 := 0 }
  let s := match g.src.pick with
    | some p => s.weirFaulted g.ctx p
    | none => s
  s.esc g.ctx

/-- Two regions share a line.
Log entry 59: DEDUCED, unsafe. -/
def LiveOut.meets (a b : LiveOut) : Bool := meet (a.base.toNat, a.limit) (b.base.toNat, b.limit)

/-- Outputs take the lowest free entries of the live output table (R120).
Log entry 99: DESIGN CHOICE, unsafe. -/
def takeEntries : List LiveOut → Nat → Nat → Sparse (Option LiveOut) → Sparse (Option LiveOut)
  | [], _, _, m => m
  | _, 0, _, m => m
  | o :: os, n + 1, k, m =>
    if (sget none m k).isSome then takeEntries (o :: os) n (k + 1) m
    else takeEntries os n (k + 1) (sset none m k (some o))

/-- The window of a receive endpoint whose ring an output covers opens by N slots (R353).
Log entry 51: DEDUCED, unsafe. -/
def State.openWindow (s : State) (id : CtxId) (outs : List LiveOut) (k : Fin 32) : State :=
  let c := s.chans[k]
  let n := c.nslot
  let hit := c.ctl.getLsbD 16 && c.ctl.getLsbD 17 && c.state == 1 && bits c.ctl.toNat 63 48 == id.toNat &&
    outs.any fun o => o.kind == .exchange && decide (o.base.toNat ≤ c.ringVa) &&
      decide (c.ringVa + n * c.slotBytes ≤ o.limit)
  if hit then
    let rl := c.hi + BitVec.ofNat 32 n
    State.send { s with chans := s.chans.set k { c with hi := rl, slots := [] } } (.window c.peer (rl + BitVec.ofNat 32 n))
  else s

/-- The outputs of a group are registered, or it waits for entries, or it faults LAUNCH with reason 20 (R120, R293). -/
def State.register (s : State) (slot : Nat) (g : Group) : State :=
  let x := s.ctxOf g.ctx
  if !allPairs (fun a b => !a.meets b) g.outs || g.outs.any fun o => x.liveOuts.any o.meets then s.groupFault slot g 20
  else if 64 < x.liveOuts.length + g.outs.length then s
  else
    let outs := g.outs.map fun o => { o with reg := s.fresh + 1 }
    let s := { s with fresh := s.fresh + 1 }.modCtx g.ctx fun x => { x with outs := takeEntries outs 64 0 x.outs }
    (List.finRange 32).foldl (fun s k => s.openWindow g.ctx outs k) (s.setGroup slot (some { g with registered := true }))

/-- A path of the package stopped for a context: an entry of `paths`. -/
def State.stopPkg (s : State) (p : PkgPath) (id : CtxId) (va : BitVec 57) (acc : BitVec 2) (code lidx slot : Nat)
    (migrating : Bool) : State :=
  let s := if migrating then s else s.reportAbsent id va acc code lidx slot 0
  { s with paths := s.paths ++ [(p, id, va, migrating)] }

/-- A path of the package waits on a page that is not present. -/
def State.pathHeld (s : State) (p : PkgPath) : Bool := s.paths.any fun e => e.1 = p ∧ !e.2.2.2

/-- A path of the package goes on. -/
def State.clearPath (s : State) (p : PkgPath) : State := { s with paths := s.paths.filter fun e => e.1 ≠ p }

/-- A DISPATCHING group is validated and its outputs registered, as far as it can be now. -/
def State.dispatchGroup (s : State) (slot : Nat) : State :=
  match s.group slot with
  | none => s
  | some g =>
    if g.state ≠ .dispatching ∨ g.registered ∨ !(s.ctxOf g.ctx).state.runs ∨ s.pathHeld (.dispatch slot) then s
    else if !g.jobs.isEmpty then s.register slot g
    else
      let s := s.clearPath (.dispatch slot)
      match (validate g.src slot).run s with
      | .ok (.ok d, t) =>
        let g := { g with reads := [], jobs := d.jobs, outs := d.outs, cosched := d.cosched, nbar := d.nbar }
        (t.setGroup slot (some g)).register slot g
      | .ok (.error (.reason n), t) => t.groupFault slot g n
      | .ok (.error (.stopped (.notPresent va acc)), t) => t.stopPkg (.dispatch slot) g.ctx va acc 3 0x7F slot false
      | .ok (.error (.stopped (.migrating va acc)), t) => t.stopPkg (.dispatch slot) g.ctx va acc 3 0x7F slot true
      | .ok (.error (.stopped (.fatal code)), t) => t.fatal g.ctx code 0x7F
      | .ok (.error (.stopped _), t) => t
      | .error _ => s

/-! ## Placement (R294, R295) -/

/-- The DISPATCHING groups by slot, in the order of their selection. -/
def State.dispatching (s : State) : List (Nat × Group) :=
  let gs := s.groups.toList.zipIdx.filterMap fun (g, k) => match g with
    | some g => if g.state = .dispatching ∧ (s.ctxOf g.ctx).state.runs then some (k, g) else none
    | none => none
  gs.foldr insert_ []
where
  /-- A group put before those selected later. -/
  insert_ (a : Nat × Group) : List (Nat × Group) → List (Nat × Group)
    | [] => [a]
    | b :: bs => if a.2.seqno ≤ b.2.seqno then a :: b :: bs else b :: insert_ a bs

/-- A core is free: it holds no job, no PREEMPTED job is assigned to it, no group has been given it. -/
def State.freeCore (s : State) (i : Fin 128) : Bool :=
  decide (i.val < s.ncore) && (s.coreAt i).job.isNone && (s.ctxs.toList.all fun x => x.saved.all fun p => p.1 ≠ i) &&
    s.groups.toList.all fun g => match g with
      | some g => !g.given.contains i
      | none => true

/-- A group still lacks a core. -/
def Group.lacks (g : Group) (i : Fin 128) : Bool :=
  g.src.record.part.getLsbD i.val && !g.given.contains i && !g.placed.contains i

/-- A free core is given to the earliest-selected group that lacks it. -/
def State.giveCore (s : State) (i : Fin 128) : State :=
  if !s.freeCore i then s
  else
    match s.dispatching.find? fun e => e.2.lacks i with
    | none => s
    | some (k, g) => s.setGroup k (some { g with given := g.given ++ [i] })

/-- Groups whose context does not run give back the cores they hold without jobs (R295). -/
def State.giveBack (s : State) : State :=
  { s with groups := s.groups.map fun g => g.map fun g =>
      if (s.ctxOf g.ctx).state.runs then g else { g with given := [] } }

/-- A core that no longer holds its job: the engines' storage and the debug registers stay. -/
def Core.vacate (c : Core) : Core :=
  { Core.start with
    xs := c.xs, ws := c.ws, acc := c.acc, vec := c.vec, lyconf := c.lyconf
    debug := c.debug, dbgCtx := c.dbgCtx, dbgArm := c.dbgArm, dbgStopCtx := c.dbgStopCtx, perf := c.perf
    stalls := c.stalls }

/-- A job starts on its core (R279, R288, R305): its state begins to be zeroed; barrier storage and flags are so at
once, and the phase barrier is armed.
Log entry 55: DEDUCED, unsafe. -/
def State.startJob (s : State) (g : Group) (i : Fin 128) (j : Job) : State :=
  let c := s.coreAt i
  let base := j.xsb - 16 * j.nbar
  let xs := c.xs.filter fun e => !(decide (base ≤ e.1) && decide (e.1 < j.xsb))
  let armed : Barrier :=
    { action := 0, waiters := 0, phase := 0, outb := 0, inb := 0, state := 1, pending := j.p, expect := j.p, gen := 0 }
  let xs := if g.src.record.phb ∧ j.j = 0 then writeLE xs base 16 armed.toNat else xs
  let regs := g.src.startRegs
  s.setCoreAt i { c.vacate with
    job := some j, pc := j.code.zeroExtend 64
    sr := { SRegs.start with tag := regs.1, stage := regs.2.1, wver := regs.2.2.1, wbase := regs.2.2.2 }
    xs := xs, ly := c.ly, bd := c.bd, gn := c.gn, barHeld := c.barHeld }

/-- A group starts the jobs it may: all of a COSCHED group once it holds every core, else each as its core is given. None
starts once its context drains (R295). -/
def State.startJobs (s : State) (k : Nat) : State :=
  match s.group k with
  | none => s
  | some g =>
    if g.state ≠ .dispatching ∨ !g.registered ∨ !(s.ctxOf g.ctx).state.runs ∨
      (g.cosched ∧ g.given.length < g.jobs.length) then s
    else
      let s := g.given.foldl (fun s i =>
        match g.jobs.find? fun e => e.1 = i with
        | some (_, j) => s.startJob g i j
        | none => s) s
      s.setGroup k (some { g with given := [], placed := g.placed ++ g.given })

/-- One round of dispatch: cores go out, groups are validated, jobs start. -/
def State.dispatchRound (s : State) : State :=
  let s := (List.finRange 128).foldl State.giveCore s.giveBack
  let ks := s.dispatching.map (·.1)
  ks.foldl (fun s k => (s.dispatchGroup k).startJobs k) s

/-- Rounds of dispatch, until none loses a group that held cores: what a group that faults was given goes out again
(R294). -/
def State.dispatchRounds : Nat → State → State
  | 0, s => s
  | n + 1, s =>
    let t := s.dispatchRound
    if t.dispatching.length < s.dispatching.length then State.dispatchRounds n t else t

/-- Everything dispatch can do now. -/
def State.dispatchAll (s : State) : State := s.dispatchRounds 129

/-- When a context begins DRAINING, its DISPATCHING groups give back the cores they hold without jobs, and these go out
again (R294, R295).
Log entry 83: DEDUCED, safe. -/
def State.returnCores (s : State) : State :=
  let kept := s.groups.toList.any fun g => match g with
    | some g => !g.given.isEmpty && !(s.ctxOf g.ctx).state.runs
    | none => false
  if kept then s.dispatchAll else s

/-! ## Selection (R293) -/

/-- A record may be selected. -/
def State.selectable (s : State) (r : PoolRec) : Bool := r.ready.isSome && (s.ctxOf r.ctx).state.runs

/-- One record's key exceeds another's. -/
def State.before (s : State) (a b : PoolRec) : Bool :=
  let ka := (s.ctxOf a.ctx).prio.toNat * 256 + a.record.gprio.toNat
  let kb := (s.ctxOf b.ctx).prio.toNat * 256 + b.record.gprio.toNat
  decide (kb < ka) || (decide (ka = kb) && decide (a.ready.getD 0 < b.ready.getD 0))

/-- The record of greatest key. -/
def State.bestRecord (s : State) : List PoolRec → Option PoolRec
  | [] => none
  | r :: rs =>
    match s.bestRecord rs with
    | none => some r
    | some q => if s.before r q then some r else some q

/-- The trace record of a group's selection or retirement (R444): kind 5 or 6, a package event. -/
def State.traceGroup (s : State) (kind slot : Nat) (r : PoolRec) : State :=
  s.trace kind 0x7F r.ctx 0
    (BitVec.ofNat 64 (r.record.khandle.toNat + slot * 2 ^ 32 + r.startRegs.1.toNat % 2 ^ 16 * 2 ^ 40)) 0

/-- A free slot takes the READY record of greatest key. -/
def State.select (s : State) : State :=
  match s.groups.toList.findIdx? Option.isNone, s.bestRecord (s.pool.filter s.selectable) with
  | some k, some r =>
    let s := { s with pool := s.pool.erase r, selectCount := s.selectCount + 1 }
    let g : Group := {
      ctx := r.ctx, src := r, state := .dispatching, seqno := s.selectCount, reads := [], registered := false, cosched := false
      nbar := 0, jobs := [], outs := [], given := [], placed := [], ended := [] }
    let s := State.refill 544 ((s.setGroup k (some g)).traceGroup 5 k r)
    State.submitHeld s.weir.held.length s
  | _, _ => s

/-- GROUP_SELECT (R293 to R295). -/
def execGroupSelect (s : State) : Host.Outcome State Fault Refusal := .next s.select.dispatchAll

/-! ## Job start and end (R105, R299) -/

/-- The local state of a job as zero: what its descriptor declares, and the engines' registers (R105). -/
def Core.zeroed (c : Core) (j : Job) : Core :=
  let base := j.xsb - 16 * j.nbar
  { c with
    xs := c.xs.filter fun e => decide (base ≤ e.1)
    ws := c.ws.filter fun e => decide (j.wsb ≤ e.1)
    acc := c.acc.filter fun e => decide (64 * j.acct ≤ e.1)
    vec := VecState.start
    lyconf := 0
    ly := Vector.replicate 8 0
    bd := Vector.replicate 8 0
    gn := Vector.replicate 8 0 }

/-- Every job of a group has been placed and has left STARTING, on its core or before a stop took it, so that the group
is RUNNING. -/
def State.checkRunning (s : State) (slot : Nat) : State :=
  match s.group slot with
  | none => s
  | some g =>
    let run := fun (c : Core) => match c.job with
      | some j => decide (j.slot = slot) && !j.starting
      | none => false
    let left := fun (i : Fin 128) => g.ended.contains i || run (s.coreAt i) ||
      (s.ctxOf g.ctx).saved.any fun p => p.1 == i && run p.2
    if g.state = .dispatching ∧ (partCores g.src.record.part).all fun i => g.placed.contains i ∧ left i then
      s.setGroup slot (some { g with state := .running })
    else s

/-- JOB_START_COMPLETE (R105): the job leaves STARTING. -/
def State.jobStarted (s : State) (i : Fin 128) : State :=
  let c := s.coreAt i
  match c.job with
  | some j =>
    if j.starting then (s.setCoreAt i { c.zeroed j with job := some { j with starting := false } }).checkRunning j.slot
    else s
  | none => s

/-- JOB_START_COMPLETE (R105). -/
def execJobStartComplete (c : Nat) (s : State) : Host.Outcome State Fault Refusal := .next (s.jobStarted (coreIx c))

/-- A draining job has nothing left in flight or parked (R299).
Log entry 56: DEDUCED, safe. -/
def Core.drained (c : Core) : Bool :=
  (match c.seq with
    | .draining _ => true
    | .fetching => false) &&
  c.vq.isEmpty && c.mq.isEmpty && c.cq.isEmpty && c.parked.isEmpty && c.posted.isEmpty && c.pendingTrap.isNone &&
  !c.stopped

/-- A job reaches ENDED (R296): it gives up its core and its lease; what waits at its barriers finds them gone. A job
that a stop has reached cuts instead (R99), and one of a context in ERROR stays as it is (R87). -/
def State.jobEnd (s : State) (i : Fin 128) : State :=
  let c := s.coreAt i
  match c.job with
  | none => s
  | some j =>
    if !c.drained ∨ j.starting ∨ j.stopping ∨ j.escalated ∨ s.frozenAt i then s
    else
      let s := s.releaseLease i
      let s := c.barHeld.foldl (fun s o => s.answer o (some .gone)) s
      let s := s.modCtx j.ctx fun x => { x with evWaits := x.evWaits.filter fun w => w.1 ≠ i }
      let s := s.setCoreAt i c.vacate
      let s := match s.group j.slot with
        | none => s
        | some g =>
          let ended := g.ended ++ [i]
          let all := (partCores g.src.record.part).all fun k => ended.contains k
          s.setGroup j.slot (some { g with ended := ended, state := if all then .draining else g.state })
      (s.refreshWait j.ctx).dispatchAll

/-- JOB_ENDED (R299). -/
def execJobEnded (c : Nat) (s : State) : Host.Outcome State Fault Refusal := .next (s.jobEnd (coreIx c))

/-! ## Retirement (R116, R289, R292, R450) -/

/-- The bytes of a region as stored at its homes; no permission is asked and no tag taken. -/
def regionBytes (id : CtxId) (va n : Nat) : M (List Byte) :=
  mapM' (fun k => fun s =>
    let (s, o) := s.lookup id (va + k)
    match o with
    | .leaf e => (do readLoc (← locate e (va + k) false) (va + k)) s
    | _ => stop .engine s) (List.range n)

/-- The digest h of a group (R450).
Log entry 61: DEDUCED, unsafe. -/
def groupDigest (g : Group) (outs : List LiveOut) : M Nat := do
  let regs := g.src.startRegs
  let parts ← mapM' (fun (o : LiveOut) => do
    let ys ← regionBytes g.ctx o.base.toNat (o.limit - o.base.toNat)
    pure (leBytes 8 o.base.toNat ++ leBytes 8 o.limit ++ ys)) outs
  pure (leNat (sm3 (leBytes 4 g.src.record.khandle.toNat ++ leBytes 2 regs.1.toNat ++ leBytes 4 regs.2.1.toNat ++ parts.flatten)))

/-- A group of the context is unretired. -/
def State.unretired (s : State) (id : CtxId) : Bool :=
  (s.groups.toList.any fun g => match g with
    | some g => g.ctx == id
    | none => false) ||
  (s.pool.any fun r => r.ctx == id) || !(s.ctxOf id).spill.isEmpty

/-- The qui event (R84, R85). -/
def State.qui (s : State) (id : CtxId) : State :=
  if s.unretired id then s
  else s.modCtx id fun x => match x.state with
    | .running | .faultWait => { x with state := .runnable }
    | .draining => { x with quiet := true }
    | _ => x

/-- A group retires (R292). -/
def State.retire (s : State) (slot : Nat) (g : Group) : State :=
  let s := (((s.traceGroup 6 slot g.src).freeGroup slot g).stashRetired slot).setEvents g.ctx g.src.record.set
  let s := match g.src.pick with
    | some p => s.weirRetired g.ctx p
    | none => s
  (s.qui g.ctx).dispatchAll

/-- GROUP_RETIRE (R292, R450): the group's digest is added while the bytes can be read. -/
def execGroupRetire (slot : Nat) (s : State) : Host.Outcome State Fault Refusal :=
  match s.group slot with
  | none => .next s
  | some g =>
    let x := s.ctxOf g.ctx
    if g.state ≠ .draining ∨ x.state = .error then .next s
    else if x.dgctl.getLsbD 0 then
      match groupDigest g (x.liveOuts.filter fun o => o.slot = slot) s with
      | .ok (h, t) =>
        .next ((t.modCtx g.ctx fun x => { x with dg := x.dg + BitVec.ofNat 256 h }).retire slot g)
      | .error _ => .next s
    else .next (s.retire slot g)

/-! ## launch (R287, R297, R298) -/

/-- The parameter block of a child, all of it read as loads, then copied.
Log entry 57: DEDUCED, unsafe. -/
def copyParams (id : CtxId) (src dst : Nat) (lines : List Nat) : M Unit := do
  let xs ← mapM' (fun k => launchRead (BitVec.ofNat 64 (src + 64 * k)) 64) lines
  deviceWrite id dst (xs.flatMap (leBytes 64))

/-- `launch` (R298). -/
def execLaunch (a : XReg) (s : State) : Host.Outcome State Fault Refusal :=
  runS (do
    let ea ← getX a
    let lo ← launchRead ea 64
    let hi ← launchRead (ea + 64) 64
    let b := lo + hi * 2 ^ 512
    let r := parseLaunch b
    let j ← getJob
    let x ← getCtx
    let desc ← match ← kernelLookup j.ctx r.khandle with
      | none => trapM .handle (r.khandle.zeroExtend 64)
      | some d => pure d
    match launchRefusal b (← getS).ncore x.cores true with
    | some reason => trapM .launch (BitVec.ofNat 64 reason)
    | none => pure ()
    let s ← getS
    let lidx : BitVec 7 := BitVec.ofNat 7 s.cur.val
    let depth := min (((s.group j.slot).map (·.src.depth)).getD 0 + 1) 255
    match (List.range 64).find? fun k => !x.copies.contains (lidx, k) with
    | none => stop .engine
    | some k =>
      let rec_ : PoolRec := {
        ctx := j.ctx, record := r, depth := depth, copy := some (lidx, k), desc := BitVec.ofNat 57 desc, ready := none
        reserve := false, pick := none }
      waitIf (s.submit rec_).isNone .engine
      copyParams j.ctx r.param.toNat (copyVa x.image lidx k) (List.range r.pblen)
      modS fun s => s.modCtx j.ctx fun x => { x with copies := x.copies ++ [(lidx, k)] }
      modS fun s => (s.submit rec_).getD s
      advance) s

/-! ## Event words (R290, R300) -/

/-- The mask of an event word. -/
def eventMask (a : XReg) (q : BitVec 2) : M (BitVec 256) := do
  pure ((← getX a).zeroExtend 256 <<< (64 * q.toNat))

/-- The SET mask of the executing job's group. -/
def ownSet (s : State) : BitVec 256 :=
  match s.core.job with
  | none => 0
  | some j =>
    match s.group j.slot with
    | some g => g.src.record.set
    | none => 0

/-- The event bits a condition holds of. -/
def eventBits (p : Nat → Bool) : BitVec 256 :=
  (List.range 256).foldl (fun m n => if p n then m ||| (1#256 <<< n) else m) 0

/-- The launch records of a context's unretired groups but that of one slot, and whether each is PENDING. -/
def State.otherRecords (s : State) (id : CtxId) (slot : Nat) : List (LaunchRec × Bool) :=
  (s.groups.toList.zipIdx.filterMap fun (g, k) => match g with
    | some g => if g.ctx = id ∧ k ≠ slot then some (g.src.record, false) else none
    | none => none) ++
  ((s.pool.filter fun r => r.ctx = id).map fun r => (r.record, r.ready.isNone)) ++
  ((s.ctxOf id).spill.map fun r => (r.record, true))

/-- `ev.set` (R290, R300). -/
def execEvSet (a : XReg) (q : BitVec 2) (s : State) : Host.Outcome State Fault Refusal :=
  runS (do
    let m ← eventMask a q
    let s ← getS
    trapIf (m &&& ~~~(ownSet s) != 0) .launch 21
    if m = 0 then pure () else modS fun s => s.setEvents s.curCtx m
    advance) s

/-- `ev.clr` (R290, R300). -/
def execEvClr (a : XReg) (q : BitVec 2) (s : State) : Host.Outcome State Fault Refusal :=
  runS (do
    let m ← eventMask a q
    let s ← getS
    let id := s.curCtx
    let others := s.otherRecords id s.core.jobSlot
    let may := ownSet s ||| eventBits (s.doneBit id false)
    let kept := others.foldl (fun k r => k ||| r.1.set ||| if r.2 then r.1.wait else 0) (eventBits (s.doneBit id true))
    let kept := s.context.evWaits.foldl (fun k w => k ||| w.2) kept
    trapIf (m &&& (~~~may ||| kept) != 0) .launch 21
    if m = 0 then pure () else modS fun s => s.putEvents id ((s.ctxOf id).ev &&& ~~~m)
    advance) s

/-- The event bits that some RUNNING or DRAINING group of a context, or a recorded marker, will set (R300). -/
def State.comingBits (s : State) (id : CtxId) : BitVec 256 :=
  s.groups.toList.foldl (fun m g => match g with
    | some g => if g.ctx = id ∧ g.state ≠ .dispatching then m ||| g.src.record.set else m
    | none => m) (eventBits (s.doneBit id true))

/-- `ev.wait` (R300), an acquire. -/
def execEvWait (a : XReg) (q : BitVec 2) (s : State) : Host.Outcome State Fault Refusal :=
  runS (do
    let m ← eventMask a q
    let s ← getS
    let id := s.curCtx
    let x := s.ctxOf id
    let rest := x.evWaits.filter fun w => w.1 ≠ s.cur
    if x.ev &&& m = m then do
      modS fun s => s.modCtx id fun x => { x with evWaits := rest }
      advance
    else if x.evWaits.contains (s.cur, m) then stop (.flag 65)
    else do
      trapIf (m &&& ~~~x.ev &&& ~~~(s.comingBits id) != 0) .launch 22
      modS fun s => s.modCtx id fun x => { x with evWaits := rest ++ [(s.cur, m)] }
      modCore fun c => { c with head := .waitFlag 65, issue := .notDone }) s

end Sys2Proof.Machine
end

