-- ==== Sys2Proof/Machine/Links.lean ====
section
/-! DEFINITION. Machine/Links.lean: ports, Culvert channels, counters, queue pairs and the base-die reducers (R346 to
R358, R365 to R378). -/

namespace Sys2Proof.Machine

/-! ## Ports (R346 to R348) -/

/-- A port changed. -/
def State.modPort (s : State) (p : Nat) (f : Port → Port) : State :=
  { s with ports := s.ports.setIfInBounds p (f (s.ports.getD p ⟨.down, 0, 0, false⟩)) }

/-- The state of a port. -/
def State.port (s : State) (p : Nat) : Port := s.ports.getD p ⟨.down, 0, 0, false⟩

/-- The codewords that FEC has corrected in a flit count in FECCOR, saturating (R346, R348). How many they are is a free
value.
Log entry 78: DESIGN CHOICE, safe. -/
def Port.corrected (p : Port) (n : Byte) : Port := { p with feccor := BitVec.ofNat 16 (min (p.feccor.toNat + n.toNat) 0xFFFF) }

/-- FLIT_RECEIVE (R347): a CRC failure makes the sender replay the flit and counts in RETRY, saturating. -/
def execFlitReceive (port : Nat) (crcOk : Bool) (s : State) : Host.Outcome State Fault Refusal :=
  if (s.port port).state ≠ .up then .next s
  else
    let s := { s with fresh := s.fresh + 1 }.modPort port fun x => x.corrected (Config.freeByte s.fresh 0)
    if crcOk then .next (s.modPort port fun x => { x with replaying := false })
    else .next (State.send (s.modPort port fun x =>
      { x with replaying := true, retry := if x.retry = 0xFFFF then x.retry else x.retry + 1 }) (.flitReplay port))

/-- FLIT_TIMEOUT (R347): a port that has not delivered a flit in time after a CRC failure goes DOWN. -/
def execFlitTimeout (port : Nat) (s : State) : Host.Outcome State Fault Refusal :=
  if (s.port port).replaying then .next (s.modPort port fun x => { x with state := .down, replaying := false })
  else .next s

/-- LANE_LOSS (R346, R377): a torus or Levee port that loses a lane goes DOWN.
Log entry 54: DEDUCED, unsafe. -/
def execLaneLoss (port : Nat) (s : State) : Host.Outcome State Fault Refusal :=
  if port < 8 then .next (s.modPort port fun x => { x with state := .down, replaying := false }) else .next s

/-- LINK_TRAINING_COMPLETE (R348). -/
def execLinkTrainingComplete (port : Nat) (s : State) : Host.Outcome State Fault Refusal :=
  if (s.port port).state = .training then .next (s.modPort port fun x => { x with state := .up }) else .next s

/-! ## Channel endpoints (R350, R351) -/

/-- MCOORD as a message carries it. -/
def State.mcoord (s : State) : BitVec 22 := BitVec.ofNat 22 s.regs.mcoord.toNat

/-- The bits of CHCTL that the host writes, with the codes that read as others (R350). -/
def cleanChctl (v : DWord) : DWord :=
  let x := v.toNat
  let wq := if bits x 37 36 = 3 then 0 else bits x 37 36
  BitVec.ofNat 64 (bits x 63 41 * 2 ^ 41 + bits x 39 38 * 2 ^ 38 + wq * 2 ^ 36 + min (bits x 35 32) 12 * 2 ^ 32 +
    bits x 31 24 * 2 ^ 24 + bits x 17 16 * 2 ^ 16 + x % 2)

/-- The host may write an endpoint's registers: its owning context is not RUNNING, FAULT_WAIT or DRAINING (R350). -/
def State.chanWritable (s : State) (c : Channel) : Bool :=
  match (s.ctxOf (BitVec.ofNat 16 (bits c.ctl.toNat 63 48))).state with
  | .running | .faultWait | .draining => false
  | _ => true

/-- CHCTL written: EN from 0 to 1 enters ACTIVE with every sequence 0, WLIM = N and every slot EMPTY; EN 0 disables
(R350, R358). -/
def Channel.writeCtl (c : Channel) (v : DWord) : Channel :=
  let x := cleanChctl v
  if x.getLsbD 0 && !c.ctl.getLsbD 0 then
    { Channel.start with
      ctl := x, peer := c.peer, ring := c.ring, cn := c.cn, state := 1
      hi := if x.getLsbD 16 then 0 else BitVec.ofNat 32 (bits x.toNat 31 24 + 1) }
  else if !x.getLsbD 0 then
    { c with ctl := x, state := 0, waiting := none, waitVa := none, landing := none, unacked := none }
  else { c with ctl := x }

/-- CHCTLn written, while the owning context lets it be (R350). -/
def State.writeChctl (s : State) (n : BitVec 5) (v : DWord) : State :=
  let c := s.chans[n.toFin]
  if !s.chanWritable c then s
  else
    let s := if !v.getLsbD 0 || !c.ctl.getLsbD 0 then s.clearPath (.culvert n) else s
    { s with chans := s.chans.set n.toFin (c.writeCtl v) }

/-- CHCTL_WRITE (R350). -/
def execChctlWrite (n : BitVec 5) (v : DWord) (s : State) : Host.Outcome State Fault Refusal :=
  .next (s.writeChctl n v)

/-- The package endpoint that `ch` c of a context names. -/
def State.chanIx (s : State) (c : BitVec 5) : Fin 32 :=
  ⟨(s.context.chBase + c.toNat) % 32, Nat.mod_lt _ (by decide)⟩

/-- A channel endpoint in a meaning. -/
def getChan (k : Fin 32) : M Channel := fun s => .ok (s.chans[k], s)

/-- A channel endpoint written. -/
def setChan (k : Fin 32) (c : Channel) : M Unit := modS fun s => { s with chans := s.chans.set k c }

/-- The endpoint of a Culvert command, with the checks of R351 and R353. -/
def checkChan (c : BitVec 5) (recv : Bool) : M (Fin 32) := do
  let at_ : DWord := c.zeroExtend 64
  let x ← getCtx
  trapIf (decide (x.chCount ≤ c.toNat)) .handle at_
  let s ← getS
  let k := s.chanIx c
  let e ← getChan k
  trapIf (decide (s.cur.val ≠ e.owner)) .handle at_
  trapIf (e.state != 1 || e.ctl.getLsbD 16 != recv || (recv && e.ctl.getLsbD 17)) .link at_
  pure k

/-! ## csend, crecv, crel (R355 to R357) -/

/-- A walk's elements packed into bytes (R245, R355). -/
def packElems (w : Nat) (xs : List Nat) : List Byte := leBytes ((xs.length * w + 7) / 8) (packNat w xs)

/-- The issue of a `csend`. -/
def sendIssue (c : BitVec 5) (r : BitVec 512) (x : Cmd) : M Cmd := do
  let k ← checkChan c false
  checkRecords none [r] []
  let e ← getChan k
  trapIf (decide (e.slotBytes < lyBytes r)) .window (BitVec.ofNat 64 (lyBase r))
  pure x

/-- `csend` (R355): it sends once the window is open and earlier accesses are performed, then waits for the
acknowledgement; an endpoint in ERROR faults LINK (R358).
Log entry 52: DEDUCED, safe. -/
def execCsend (ch : BitVec 5) (n : BitVec 3) (g : Guard) (s : State) : Host.Outcome State Fault Refusal :=
  runEngWith .c 2 (.csend ch n g) g
    (fun x => if x.phase = .waiting then sendIssue ch (x.snap.lyr n) x else pure x)
    (fun x => do
      let s ← getS
      let k := s.chanIx ch
      let e ← getChan k
      let r := x.snap.lyr n
      if x.phase = .waiting then
        checkReserved [r]
        let room := e.hi - e.lo
        waitIf (decide (room = 0) || decide (2 ^ 31 ≤ room.toNat)) (.flag 66)
        releaseEng .c x
        let vs ← readElems r (List.range (lyCount r))
        let bs := packElems (fmtWidth (lyFmt r)) vs
        let m : CulvertMsg := {
          fromCoord := s.mcoord, fromCh := BitVec.ofNat 5 k.val, seq := e.lo, tag := BitVec.ofNat 16 x.snap.tag.toNat
          bytes := bs ++ List.replicate (e.slotBytes - bs.length) 0 }
        modS fun s => s.send (.culvert e.peer m)
        modS fun s => s.perfCount 3 bs.length
        setChan k { e with lo := e.lo + 1, unacked := some s.cur }
        pure { x with phase := .stopped, progress := e.lo.toNat + 1 }
      else
        trapIf (e.state != 1 || decide (e.lo.toNat ≠ x.progress % 2 ^ 32)) .link (ch.zeroExtend 64)
        waitIf e.unacked.isSome .engine
        pure (x.done 0)) s

/-- `crecv` (R356). -/
def execCrecv (ch : BitVec 5) (q7 : Bool) (g : Guard) (s : State) : Host.Outcome State Fault Refusal :=
  runEng .c (.crecv ch q7 g) g (fun x => do
    let k ← checkChan ch true
    let e ← getChan k
    let slot := e.lo.toNat % e.nslot
    match e.slot slot with
    | .filled seq tag =>
      let q := if q7 then 7 else 6
      waitIf (!(← getCore).qroom q) (.flag 66)
      setChan k { e with
        lo := e.lo + 1, slots := sset .empty e.slots slot .held, heldSlots := e.heldSlots ++ [slot] }
      pure ((x.push q (BitVec.ofNat 64 (seq.toNat * 2 ^ 32 + slot * 65536 + tag.toNat))).done 0)
    | _ => stop (.flag 66)) s

/-- Every earlier read of a range by this core has been performed (R357). -/
def readsPerformed (lo hi : Nat) (x : Cmd) : M Unit := do
  let s ← getS
  let c := s.core
  waitIf (c.holders.any fun h => earlier h .c x.iseq && !h.2.performed &&
    (footprint s c h.2 ++ h.2.angleReads).any fun r => r.space == .glob && decide (r.lo < hi) && decide (lo < r.hi)) .scoreboard

/-- `crel` (R357). -/
def execCrel (ch : BitVec 5) (g : Guard) (s : State) : Host.Outcome State Fault Refusal :=
  runEng .c (.crel ch g) g (fun x => do
    let k ← checkChan ch true
    let e ← getChan k
    match e.heldSlots with
    | [] => trapM .link (ch.zeroExtend 64)
    | slot :: rest =>
      readsPerformed (e.ringVa + slot * e.slotBytes) (e.ringVa + (slot + 1) * e.slotBytes) x
      setChan k { e with hi := e.hi + 1, slots := sset .empty e.slots slot .empty, heldSlots := rest }
      modS fun s => s.send (.window e.peer (e.hi + 1 + BitVec.ofNat 32 e.nslot))
      pure (x.done 0)) s

/-! ## Counters and watches (R365, R375) -/

/-- The watches of a core that have been reached add to their flags (R375). -/
def Core.fire (c : Core) (val : Nat → DWord) : Core :=
  let hit := fun (w : Watch) => decide (w.thresh.toNat ≤ (val w.cn.toNat).toNat)
  (c.watches.filter hit).foldl (fun c w => c.addFlag w.flag 1) { c with watches := c.watches.filter fun w => !hit w }

/-- The watches of a context's jobs are tested; in ERROR its cores stay in place (R87). -/
def State.fireWatches (s : State) (id : CtxId) : State :=
  if (s.ctxOf id).state = .error then s
  else (s.coresOf id).foldl (fun s i => s.setCoreAt i ((s.coreAt i).fire (s.counter id))) s

/-- A counter of a context increased, saturating (R365). -/
def State.addCounter (s : State) (id : CtxId) (n k : Nat) : State :=
  let ix := (s.ctxOf id).cnBase + n
  State.fireWatches { s with counters := sset 0 s.counters ix (satAdd (sget 0 s.counters ix) k) } id

/-- `carm` (R375).
Log entry 53: DEDUCED, unsafe. -/
def execCarm (g : Guard) (s : State) : Host.Outcome State Fault Refusal :=
  runEngWith .c 2 (.carm g) g (popQs [14, 15])
    (fun x => do
      let e := x.pop 0
      let n := bits e.toNat 11 0
      let ctx ← getCtx
      trapIf (decide (bits e.toNat 63 21 ≠ 0) || decide (bits e.toNat 15 12 ≠ 0) || decide (ctx.cnCount ≤ n)) .handle e
      trapIf (decide (16 ≤ (← getCore).watches.length)) .queue 18
      let id := (← getJob).ctx
      modCore fun c => { c with
        watches := c.watches ++ [⟨BitVec.ofNat 12 n, x.pop 1, BitVec.ofNat 5 (bits e.toNat 20 16)⟩] }
      modS fun s => s.modCore fun c => c.fire (s.counter id)
      pure (x.done 0)) s

/-- A `cadd` (R376), a release unless `.nf`. -/
def counterAdd (nf : Bool) (x : Cmd) : M Cmd := do
  let e := x.pop 0
  let n := bits e.toNat 11 0
  trapIf (decide (bits e.toNat 15 12 ≠ 0)) .handle e
  trapIf (decide ((← getCtx).cnCount ≤ n)) .handle (BitVec.ofNat 64 n)
  if nf then pure () else releaseEng .c x
  let id := (← getJob).ctx
  modS fun s => s.addCounter id n (bits e.toNat 63 16)
  pure (x.done 0)

/-- Q14 or Q15. -/
def q1415 (q15 : Bool) : List Nat := [if q15 then 15 else 14]

/-- `cadd` (R376). -/
def execCadd (q15 : Bool) (g : Guard) (s : State) : Host.Outcome State Fault Refusal :=
  runEngWith .c 2 (.cadd q15 g) g (popQs (q1415 q15)) (counterAdd false) s

/-- `cadd.nf` (R119, R376). -/
def execCaddNf (q15 : Bool) (g : Guard) (s : State) : Host.Outcome State Fault Refusal :=
  runEngWith .c 2 (.caddNf q15 g) g (popQs (q1415 q15)) (counterAdd true) s

/-! ## Work descriptors (R349, R367) -/

/-- Bytes off to off + n - 1 of a work descriptor. -/
def wd (d : BitVec 512) (off n : Nat) : Nat := bits d.toNat (8 * (off + n) - 1) (8 * off)

/-- A work descriptor keeps R367. -/
def wdOk (d : BitVec 512) (red : Bool) : Bool :=
  let len := wd d 0x10 4
  let peer := wd d 0x18 4
  let path := bitN peer 24
  decide (wd d 0x14 2 < 4096) && decide (wd d 0x16 2 < 4096) && decide (bits peer 31 26 = 0) &&
    decide (bits peer 23 22 = 0) && decide (bits peer 15 14 = 0) && decide (bits peer 7 6 = 0) &&
    (if path then decide (bits peer 21 0 = 0) else !bitN peer 25) &&
    decide (bits (wd d 0x1C 2) 14 12 = 0) && decide (bits (wd d 0x1E 2) 14 12 = 0) &&
    decide (bits (wd d 0x28 2) 14 12 = 0) && decide (wd d 0x2A 1 ≤ if red then 1 else 0) &&
    decide (bits d.toNat 511 344 = 0) && decide (len % 64 = 0) && decide (len ≤ 65536) &&
    (len == 0 || (decide (wd d 0 8 % 64 = 0) && decide (wd d 8 8 % 64 = 0)))

/-- The enable and the counter of TCN, RCN or LCN. -/
def wdCounter (x : Nat) : Option Nat := if bitN x 15 then some (x % 4096) else none

/-- A coordinate lies in the box of 16 modules from an origin, modulo the dimension (R349). -/
def inBox (x o d : Nat) : Bool := decide (x < d) && decide ((x + d - o % d) % d < 16)

/-- A module lies in this module's put domain (R349). -/
def State.inDomain (s : State) (peer : Nat) : Bool :=
  let f := fun (v : Nat) => [bits v 5 0, bits v 13 8, bits v 21 16]
  let xs := f peer
  let os := f s.regs.pdorig.toNat
  let ds := f s.regs.tdim.toNat
  (List.range 3).all fun k => inBox (xs.getD k 0) (os.getD k 0) (ds.getD k 0 + 1)

/-! ## Queue pairs (R366, R368, R369) -/

/-- A queue pair at CREATE (R366). -/
def Qp.start : Qp where
  state := 0
  peer := 0
  pqp := 0
  sseq := 0
  aseq := 0
  rseq := 0
  entries := []
  waiting := none
  waitVa := none

/-- A queue pair by its package number. -/
def State.qp (s : State) (n : Nat) : Qp := (sget none s.qps n).getD Qp.start

/-- A queue pair written. -/
def State.setQp (s : State) (n : Nat) (q : Qp) : State :=
  { s with qps := sset none s.qps n (if q = Qp.start then none else some q) }

/-- The context that owns a queue pair. -/
def State.qpOwner (s : State) (n : Nat) : Option CtxId :=
  ((List.finRange 16).find? fun k =>
    let x := s.ctxs[k]
    x.state ≠ .free ∧ x.state ≠ .retired ∧ x.qpBase ≤ n ∧ n < x.qpBase + x.qpCount).map fun k => s.ctxs[k].ctxid

/-- A posting command changed where it stands: in its core's queue, parked, or in a saved job (R374). -/
def Core.modPosted (c : Core) (iseq : Word) (queued parked : Cmd → Cmd) : Core :=
  { c with
    cq := c.cq.map fun x => if x.iseq = iseq then queued x else x
    parked := c.parked.map fun p => if p.eng = .c ∧ p.cmd.iseq = iseq then { p with cmd := parked p.cmd } else p }

/-- The posting command of an entry changed; in ERROR it stays as it is (R87). -/
def State.modPoster (s : State) (e : WorkEntry) (queued parked : Cmd → Cmd) : State :=
  let c := s.coreAt e.core
  if c.jobSlot = e.slot then
    if s.frozenAt e.core then s else s.setCoreAt e.core (c.modPosted e.iseq queued parked)
  else { s with ctxs := s.ctxs.map fun x => { x with
      saved := x.saved.map fun p =>
        if p.1 = e.core ∧ p.2.jobSlot = e.slot then (p.1, p.2.modPosted e.iseq queued parked) else p } }

/-- A queue pair enters ERROR: every entry not completed fails, and its command meets LINK at its queue head (R366,
R374). -/
def State.qpError (s : State) (n : Nat) : State :=
  let q := s.qp n
  let failed := fun (x : Cmd) => { x with phase := .stopped, failed := true, progress := 2 }
  let s := q.entries.foldl (fun s e => s.modPoster e failed failed) s
  ((s.setQp n { q with state := 2, entries := [], waiting := none, waitVa := none }).clearPath
    (.qpSource (BitVec.ofNat 12 n))).clearPath (.qpDelivery (BitVec.ofNat 12 n))

/-- Entries posted in the package. -/
def State.posted (s : State) : Nat := (s.qps.map fun p => match p.2 with | some q => q.entries.length | none => 0).sum

/-! ## cput and cputred (R374) -/

/-- The checks of a posting command that follow its descriptor's, and the package queue pair. -/
def checkPost (a : Nat) (d : BitVec 512) (red : Bool) : M Nat := do
  let at_ := BitVec.ofNat 64 a
  let s ← getS
  let x ← getCtx
  trapIf (!wdOk d red) .format at_
  let beyond := fun (c : Option Nat) => match c with
    | some n => decide (x.cnCount ≤ n)
    | none => false
  trapIf (decide (x.qpCount ≤ wd d 0x14 2) || beyond (wdCounter (wd d 0x1C 2)) || beyond (wdCounter (wd d 0x28 2))) .handle
    at_
  let n := x.qpBase + wd d 0x14 2
  let q := s.qp n
  let peer := wd d 0x18 4
  let bound := BitVec.ofNat 26 peer
  trapIf (q.state == 2 || (!bitN peer 24 && !s.inDomain peer) ||
    (q.state == 1 && (q.peer != bound || q.pqp != BitVec.ofNat 12 (wd d 0x16 2)))) .link (BitVec.ofNat 64 n)
  let src := wd d 0 8
  let len := wd d 0x10 4
  trapIf (decide (len ≠ 0) && (!isGlobal src || x.liveOuts.any fun o =>
    o.kind != .exchange && decide (src < o.limit) && decide (o.base.toNat < src + len))) .window (BitVec.ofNat 64 src)
  pure n

/-- What a posting command does (R374): it posts its entry once; a failed entry faults LINK at the head; a command
whose entry has completed, or has been reported, completes. -/
def postBody (nf red : Bool) (x : Cmd) : M Cmd := do
  let s ← getS
  if x.failed then trapM .link (BitVec.ofNat 64 (s.context.qpBase + (x.popped.getD 3 0).toNat))
  else if x.progress ≠ 0 then
    let n := s.context.qpBase + (x.popped.getD 3 0).toNat
    if (s.qp n).entries.any fun e => e.core = s.cur ∧ e.slot = s.core.jobSlot ∧ e.iseq = x.iseq then
      pure { x with phase := .posted }
    else pure (x.done 0)
  else
    let a := bits (x.pop 0).toNat 31 0
    let at_ := BitVec.ofNat 64 a
    let c ← getCore
    trapIf (c.xsBad a 64).isSome .window at_
    trapIf (decide (a % 64 ≠ 0)) .misalign at_
    let d := BitVec.ofNat 512 (readLE c.xs a 64)
    let n ← checkPost a d red
    let q := s.qp n
    waitIf (decide (16 ≤ q.entries.length) || decide (8192 ≤ s.posted)) .engine
    if nf then pure () else releaseEng .c x
    let e : WorkEntry := {
      desc := d, core := s.cur, slot := c.jobSlot, iseq := x.iseq, red := red, state := .waiting, bytes := [] }
    let q := if q.state = 0 then
        { q with state := 1, peer := BitVec.ofNat 26 (wd d 0x18 4), pqp := BitVec.ofNat 12 (wd d 0x16 2) }
      else q
    modS fun s => s.setQp n { q with entries := q.entries ++ [e] }
    pure { x with
      phase := .posted, progress := 1
      popped := [x.pop 0, BitVec.ofNat 64 (wd d 0 8), BitVec.ofNat 64 (wd d 0x10 4), BitVec.ofNat 64 (wd d 0x14 2)] }

/-- `cput` (R374). -/
def execCput (q15 : Bool) (g : Guard) (s : State) : Host.Outcome State Fault Refusal :=
  runEngWith .c 2 (.cput q15 g) g (popQs (q1415 q15)) (postBody false false) s

/-- `cput.nf` (R119, R374). -/
def execCputNf (q15 : Bool) (g : Guard) (s : State) : Host.Outcome State Fault Refusal :=
  runEngWith .c 2 (.cputNf q15 g) g (popQs (q1415 q15)) (postBody true false) s

/-- `cputred` (R374). -/
def execCputred (q15 : Bool) (g : Guard) (s : State) : Host.Outcome State Fault Refusal :=
  runEngWith .c 2 (.cputred q15 g) g (popQs (q1415 q15)) (postBody false true) s

/-- `cputred.nf` (R119, R374). -/
def execCputredNf (q15 : Bool) (g : Guard) (s : State) : Host.Outcome State Fault Refusal :=
  runEngWith .c 2 (.cputredNf q15 g) g (popQs (q1415 q15)) (postBody true true) s

/-! ## Firing and sending (R368) -/

/-- An entry has fired. -/
def EntryState.isSent : EntryState → Bool
  | .sent _ => true
  | _ => false

/-- The place of the first entry that has not fired. -/
def Qp.headIx (q : Qp) : Nat := (q.entries.takeWhile fun e => e.state.isSent).length

/-- An entry replaced. -/
def Qp.putEntry (q : Qp) (k : Nat) (e : WorkEntry) : Qp := { q with entries := q.entries.set k e }

/-- The trigger of an entry is met. -/
def State.triggered (s : State) (id : CtxId) (e : WorkEntry) : Bool :=
  match wdCounter (wd e.desc 0x1C 2) with
  | none => true
  | some n => decide (wd e.desc 0x20 8 ≤ (s.counter id n).toNat)

/-- ENTRY_FIRE (R368): the head entry whose trigger is met begins to fire. -/
def State.entryFire (s : State) (n : Nat) : State :=
  let q := s.qp n
  match q.entries[q.headIx]?, s.qpOwner n with
  | some e, some id =>
    if e.state = .waiting ∧ s.triggered id e then s.setQp n (q.putEntry q.headIx { e with state := .reading }) else s
  | _, _ => s

/-- ENTRY_FIRE (R368). -/
def execEntryFire (qp : BitVec 12) (s : State) : Host.Outcome State Fault Refusal := .next (s.entryFire qp.toNat)

/-- The message of an entry that has fired. -/
def entryMsg (q : Qp) (n : Nat) (e : WorkEntry) (seq : Word) : QpMsg where
  peer := q.peer
  sqp := BitVec.ofNat 12 n
  rqp := q.pqp
  seq := seq
  dst := BitVec.ofNat 64 (wd e.desc 8 8)
  rcn := (wdCounter (wd e.desc 0x1E 2)).map (BitVec.ofNat 12)
  red := e.red
  bf16 := wd e.desc 0x2A 1 == 1
  bytes := e.bytes

/-- A source line is held by a reducer. -/
def State.sourceHeld (s : State) (id : CtxId) (va n : Nat) : Bool :=
  (pieces va n).any fun p => match s.walk id p.1 with
    | .leaf e => s.reducing (leafPa e.leaf + (p.1 - e.va.toNat))
    | _ => false

/-- ENTRY_SEND (R368): the source is read; the entry takes SSEQ and is sent. A page that is not present makes it wait;
any other fault puts the queue pair in ERROR. -/
def State.entrySend (s : State) (n : Nat) : State :=
  let q := s.qp n
  let path := PkgPath.qpSource (BitVec.ofNat 12 n)
  match q.entries[q.headIx]?, s.qpOwner n with
  | some e, some id =>
    let ready := match e.state with
      | .reading => true
      | .stopped _ => !s.pathHeld path
      | _ => false
    let src := wd e.desc 0 8
    let len := wd e.desc 0x10 4
    if !ready ∨ s.sourceHeld id src len then s
    else
      let s := s.clearPath path
      match deviceRead id src len s with
      | .ok (bs, t) =>
        let e := { e with state := .sent q.sseq, bytes := bs }
        let t := t.setQp n { q.putEntry q.headIx e with sseq := q.sseq + 1 }
        let t := t.modPoster e (fun x => { x with progress := 2 }) fun x => { x with progress := 2 }
        t.send (.qpEntry (entryMsg q n e q.sseq))
      | .error (.notPresent va acc, _) =>
        (s.stopPkg path id va acc 4 e.core.val e.slot false).setQp n (q.putEntry q.headIx { e with state := .stopped va })
      | .error (.migrating va acc, _) =>
        (s.stopPkg path id va acc 4 e.core.val e.slot true).setQp n (q.putEntry q.headIx { e with state := .stopped va })
      | .error (.fatal code, _) => s.fatal id code e.core.val
      | .error (.trap .ecc _, _) => s.fatal id 21 e.core.val
      | .error _ => s.qpError n
  | _, _ => s

/-- ENTRY_SEND (R368). -/
def execEntrySend (qp : BitVec 12) (s : State) : Host.Outcome State Fault Refusal := .next (s.entrySend qp.toNat)

/-! ## Acknowledgement, refusal, retransmission (R369) -/

/-- Sequence number a comes before b. -/
def seqBefore (a b : Word) : Bool := a != b && decide ((b - a).toNat < 2 ^ 31)

/-- An entry has been sent with a sequence number before s. -/
def WorkEntry.sentBefore (e : WorkEntry) (s : Word) : Bool :=
  match e.state with
  | .sent q => seqBefore q s
  | _ => false

/-- QP_ACKNOWLEDGEMENT (R369): ASEQ := s + 1; every entry below it completes. -/
def State.qpAck (s : State) (n : Nat) (a : Word) : State :=
  let q := s.qp n
  if q.state ≠ 1 ∨ !seqBefore q.aseq (a + 1) ∨ seqBefore q.sseq (a + 1) then s
  else
    let done := q.entries.filter fun e => e.sentBefore (a + 1)
    let s := s.setQp n { q with aseq := a + 1, entries := q.entries.filter fun e => !e.sentBefore (a + 1) }
    done.foldl (fun s e =>
      let s := s.modPoster e (fun x => { x with phase := .executed }) fun x => { x with phase := .stopped, progress := 3 }
      match wdCounter (wd e.desc 0x28 2), s.qpOwner n with
      | some c, some id => s.addCounter id c 1
      | _, _ => s) s

/-- QP_ACKNOWLEDGEMENT (R369). -/
def execQpAcknowledgement (qp : BitVec 12) (a : Word) (s : State) : Host.Outcome State Fault Refusal :=
  .next (s.qpAck qp.toNat a)

/-- QP_REFUSAL (R369): the refused entry is one that has been sent and not acknowledged. -/
def execQpRefusal (qp : BitVec 12) (a : Word) (s : State) : Host.Outcome State Fault Refusal :=
  if (s.qp qp.toNat).entries.any fun e => e.state = .sent a then .next (s.qpError qp.toNat) else .next s

/-- QP_RETRANSMIT (R369): every held entry is sent again in sequence order. -/
def execQpRetransmit (qp : BitVec 12) (s : State) : Host.Outcome State Fault Refusal :=
  let q := s.qp qp.toNat
  .next (q.entries.foldl (fun s e => match e.state with
    | .sent a => s.send (.qpEntry (entryMsg q qp.toNat e a))
    | _ => s) s)

/-- QP_ENTRY_TIMEOUT (R369). -/
def execQpEntryTimeout (qp : BitVec 12) (s : State) : Host.Outcome State Fault Refusal :=
  if (s.qp qp.toNat).entries.any fun e => e.state.isSent then .next (s.qpError qp.toNat) else .next s

/-! ## Deliveries (R370 to R372) -/

/-- What a delivery comes to. -/
inductive Accept where
  | accepted | later | refused
deriving DecidableEq, Repr

/-- The number of a stream in a line tag. -/
def streamOf (m : QpMsg) : Nat := 1 + m.sqp.toNat + 4096 * m.peer.toNat

/-- A refusal: the reply, and ERROR for the receiving queue pair of a context (R369, R370).
Log entry 49: DEDUCED, unsafe. -/
def State.refuseQp (s : State) (m : QpMsg) : State :=
  let s := if (s.qpOwner m.rqp.toNat).isSome then s.qpError m.rqp.toNat else s
  s.send (.qpRefusal m.peer m.sqp m.seq)

/-- A receiving queue pair binds to the sender of the first delivery that it takes (R366). -/
def State.bindQp (s : State) (m : QpMsg) : State :=
  s.setQp m.rqp.toNat { s.qp m.rqp.toNat with state := 1, peer := m.peer, pqp := m.sqp }

/-- A delivery is accepted for good: its counter, its sequence number, its acknowledgement (R370). -/
def State.acceptQp (s : State) (id : CtxId) (m : QpMsg) : State :=
  let s := match m.rcn with
    | some n => s.addCounter id n.toNat 1
    | none => s
  let q := s.qp m.rqp.toNat
  let s := s.setQp m.rqp.toNat { q with
    state := 1, peer := m.peer, pqp := m.sqp, rseq := m.seq + 1, waiting := none, waitVa := none }
  s.send (.qpAck m.peer m.sqp m.seq)

/-- The lines of a delivery that moves data are translated and checked (R371): each line's leaf, place and VA. -/
def deliveryLines (id : CtxId) (m : QpMsg) (o : LiveOut) : M (List (Nat × TlbEntry × Loc)) :=
  mapM' (fun (p : Nat × Nat) => do
    trapIf (!isGlobal p.1) .page (pageInfo p.1 0 true)
    let e ← translateFor id .store p.1
    let l ← locateAll e p.1 p.2
    let s ← getS
    trapIf (m.red && !(match l with
      | .plain pa => s.inTier 0 pa 64
      | _ => false)) .link 0
    let bad := (s.lineKeys l).any fun k => let t := (s.tag k o).stream; t != 0 && t != streamOf m
    trapIf bad .link 0
    pure (p.1, e, l)) (pieces m.dst.toNat m.bytes.length)

/-- The stream of a delivery recorded in a line's tag. -/
def State.tagStream (s : State) (o : LiveOut) (m : QpMsg) (l : Loc) : State :=
  (s.lineKeys l).foldl (fun s k =>
    { s with tags := sset LineTag.none_ s.tags k { s.tag k o with stream := streamOf m } }) s

/-- The physical address of a place. -/
def Loc.pa : Loc → Nat
  | .plain pa => pa
  | .packed p off => p + off
  | .view _ off => off

/-- The bytes of a line of a delivery. -/
def lineOf (m : QpMsg) (va : Nat) : List Byte := (m.bytes.drop (va - m.dst.toNat)).take 64

/-- The steps of a `cputred` delivery: in each stack that has lines of it, one (R378). -/
def redStepsOf (m : QpMsg) (xs : List (Nat × TlbEntry × Loc)) : List RedStep :=
  (List.range 8).filterMap fun k =>
    let mine := xs.filter fun x => stackOf x.2.2.pa = k
    if mine.isEmpty then none
    else some {
      stack := k, rqp := m.rqp, bf16 := m.bf16, leaves := mine.map fun x => x.2.1
      lines := mine.map fun x => (BitVec.ofNat 51 x.2.2.pa, BitVec.ofNat 512 (leNat (lineOf m x.1))) }

/-- A delivery's lines written, or handed to the reducers, and counted (R328, R372, R378).
Log entry 50: DEDUCED, unsafe. -/
def State.deliverLines (s : State) (m : QpMsg) (o : LiveOut) (xs : List (Nat × TlbEntry × Loc)) : State :=
  let s := xs.foldl (fun s x =>
    let s := (s.tagStream o m x.2.2).countLines x.2.1 x.1 x.2.2 64
    if m.red then s else s.writeHome x.2.1 x.2.2 (lineOf m x.1)) s
  if m.red then { s with redsteps := s.redsteps ++ redStepsOf m xs } else s

/-- Writes of a delivery are still to be performed: by the reducers, or by the promotion of a page that holds them (R337,
R372). -/
def State.deliveryPending (s : State) (id : CtxId) (m : QpMsg) : Bool :=
  (s.redsteps.any fun r => r.rqp == m.rqp) || s.pageHolds id m.dst.toNat (m.dst.toNat + m.bytes.length)

/-- A delivery waits at its queue pair (R371). -/
def State.holdQp (s : State) (m : QpMsg) (va : Option (BitVec 57)) : State :=
  let q := s.qp m.rqp.toNat
  s.setQp m.rqp.toNat { q with waiting := some m, waitVa := va }

/-- A delivery with the expected sequence number (R370, R371). -/
def State.tryQp (s : State) (id : CtxId) (m : QpMsg) : State :=
  let x := s.ctxOf id
  let lo := m.dst.toNat
  let hi := lo + m.bytes.length
  if m.bytes.isEmpty then
    if (match m.rcn with | some n => decide (x.cnCount ≤ n.toNat) | none => false) then s.refuseQp m else s.acceptQp id m
  else if x.liveOuts.all fun o => decide (hi ≤ o.base.toNat) || decide (o.limit ≤ lo) then s
  else
    match x.liveOuts.find? fun o => decide (o.base.toNat ≤ lo) && decide (hi ≤ o.limit) with
    | none => s.refuseQp m
    | some o =>
      if o.kind ≠ .exchange ∨ m.rcn ≠ some o.cn ∨ s.gateOpen id o then s.refuseQp m
      else
        match deliveryLines id m o s with
        | .error (.notPresent va acc, _) => (s.stopPkg (.qpDelivery m.rqp) id va acc 4 0x7F 0 false).holdQp m (some va)
        | .error (.migrating va acc, _) => (s.stopPkg (.qpDelivery m.rqp) id va acc 4 0x7F 0 true).holdQp m (some va)
        | .error (.fatal code, _) => s.fatal id code 0x7F
        | .error (.trap .ecc _, _) => s.fatal id 21 0x7F
        | .error _ => s.refuseQp m
        | .ok (ls, t) =>
          let t := t.deliverLines m o ls
          if t.deliveryPending id m then (t.bindQp m).holdQp m none else t.acceptQp id m

/-- QP_DELIVERY (R370). A delivery that waits on a page is tried again when the same message comes while its page no
longer holds it; while its reduction steps are under way it stands. -/
def State.qpDeliver (s : State) (m : QpMsg) : State :=
  let q := s.qp m.rqp.toNat
  match s.qpOwner m.rqp.toNat with
  | none => s.send (.qpRefusal m.peer m.sqp m.seq)
  | some id =>
    if q.state = 2 ∨ (q.state = 1 ∧ (q.peer ≠ m.peer ∨ q.pqp ≠ m.sqp)) then s.refuseQp m
    else if seqBefore m.seq q.rseq then s.send (.qpAck m.peer m.sqp m.seq)
    else if m.seq ≠ q.rseq then s
    else
      match q.waiting, q.waitVa with
      | none, _ => s.tryQp id m
      | some w, some _ =>
        if w = m ∧ !s.pathHeld (.qpDelivery m.rqp) then
          ((s.clearPath (.qpDelivery m.rqp)).setQp m.rqp.toNat { q with waiting := none, waitVa := none }).tryQp id m
        else s
      | some _, none => s

/-- QP_DELIVERY (R370). -/
def execQpDelivery (m : QpMsg) (s : State) : Host.Outcome State Fault Refusal := .next (s.qpDeliver m)

/-! ## The reducers (R378) -/

/-- A delivery whose last write has now been performed is accepted (R370, R372). -/
def State.settleQp (s : State) (n : Nat) : State :=
  let q := s.qp n
  match q.waiting, s.qpOwner n with
  | some m, some id => if q.waitVa.isNone ∧ !s.deliveryPending id m then s.acceptQp id m else s
  | _, _ => s

/-- REDUCER_STEP (R378): the k-th step in arrival order, when none of its stack is before it; with the last of a
delivery's steps the delivery is accepted (R370, R372). -/
def State.reducerStep (s : State) (k : Nat) : State :=
  match s.redsteps[k]? with
  | none => s
  | some r =>
    if (s.redsteps.take k).any fun x => x.stack = r.stack then s
    else
      State.settleQp { s with redsteps := s.redsteps.eraseIdx k, mem := r.apply s.mem } r.rqp.toNat

/-- REDUCER_STEP (R378). -/
def execReducerStep (k : Nat) (s : State) : Host.Outcome State Fault Refusal := .next (s.reducerStep k)

/-! ## Culvert deliveries (R352, R353, R358) -/

/-- The package endpoint n. -/
def State.chan (s : State) (n : BitVec 5) : Channel := s.chans[n.toFin]

/-- A package endpoint changed. -/
def State.modChan (s : State) (n : BitVec 5) (f : Channel → Channel) : State :=
  { s with chans := s.chans.set n.toFin (f (s.chan n)) }

/-- A refused delivery: both endpoints enter ERROR. -/
def State.refuseCulvert (s : State) (n : BitVec 5) (m : CulvertMsg) : State :=
  (s.modChan n fun c => { c with state := 2, waiting := none, waitVa := none, landing := none }).send
    (.culvertRefusal (s.chan n).peer m.seq)

/-- The Weir arrival of a delivery (R352, R385): it waits at the endpoint, or puts it in ERROR. -/
def State.culvertArrive (s : State) (n : BitVec 5) (id : CtxId) (m : CulvertMsg) : State :=
  let c := s.chan n
  let wq := bits c.ctl.toNat 37 36
  if wq = 0 then s
  else if s.weir.ctx ≠ some id then s.modChan n fun c => { c with state := 2 }
  else
    let (t, a) := s.weirArrive (bits c.ctl.toNat 39 38) (wq == 2) m.tag (.channel n)
    match a with
    | .applied => t.modChan n fun c => { c with waiting := none, waitVa := none }
    | .waits => s.modChan n fun c => { c with waiting := some m, waitVa := none }
    | .refused => s.modChan n fun c => { c with state := 2, waiting := none, waitVa := none }

/-- The ring of an XCH endpoint that counts its deliveries lies in a live EXCHANGE output with its counter, whose gate is
not yet open (R121, R126, R353). -/
def State.xchOpen (s : State) (id : CtxId) (c : Channel) : Bool :=
  c.cn.getLsbD 12 && (s.ctxOf id).liveOuts.any fun o => o.kind == .exchange && decide (o.base.toNat ≤ c.ringVa) &&
    decide (c.ringVa + c.nslot * c.slotBytes ≤ o.limit) && decide (o.cn.toNat = bits c.cn.toNat 11 0) && !s.gateOpen id o

/-- A delivery to a slot [lo, hi) is accepted (R121, R126, R353): of a ring with XCH into its EXCHANGE output; of any other
into no live output but an EXCHANGE one whose counter it increments and whose gate is not yet open. -/
def State.slotAdmitted (s : State) (id : CtxId) (c : Channel) (lo hi : Nat) : Bool :=
  if c.ctl.getLsbD 17 then s.xchOpen id c
  else (s.ctxOf id).liveOuts.all fun o => !meet (lo, hi) (o.base.toNat, o.limit) ||
    (o.kind == .exchange && c.cn.getLsbD 12 && decide (o.cn.toNat = bits c.cn.toNat 11 0) && !s.gateOpen id o)

/-- The slot that a delivery reaches. -/
def Channel.slotFor (c : Channel) (m : CulvertMsg) : Nat := m.seq.toNat % c.nslot

/-- The first VA of a slot. -/
def Channel.slotVa (c : Channel) (k : Nat) : Nat := c.ringVa + k * c.slotBytes

/-- The writes of a delivery have been performed: its slot is FILLED, the counter and the sender learn of it, and Weir
(R352). -/
def State.culvertFill (s : State) (n : BitVec 5) (m : CulvertMsg) : State :=
  let c := s.chan n
  let s := s.modChan n fun c => { c with
    slots := sset .empty c.slots (c.slotFor m) (.filled m.seq m.tag), waiting := none, waitVa := none, landing := none }
  let s := if c.cn.getLsbD 12 then s.addCounter c.ctx (bits c.cn.toNat 11 0) 1 else s
  (s.send (.culvertAck c.peer m.seq)).culvertArrive n c.ctx m

/-- A delivery whose writes a home holds fills its slot once they are performed (R337, R352). -/
def State.settleCulvert (s : State) (n : BitVec 5) : State :=
  let c := s.chan n
  match c.landing with
  | some m =>
    let va := c.slotVa (c.slotFor m)
    if s.pageHolds c.ctx va (va + c.slotBytes) then s else s.culvertFill n m
  | none => s

/-- A delivery reaches its slot. One to a slot that is not EMPTY cannot arise but on an endpoint with XCH, whose slots no
`crel` opens (R352, R353). -/
def State.culvertLand (s : State) (n : BitVec 5) (m : CulvertMsg) : State :=
  let c := s.chan n
  let id := c.ctx
  let k := c.slotFor m
  let va := c.slotVa k
  let bs := (m.bytes ++ List.replicate (c.slotBytes - m.bytes.length) 0).take c.slotBytes
  if (s.slotOf id).isNone then s
  else if !s.slotAdmitted id c va (va + c.slotBytes) then s.refuseCulvert n m
  else if c.slot k ≠ .empty ∧ !c.ctl.getLsbD 17 then s
  else
    match deviceWrite id va bs s with
    | .ok (_, t) => (t.modChan n fun c => { c with waiting := none, waitVa := none, landing := some m }).settleCulvert n
    | .error (.notPresent va acc, _) =>
      (s.stopPkg (.culvert n) id va acc 4 0x7F 0 false).modChan n fun c => { c with waiting := some m, waitVa := some va }
    | .error (.migrating va acc, _) =>
      (s.stopPkg (.culvert n) id va acc 4 0x7F 0 true).modChan n fun c => { c with waiting := some m, waitVa := some va }
    | .error (.fatal code, _) => s.fatal id code 0x7F
    | .error (.trap .ecc _, _) => s.fatal id 21 0x7F
    | .error _ => s.refuseCulvert n m

/-- CULVERT_DELIVERY (R350, R352): from the endpoint's peer only. A message that waits, on a page or for a Weir record,
is tried again when it comes again while nothing holds it. -/
def State.culvertDeliver (s : State) (n : BitVec 5) (m : CulvertMsg) : State :=
  let c := s.chan n
  let mine := c.state == 1 && c.ctl.getLsbD 16 && c.landing.isNone && decide (bits c.peer.toNat 28 24 = m.fromCh.toNat) &&
    decide (bits c.peer.toNat 21 0 = m.fromCoord.toNat)
  if !mine then s
  else
    match c.waiting with
    | none => s.culvertLand n m
    | some w =>
      if w ≠ m ∨ s.pathHeld (.culvert n) then s
      else if c.waitVa.isSome then (s.clearPath (.culvert n)).culvertLand n m
      else s.culvertArrive n c.ctx m

/-- CULVERT_DELIVERY (R352). -/
def execCulvertDelivery (ch : BitVec 5) (m : CulvertMsg) (s : State) : Host.Outcome State Fault Refusal :=
  .next (s.culvertDeliver ch m)

/-- CULVERT_ACK (R355): the receiver's acknowledgement, or its refusal, which puts the sender's endpoint in ERROR (R352,
R353).
Log entry 103: DESIGN CHOICE, safe. -/
def execCulvertAck (a : CulvertAnswer) (s : State) : Host.Outcome State Fault Refusal :=
  .next (s.modChan a.ch fun c =>
    if c.state = 1 ∧ !c.ctl.getLsbD 16 then if a.refused then { c with state := 2 } else { c with unacked := none } else c)

/-- WINDOW_UPDATE (R357, R358). -/
def execWindowUpdate (ch : BitVec 5) (wlim : Word) (s : State) : Host.Outcome State Fault Refusal :=
  .next (s.modChan ch fun c => if c.state = 1 ∧ !c.ctl.getLsbD 16 then { c with hi := wlim } else c)

/-- CSEND_TIMEOUT (R358): the endpoint of an unacknowledged `csend` enters ERROR. -/
def execCsendTimeout (ch : BitVec 5) (s : State) : Host.Outcome State Fault Refusal :=
  .next (s.modChan ch fun c => if c.state = 1 ∧ c.unacked.isSome then { c with state := 2 } else c)

end Sys2Proof.Machine
end

