-- ==== Sys2Proof/Machine/Grotto.lean ====
section
/-! DEFINITION. Machine/Grotto.lean: the stash commands and the events that end Grotto's moves (R404 to R408). -/

namespace Sys2Proof.Machine

/-! ## Checks (R405) -/

/-- Grotto serves the issuing context. -/
def needGrotto : M Unit := do
  let s ← getS
  trapIf (!s.grottoServes s.curCtx) .queue 22

/-- The key a command names (R400). -/
def Cmd.stashKey (x : Cmd) (slot : BitVec 4) : BitVec 22 := Machine.stashKey x.snap.stage.toNat slot x.snap.tag.toNat

/-- A key code as TINFO. -/
def keyInfo (key : BitVec 22) : DWord := key.zeroExtend 64

/-- The entry of a key, which may be touched: CONFLICT where another job placed it whose group has not retired. -/
def touchEntry (key : BitVec 22) : M (Option StashEntry) := do
  let s ← getS
  match s.grotto.find key with
  | none => pure none
  | some e =>
    trapIf (decide (e.slot < 128) && !(e.slot == s.core.jobSlot && e.core == s.cur)) .conflict (keyInfo key)
    pure (some e)

/-! ## cstash (R406) -/

/-- The first byte of a record outside the declared WS. -/
def outsideWs (r : BitVec 512) (wsb : Nat) : Option Int :=
  let (lo, hi) := lySpan r
  if lo < wsBase then some lo
  else if hi ≤ ((wsBase + wsb : Nat) : Int) then none else lowestBeyond r (wsBase + wsb : Nat)

/-- The issue of a `cstash`. -/
def stashIssue (r : BitVec 512) : M Unit := do
  let at_ := BitVec.ofNat 64 (lyBase r)
  trapIf (decide (lySpace r = 2)) .window at_
  if lySpace r = 1 then pure () else checkExtent false r
  checkAligned [r]
  if lySpace r = 1 then
    match outsideWs r (← getCore).wsb with
    | some a => trapM .window (BitVec.ofNat 64 (wrapI 32 a))
    | none => pure ()
  else pure ()
  trapIf (decide (lyBytes r = 0) || decide (4194304 < lyBytes r)) .window at_

/-- The elements at positions of a source; WS bytes are raw. -/
def stashElems (r : BitVec 512) (ps : List Nat) : M (List Nat) := do
  if lySpace r = 1 then
    let ws := (← getCore).ws
    let tbl := (walkAddrs r ps).map fun a => (a, readByte ws (a - wsBase))
    pure (ps.map (rawElem r tbl))
  else readElems r ps

/-- The positions of chunk i of a walk of n positions. -/
def chunkPos (r : BitVec 512) (i : Nat) : List Nat :=
  let per := chunkLen r
  (List.range (min per (lyCount r - i * per))).map (i * per + ·)

/-- The bytes of a chunk as one frame, zero beyond the walk. -/
def frameBytes (r : BitVec 512) (vs : List Nat) : List Byte :=
  let bs := packElems (fmtWidth (lyFmt r)) vs
  bs ++ List.replicate (4096 - bs.length) 0

/-- A stash command that has started and waits on its entry or for frames (R155, R405). -/
def Cmd.onStash (x : Cmd) : Cmd := { x with phase := .stopped, held := some (x.progress, .waitFlag 68) }

/-- An entry created in PLACING once an entry and its frames are free; till then victims are chosen (R402). -/
def placeEntry (key : BitVec 22) (r : BitVec 512) (rc : Bool) (x : Cmd) : M Cmd := do
  let s ← getS
  let n := stashFrames (lyBytes r)
  if 4096 ≤ s.grotto.entries.length then pure x.onStash
  else
    match s.freeFrames n with
    | none => do
      modS fun s => State.makeRoom n 4097 s
      pure x.onStash
    | some fs => do
      let e : StashEntry := {
        key := key, state := .placing, bytes := lyBytes r, recomputable := rc, slot := s.core.jobSlot, core := s.cur
        frames := fs, groups := [], wantFrames := false, kept := [] }
      modS fun s => { s with grotto := { s.grotto with entries := s.grotto.entries ++ [e] } }
      pure { x with phase := .stopped, progress := 1 }

/-- A chunk of a placement; the last one is *plc*. -/
def placeChunk (key : BitVec 22) (r : BitVec 512) (x : Cmd) : M Cmd := do
  let i := x.progress - 1
  let vs ← stashElems r (chunkPos r i)
  let s ← getS
  match s.grotto.find key with
  | none => trapM .handle (keyInfo key)
  | some e =>
    modS fun s => { s with mem := writeBytes s.mem (s.grotto.frame (e.frames.getD i 0)) (frameBytes r vs) }
    modS fun s => s.perfCount 3 (min 4096 (lyBytes r - 4096 * i))
    if stashFrames (lyBytes r) ≤ i + 1 then do
      modS fun s => s.modStash key fun e => { e with state := .resident }
      pure (x.done 0)
    else pure { x with progress := x.progress + 1 }

/-- `cstash` (R406). -/
def execCstash (n : BitVec 3) (slot : BitVec 4) (rc : Bool) (g : Guard) (s : State) : Host.Outcome State Fault Refusal :=
  runEngAt .c 5 (.cstash n slot rc g) g (fun x => do
    let r := x.snap.lyr n
    let key := x.stashKey slot
    if x.phase = .waiting then stashIssue r else pure ()
    if x.progress = 0 then do
      needGrotto
      let old ← touchEntry key
      trapIf old.isSome .handle (keyInfo key)
      checkReserved [r]
      placeEntry key r rc x
    else placeChunk key r x) s

/-! ## cfetch (R407) -/

/-- An entry raw in HBM: a fetch may copy it out. -/
def StashState.raw : StashState → Bool
  | .resident | .compressing | .ready => true
  | _ => false

/-- *fet* at an entry (R401): its bytes are raw in HBM and the fetch goes on; it is DROPPED; or the fetch waits. -/
def fetchEvent (q : Nat) (e : StashEntry) (x : Cmd) : M Cmd := do
  match e.state with
  | .resident | .ready => do
    modS fun s => s.modStash e.key fun e => { e with state := .resident }
    pure { x with phase := .stopped, progress := max x.progress 1 }
  | .compressing => do
    modS fun s => (s.modStash e.key fun e => { e with state := .resident, groups := [] }).giveRing
      (e.groups.map BitVec.toNat)
    pure { x with phase := .stopped, progress := max x.progress 1 }
  | .dropped => pure { x.done 0 with pushes := [(q, 1)] }
  | .spilled => do
    let n := stashFrames e.bytes
    modS fun s =>
      match s.freeFrames n with
      | some fs => s.modStash e.key fun e => { e with state := .prefetching, frames := fs, wantFrames := false }
      | none => State.makeRoom n 4097 s
    pure x.onStash
  | .placing | .prefetching => stop (.flag 68)

/-- The elements of a frame's first n positions. -/
def frameElems (r : BitVec 512) (bs : List Byte) (n : Nat) : List Nat :=
  let w := fmtWidth (lyFmt r)
  (List.range n).map fun k =>
    if w = 4 then (bs.getD (k / 2) 0).toNat / 16 ^ (k % 2) % 16
    else leNat ((bs.drop (k * (w / 8))).take (w / 8))

/-- A chunk of a fetch. -/
def fetchChunk (q : Nat) (r : BitVec 512) (e : StashEntry) (x : Cmd) : M Cmd := do
  trapIf (decide (lyBytes r ≠ e.bytes)) .window (BitVec.ofNat 64 (lyBase r))
  let i := x.progress - 1
  let s ← getS
  let bs := readBytes s.mem (s.grotto.frame (e.frames.getD i 0)) 4096
  let ps := chunkPos r i
  writeElems x.iseq r false (ps.zip (frameElems r bs ps.length))
  if stashFrames (lyBytes r) ≤ i + 1 then pure { x.done 0 with pushes := [(q, BitVec.ofNat 64 (e.bytes * 2 ^ 32))] }
  else pure { x with progress := x.progress + 1 }

/-- `cfetch` (R407). -/
def execCfetch (n : BitVec 3) (slot : BitVec 4) (q7 : Bool) (g : Guard) (s : State) : Host.Outcome State Fault Refusal :=
  let q := if q7 then 7 else 6
  runEngAt .c 5 (.cfetch n slot q7 g) g (fun x => do
    let r := x.snap.lyr n
    let key := x.stashKey slot
    if x.phase = .waiting then do
      checkRecords (some (r, List.range (lyCount r))) [] []
      startRange r x
      needGrotto
      checkReserved [r]
    else pure ()
    if x.pushes.isEmpty then needRoom q else pure ()
    let x := { x with pushes := [(q, 0)] }
    match ← touchEntry key with
    | none => trapM .handle (keyInfo key)
    | some e =>
      if x.progress = 0 ∨ e.state ≠ .resident then fetchEvent q e x
      else fetchChunk q r e x) s

/-! ## cdrop and cpref (R408) -/

/-- `cdrop` (R408): *rel* at its key. -/
def execCdrop (slot : BitVec 4) (g : Guard) (s : State) : Host.Outcome State Fault Refusal :=
  runEngAt .c 5 (.cdrop slot g) g (fun x => do
    needGrotto
    let key := x.stashKey slot
    match ← touchEntry key with
    | none => trapM .handle (keyInfo key)
    | some e =>
      waitIf (e.state == .placing || e.state == .prefetching) (.flag 68)
      modS fun s => s.releaseStash e
      pure (x.done 0)) s

/-- `cpref` (R408). -/
def execCpref (q15 : Bool) (g : Guard) (s : State) : Host.Outcome State Fault Refusal :=
  runEngWith .c 5 (.cpref q15 g) g
    (fun x => do
      needGrotto
      popQs [if q15 then 15 else 14] x)
    (fun x => do
      let v := x.pop 0
      trapIf (decide (v.toNat / 2 ^ 18 ≠ 0)) .handle v
      modS fun s => s.prefetchTag (bits v.toNat 17 16) (bits v.toNat 15 0)
      pure (x.done 0)) s

/-! ## Events -/

/-- COMPRESSION_COMPLETE (R401). -/
def execCompressionComplete (key : BitVec 22) (s : State) : Host.Outcome State Fault Refusal := .next (s.compressed key)

/-- GROTTO_PROMOTION_COMPLETE (R401). -/
def execGrottoPromotionComplete (key : BitVec 22) (s : State) : Host.Outcome State Fault Refusal := .next (s.promoted key)

end Sys2Proof.Machine
end

