-- ==== Sys2Proof/Machine/Image.lean ====
section
/-! DEFINITION. Machine/Image.lean: the core image: what a save writes, what a restore reads back, and the word writes of
the debug aperture (R100, R101, R442). -/

namespace Sys2Proof.Machine

/-! ## Special registers by number (R58) -/

/-- The value of the special register of a number on a core; 0 at an unlisted number. -/
def State.specialAt (s : State) (i : Fin 128) (n : Nat) : DWord :=
  match SReg.ofCode (BitVec.ofNat 7 n) with
  | some r => { s with cur := i }.special r
  | none => 0

/-- A special register of an image put back: those a program may write, and those a job's start gives. -/
def SRegs.putImage (r : SRegs) (n : Nat) (v : DWord) : SRegs :=
  match SReg.ofCode (BitVec.ofNat 7 n) with
  | some (.lix k) => { r with lix := r.lix.set k.toFin v }
  | some .tag => { r with tag := v }
  | some .stage => { r with stage := v }
  | some .wver => { r with wver := v }
  | some .wbase => { r with wbase := v }
  | some q => r.write q v
  | none => r

/-! ## Areas (R100) -/

/-- The code of a job's state before PREEMPTED (R296). A job that a stop has reached shows what its S head was then.
Log entry 38: DEDUCED, unsafe. -/
def Core.stateCode (c : Core) : Nat :=
  match c.job with
  | none => 6
  | some j =>
    if j.ended then 6
    else if j.starting then 0
    else if c.stopped then 3
    else if c.sr.active then 4
    else match if j.stopping then c.stopHead else c.head with
      | .waitFlag _ => 2
      | _ => 1

/-- The restart PC: of an escalated trap the recorded TPC.
Log entry 38: DEDUCED, unsafe. -/
def Core.restartPc (c : Core) : DWord := c.trapPc

/-- The header's nine fields. -/
def Core.header (c : Core) (i : Fin 128) : List Byte :=
  match c.job with
  | none => List.replicate 64 0
  | some j =>
    leBytes 8 (1 + c.stateCode * 256 + 65536 + if j.escalated then 2 ^ 17 else 0) ++ leBytes 4 c.iseq.toNat ++
      leBytes 4 j.khandle.toNat ++ leBytes 4 j.xsb ++ leBytes 4 j.wsb ++ leBytes 4 j.acct ++ leBytes 4 i.val ++
      leBytes 8 c.restartPc.toNat ++ List.replicate 24 0

/-- The guard slots, two bits each, open below value. -/
def Core.guardWord (c : Core) : Nat :=
  ((List.range 16).map fun n =>
    let g : Guard := BitVec.ofNat 4 n
    ((if (c.pair g).isOpen then 1 else 0) + if c.guardVal g then 2 else 0) * 4 ^ n).sum

/-- Bytes padded with zeros to a length. -/
def padTo (n : Nat) (xs : List Byte) : List Byte := xs ++ List.replicate (n - xs.length) 0

/-- The bytes of a 256-byte register. -/
def vregBytes (v : VReg) : List Byte := leBytes 256 v.toNat

/-- The areas of a core's image whose layout R100 states: offset and bytes.
Log entry 36: DESIGN CHOICE, unsafe. -/
def State.imageAreas (s : State) (i : Fin 128) : List (Nat × List Byte) :=
  let c := s.coreAt i
  let (xsb, wsb, acct) := (c.xsb, c.wsb, c.acct)
  [(0x0, c.header i),
   (0x40, (List.range 32).flatMap fun n => leBytes 8 (c.rx (BitVec.ofNat 5 n)).toNat),
   (0x140, (List.range 64).flatMap fun n => leBytes 8 (s.specialAt i n).toNat),
   (0x340, padTo 64 (leBytes 4 c.guardWord ++ c.flags.toList)),
   (0x380, (List.range 16).flatMap fun n => padTo 64 ((c.qreg n).flatMap fun v => leBytes 8 v.toNat)),
   (0x780, (List.range 16).flatMap fun n => leBytes 4 (c.qreg n).length),
   (0x7C0, leBytes 8 c.vec.vview.toNat ++ leBytes 8 c.vec.wview.toNat ++
     (c.vec.mx.toList.flatMap fun v => leBytes 8 v.toNat) ++ leBytes 16 c.lyconf.toNat),
   (0x800, vregBytes c.vec.lrl),
   (0x900, c.vec.o.toList.flatMap vregBytes),
   (0x1900, padTo 4096 (c.vec.cond.flatMap fun v => leBytes 4 v.toNat)),
   (0x2900, leBytes 64 c.vec.cond.length),
   (0x2940, c.ly.toList.flatMap fun v => leBytes 64 v.toNat),
   (0x2B40, c.bd.toList.flatMap fun v => leBytes 64 v.toNat),
   (0x2D40, c.gn.toList.flatMap fun v => leBytes 64 v.toNat),
   (0x10000, (List.range 256).flatMap fun n => vregBytes (sget 0 c.vec.urs n)),
   (0x20000, (List.range (64 * acct)).flatMap fun n => vregBytes (sget 0 c.acc n)),
   (0x40000, readBytes c.xs 0 xsb),
   (0x1C0000, readBytes c.ws 0 wsb)]

/-- The areas whose records have no stated layout: the park area, the progress records, the projection unit, the parked
stores. -/
def freeAreas : List (Nat × Nat) := [(0x3000, 12288), (0x6000, 512), (0x6200, 17408), (0xA600, 512)]

/-- The bytes of such an area, by the count of free values drawn.
Log entry 37: DESIGN CHOICE, unsafe. -/
def freeArea (k : Nat) (a : Nat × Nat) : List Byte := (List.range a.2).map fun j => Config.freeByte k (a.1 + j)

/-- The address of a core's image. -/
def State.imageBase (s : State) (id : CtxId) (i : Fin 128) : Nat := (s.ctxOf id).image.toNat + i.val * 0x400000

/-- The image of a core with job j written at its place, all of its bytes or a page fault. -/
def saveJob (i : Fin 128) (j : Job) : M Unit := do
  let s ← getS
  let k ← drawFree
  let areas := s.imageAreas i ++ freeAreas.map fun a => (a.1, freeArea k a)
  deviceWrites j.ctx (areas.map fun a => (s.imageBase j.ctx i + a.1, a.2))
  modS fun s => s.setCoreAt i { s.coreAt i with imageKey := k }

/-- An image written at its place; a core with no job has none. -/
def saveImage (i : Fin 128) : M Unit := do
  let s ← getS
  match (s.coreAt i).job with
  | none => pure ()
  | some j => saveJob i j

/-! ## Restoring -/

/-- A 256-byte register from bytes. -/
def vregOf (xs : List Byte) : VReg := BitVec.ofNat 2048 (leNat (xs.take 256))

/-- Item n, of k bytes, of an area. -/
def item (xs : List Byte) (k n : Nat) : Nat := leNat ((xs.drop (k * n)).take k)

/-- Values put in a sparse map from a key on. -/
def putRows (m : Sparse VReg) (from_ : Nat) : List VReg → Sparse VReg
  | [] => m
  | v :: vs => putRows (sset 0 m from_ v) (from_ + 1) vs

/-- The guard pairs of the slots' bits; P0 stays true and P1 false (R52). -/
def guardsOf (w : Nat) : Vector GuardPair 8 :=
  Vector.ofFn fun k => if k = 0 then ⟨false, true⟩ else ⟨bitN w (4 * k.val), bitN w (4 * k.val + 1)⟩

/-- A declared size in a header, at most what a descriptor may declare (R100, R268). -/
def headerSize (h : List Byte) (off most : Nat) : Nat := min (leNat ((h.drop off).take 4)) most

/-- What the areas without a stated layout hold: the commands and posted accesses that are parked, where the paths stand,
with the sequencer's pending drain (R299) and the walk state (R276) in the S progress record, and the projection unit
(R100). -/
structure ImageParts where
  parked : List Parked
  posted : List Posted
  sStop : Option PathStop
  mStop : Option PathStop
  cStop : Option PathStop
  proj : Option ProjUnit
  seq : SeqState
  /-- the tiles left and the next walk index -/
  walk : Nat × Nat
deriving DecidableEq, Repr, Inhabited

/-- What those areas say that are not as the device wrote them: a free value of their bytes.
Log entry 37: DESIGN CHOICE, unsafe. -/
opaque Config.imageParts : List Byte → ImageParts

/-- Those parts of a core. -/
def Core.imageParts (c : Core) : ImageParts where
  parked := c.parked
  posted := c.posted
  sStop := c.sStop
  mStop := c.mStop
  cStop := c.cStop
  proj := c.proj
  seq := c.seq
  walk := match c.job with
    | some j => (j.left, j.nextWalk)
    | none => (0, 0)

/-- A core with those parts. -/
def Core.withParts (c : Core) (p : ImageParts) : Core :=
  { c with
    parked := p.parked, posted := p.posted, sStop := p.sStop, mStop := p.mStop, cStop := p.cStop, proj := p.proj
    seq := p.seq
    job := c.job.map fun j => { j with left := p.walk.1, nextWalk := p.walk.2 } }

/-- A saved core's parts as the areas now read. -/
def Core.readParts (c : Core) (rd : Nat → List Byte) : ImageParts :=
  if freeAreas.all fun a => rd a.1 == freeArea c.imageKey a then c.imageParts
  else Config.imageParts (freeAreas.flatMap fun a => rd a.1)

/-- A saved core with the areas of its image as they now read (R101): the host may have edited them. -/
def Core.fromImage (c : Core) (rd : Nat → List Byte) : Core :=
  let h := rd 0
  let escalated := bitN (leNat (h.take 8)) 17
  let xs := rd 0x40
  let sr := (List.range 64).foldl (fun r n => r.putImage n (BitVec.ofNat 64 (item (rd 0x140) 8 n))) c.sr
  let g := rd 0x340
  let (q, qn) := (rd 0x380, rd 0x780)
  let (v, o, cb) := (rd 0x7C0, rd 0x900, rd 0x1900)
  let (ly, bd, gn) := (rd 0x2940, rd 0x2B40, rd 0x2D40)
  let urs := rd 0x10000
  let acc := rd 0x20000
  let pc := pcOf (BitVec.ofNat 64 (leNat ((h.drop 0x20).take 8)))
  let acct := headerSize h 0x18 8
  let c := c.withParts (c.readParts rd)
  { c with
    iseq := BitVec.ofNat 32 (leNat ((h.drop 8).take 4))
    pc := if escalated then pcOf sr.tpc else pc
    x := Vector.ofFn fun n => if n.val = 0 then 0 else BitVec.ofNat 64 (item xs 8 n.val)
    sr := sr
    guards := guardsOf (leNat (g.take 4))
    flags := Vector.ofFn fun n => g.getD (4 + n.val) 0
    q := Vector.ofFn fun n => (List.range (min 8 (item qn 4 n.val))).map fun k => BitVec.ofNat 64 (item q 8 (8 * n.val + k))
    vec := { c.vec with
      vview := BitVec.ofNat 8 (item v 8 0), wview := BitVec.ofNat 8 (item v 8 1)
      mx := Vector.ofFn fun n => BitVec.ofNat 32 (item v 8 (2 + n.val))
      lrl := vregOf (rd 0x800)
      o := Vector.ofFn fun n => vregOf (o.drop (256 * n.val))
      cond := (List.range (min 1024 (leNat (rd 0x2900)))).map fun k => BitVec.ofNat 32 (item cb 4 k)
      urs := putRows [] 0 ((List.range 256).map fun n => vregOf (urs.drop (256 * n))) }
    lyconf := BitVec.ofNat 32 (item v 8 6)
    ly := Vector.ofFn fun n => lyClean (BitVec.ofNat 512 (item ly 64 n.val))
    bd := Vector.ofFn fun n => bdClean (BitVec.ofNat 64 (item bd 64 n.val))
    gn := Vector.ofFn fun n => gnClean (BitVec.ofNat 512 (item gn 64 n.val))
    acc := putRows [] 0 ((List.range (64 * acct)).map fun n => vregOf (acc.drop (256 * n)))
    xs := writeBytes [] 0 (rd 0x40000)
    ws := writeBytes [] 0 (rd 0x1C0000)
    seq := match c.seq with
      | .draining a => if (if escalated then pcOf sr.tpc else pc) = a then .draining a else .fetching
      | .fetching => .fetching
    job := c.job.map fun j => { j with
      escalated := escalated, khandle := BitVec.ofNat 32 (leNat ((h.drop 0xC).take 4))
      xsb := headerSize h 0x10 0x180000, wsb := headerSize h 0x14 0x200000, acct := acct } }

/-- The lengths of the areas read back, by the sizes that the header declares. -/
def areaLens (xsb wsb acct : Nat) : List (Nat × Nat) :=
  freeAreas ++
  [(0x0, 64), (0x40, 256), (0x140, 512), (0x340, 64), (0x380, 1024), (0x780, 64), (0x7C0, 64), (0x800, 256), (0x900, 4096),
   (0x1900, 4096), (0x2900, 64), (0x2940, 512), (0x2B40, 512), (0x2D40, 512), (0x10000, 65536), (0x20000, 16384 * acct),
   (0x40000, xsb), (0x1C0000, wsb)]

/-- An image read back for a saved core; none where its valid bit is clear. -/
def loadCore (id : CtxId) (i : Fin 128) (c : Core) : M (Option Core) := do
  let base := (← getS).imageBase id i
  let h ← deviceRead id base 64
  let as ← mapM' (fun (a : Nat × Nat) => do
    let bs ← deviceRead id (base + a.1) a.2
    pure (a.1, bs)) (areaLens (headerSize h 0x10 0x180000) (headerSize h 0x14 0x200000) (headerSize h 0x18 8))
  let rd := fun (off : Nat) => ((as.find? fun a => a.1 = off).map (·.2)).getD []
  pure (if bitN (leNat ((rd 0).take 8)) 16 then some (c.fromImage rd) else none)

/-! ## Word writes of a stopped core (R442) -/

/-- A register of 256 bytes with its 8-byte word k written. -/
def putWord (v : VReg) (k : Nat) (x : DWord) : VReg :=
  vregOf (overlay (vregBytes v) (8 * k) (leBytes 8 x.toNat))

/-- A record of 64 bytes with its word k written. -/
def putWord64 (v : BitVec 512) (k : Nat) (x : DWord) : BitVec 512 :=
  BitVec.ofNat 512 (leNat (overlay (leBytes 64 v.toNat) (8 * k) (leBytes 8 x.toNat)))

/-- The view registers by their word: VVIEW, WVIEW. -/
def Core.putView (c : Core) (k : Nat) (x : DWord) : Core :=
  match k with
  | 0 => { c with vec := { c.vec with vview := BitVec.ofNat 8 x.toNat } }
  | 1 => { c with vec := { c.vec with wview := BitVec.ofNat 8 x.toNat } }
  | _ => c

/-- A special register is RW (R58). -/
def rwReg (n : Nat) : Bool := decide (1 ≤ n) && decide (n ≤ 0x0E) || (decide (0x10 ≤ n) && decide (n ≤ 0x1B))

/-- An aligned 8-byte word written at an offset of the image; what may not be written is ignored. -/
def Core.debugPut (c : Core) (off : Nat) (x : DWord) : Core :=
  let k := off / 8
  if off % 8 ≠ 0 then c
  else if off = 0x20 then { c with pc := pcOf x, seq := .fetching }
  else if 0x40 ≤ off ∧ off < 0x140 then c.wx (BitVec.ofNat 5 (k - 8)) x
  else if 0x140 ≤ off ∧ off < 0x340 then
    if rwReg (k - 0x28) then { c with sr := c.sr.putImage (k - 0x28) x } else c
  else if 0x340 ≤ off ∧ off < 0x368 then
    let bs := overlay (padTo 40 (leBytes 4 c.guardWord ++ c.flags.toList)) (off - 0x340) (leBytes 8 x.toNat)
    { c with guards := guardsOf (leNat (bs.take 4)), flags := Vector.ofFn fun n => bs.getD (4 + n.val) 0 }
  else if 0x7C0 ≤ off ∧ off < 0x800 then c.putView (k - 0xF8) x
  else if 0x800 ≤ off ∧ off < 0x900 then { c with vec := { c.vec with lrl := putWord c.vec.lrl (k - 0x100) x } }
  else if 0x900 ≤ off ∧ off < 0x1900 then
    let n := (off - 0x900) / 256
    { c with vec := { c.vec with o := c.vec.o.setIfInBounds n (putWord (c.vec.o.getD n 0) ((off - 0x900) / 8 % 32) x) } }
  else if 0x2940 ≤ off ∧ off < 0x2B40 then
    let n := (off - 0x2940) / 64
    { c with ly := c.ly.setIfInBounds n (lyClean (putWord64 (c.ly.getD n 0) ((off - 0x2940) / 8 % 8) x)) }
  else if 0x2B40 ≤ off ∧ off < 0x2D40 then
    let n := (off - 0x2B40) / 64
    if off % 64 = 0 then { c with bd := c.bd.setIfInBounds n (bdClean x) } else c
  else if 0x2D40 ≤ off ∧ off < 0x2F40 then
    let n := (off - 0x2D40) / 64
    { c with gn := c.gn.setIfInBounds n (gnClean (putWord64 (c.gn.getD n 0) ((off - 0x2D40) / 8 % 8) x)) }
  else if 0x10000 ≤ off ∧ off < 0x20000 then
    let n := (off - 0x10000) / 256
    { c with vec := { c.vec with urs := sset 0 c.vec.urs n (putWord (sget 0 c.vec.urs n) (off / 8 % 32) x) } }
  else if 0x20000 ≤ off ∧ off < 0x20000 + 16384 * c.acct then
    let n := (off - 0x20000) / 256
    { c with acc := sset 0 c.acc n (putWord (sget 0 c.acc n) (off / 8 % 32) x) }
  else if 0x40000 ≤ off ∧ off < 0x40000 + c.xsb then
    { c with xs := writeBytes c.xs (off - 0x40000) ((leBytes 8 x.toNat).take (c.xsb - (off - 0x40000))) }
  else if 0x1C0000 ≤ off ∧ off < 0x1C0000 + c.wsb then
    { c with ws := writeBytes c.ws (off - 0x1C0000) ((leBytes 8 x.toNat).take (c.wsb - (off - 0x1C0000))) }
  else c

end Sys2Proof.Machine
end

