-- ==== Sys2Proof/Machine/Page.lean ====
section
/-! DEFINITION. Machine/Page.lean: the page words, invalidation, the fault buffer's writes and Sump's moves (R324, R325,
R330 to R332, R341 to R345). -/

namespace Sys2Proof.Machine

/-! ## pg.cnt and pg.hint (R342, R343) -/

/-- `pg.cnt` (R342). It never faults: an address that does not translate has no effect. -/
def State.announce (s : State) (va n : Nat) : State :=
  if !isGlobal va then s
  else
    match s.lookup s.curCtx va with
    | (t, .leaf e) =>
      match locate e va false t with
      | .ok (l, t) =>
        if e.leaf.getLsbD 11 then
          ((t.homesOf l 1).take 1).foldl (fun t pa =>
            t.countAccess e.ctx va pa (leafTier e.leaf) (min n 0xFFFFFFFF)) t
        else t
      | .error _ => t
    | (t, _) => t

/-- `pg.cnt` (R342).
Log entry 26: DEDUCED, unsafe. -/
def execPgCnt (a b : XReg) (s : State) : Host.Outcome State Fault Refusal :=
  runS (do
    let va ← getX a
    let n ← getX b
    modS fun s => s.announce va.toNat n.toNat
    advance) s

/-- The hints of a range: each of its regions in a managed range of the context, while Sump's queue takes them (R343). -/
def State.hintRange (s : State) (va len : Nat) (up : Bool) : State :=
  let id := s.curCtx
  let n := min len (2 ^ 30)
  let first := va / 65536
  let count := if n = 0 then 0 else (va + n - 1) / 65536 + 1 - first
  (List.range count).foldl (fun s k => if s.managed id (first + k) then s.hint id (first + k) up else s) s

/-- A hint word. -/
def hintWord (a b : XReg) (up : Bool) (s : State) : Host.Outcome State Fault Refusal :=
  runS (do
    let va ← getX a
    let n ← getX b
    modS fun s => s.hintRange va.toNat n.toNat up
    advance) s

/-- `pg.hint.up` (R343). -/
def execPgHintUp (a b : XReg) (s : State) : Host.Outcome State Fault Refusal := hintWord a b true s

/-- `pg.hint.down` (R343). -/
def execPgHintDown (a b : XReg) (s : State) : Host.Outcome State Fault Refusal := hintWord a b false s

/-! ## Invalidation (R344, R345) -/

/-- What `tlb.inv` does once the privilege is checked (R344): earlier stores first, parked ones with them; the copies go;
the word waits until what was translated through them has been performed. -/
def invalidate (scope : M InvScope) : M Unit := do
  waitIf (!(← getCore).posted.isEmpty) .engine
  let x ← scope
  modS fun s => s.dropLeaves x
  if ((← getS).usersOf x).isEmpty then advance
  else modCore fun c => { c with head := .waitEngine, issue := .notDone }

/-- A `tlb.inv` word.
Log entry 27: DEDUCED, safe. -/
def tlbInv (word : Nat) (scope : M InvScope) (s : State) : Host.Outcome State Fault Refusal :=
  runS (do
    let x ← getCtx
    trapIf (!x.priv) .priv (BitVec.ofNat 64 word)
    invalidate scope) s

/-- `tlb.inv.page` (R344). -/
def execTlbInvPage (a : XReg) (s : State) : Host.Outcome State Fault Refusal :=
  tlbInv (0xDC000002 + a.toNat * 65536) (do
    let v ← getX a
    trapIf (!isGlobal v.toNat) .page (pageInfo v.toNat 0 false)
    pure (.page (← getS).curCtx v.toNat)) s

/-- `tlb.inv.ctx` (R344). -/
def execTlbInvCtx (s : State) : Host.Outcome State Fault Refusal :=
  tlbInv 0xDC000012 (do pure (.ctx (← getS).curCtx)) s

/-- `tlb.inv.all` (R344). -/
def execTlbInvAll (s : State) : Host.Outcome State Fault Refusal := tlbInv 0xDC000022 (pure .all) s

/-- A TLBINV write (R345): one that finds BUSY set waits for the invalidations before it. -/
def State.hostTlbinv (s : State) (x : InvScope) : State := State.settleInvs (s.regs.tlbinvNext ++ [x]) s

/-- TLBINV_PAGE (R345). -/
def execHostTlbinvPage (va : BitVec 57) (ctx : CtxId) (s : State) : Host.Outcome State Fault Refusal :=
  .next (s.hostTlbinv (.page ctx va.toNat))

/-- TLBINV_CTX (R345). -/
def execHostTlbinvCtx (ctx : CtxId) (s : State) : Host.Outcome State Fault Refusal := .next (s.hostTlbinv (.ctx ctx))

/-- TLBINV_ALL (R345). -/
def execHostTlbinvAll (s : State) : Host.Outcome State Fault Refusal := .next (s.hostTlbinv .all)

/-! ## The fault buffer (R324, R325) -/

/-- FAULT_BUFFER_WRITE (R324): the oldest waiting entry goes to the ring, with its index, when there is room. -/
def State.writeFault (s : State) : State :=
  match s.faults with
  | [] => s
  | e :: rest =>
    if !s.fbReady then s
    else
      let r := s.regs
      let a := bits r.fbbase.toNat 50 12 * 4096 + 32 * (r.fbwr.toNat % 2 ^ ringLog (r.fbctl.toNat % 32) 16)
      let m := writeLE (writeLE (writeLE (writeLE s.mem a 8 e.w0.toNat) (a + 8) 8 e.w1.toNat) (a + 16) 8 e.w2.toNat)
        (a + 24) 8 r.fbwr.toNat
      { s with faults := rest, mem := m, regs := { r with fbwr := r.fbwr + 1 } }

/-- FAULT_BUFFER_WRITE (R324). -/
def execFaultBufferWrite (s : State) : Host.Outcome State Fault Refusal := .next s.writeFault

/-! ## Sump (R330 to R332, R337) -/

/-- The leaf of a page that Sump may move: a 4 KiB leaf in TIER 0, 1 or 2, not of an aperture, of an active range, that no
move waits for. -/
def State.sumpPage (s : State) (id : CtxId) (va : Nat) : Option TlbEntry :=
  if !s.managed id (va / 65536) then none
  else
    match s.walk id va with
    | .leaf e => if e.size = 4096 ∧ leafTier e.leaf ≤ 2 ∧ !leafAperture e.leaf ∧ s.moves.all (fun m => m.pte ≠ e.pteAddr) then
        some e
      else none
    | _ => none

/-- The page lies raw in HBM. -/
def inHbm (e : TlbEntry) : Bool := leafTier e.leaf == 0

/-- A line of the physical page is staged by an open transaction group (R331). -/
def State.pageStaged (s : State) (pa : Nat) : Bool :=
  s.coresAndSaved.any fun p => match p.2.tx with
    | some g => g.lines.any fun l => decide (l.pa.toNat / 4096 = pa / 4096)
    | none => false

/-- A hint that asks for the region in a direction. -/
def State.hinted (s : State) (id : CtxId) (region : Nat) (up : Bool) : Bool := s.hints.contains (id, region, up)

/-- Requests with no page left to move are done. -/
def State.pruneHints (s : State) : State :=
  { s with hints := s.hints.filter fun h => (List.range 16).any fun k =>
      match s.sumpPage h.1 (h.2.1 * 65536 + 4096 * k) with
      | some e => inHbm e != h.2.2
      | none => false }

/-- A page enters the in-flight table and its cached copies go (R331). -/
def State.enterMove (s : State) (e : TlbEntry) (promote : Bool) : State :=
  State.pruneHints { s with
    moves := s.moves ++ [⟨e.ctx, e.va, e.pteAddr, promote, true, []⟩]
    tlb := s.tlb.filter fun x => x.pteAddr ≠ e.pteAddr }

/-- The count of a region on both dies; 0 where it has no counter. -/
def State.regionCount (s : State) (id : CtxId) (region : Nat) : Nat :=
  (((s.access ++ s.access1).filter fun c => c.2.ctx = id ∧ c.2.region = region).map fun c => c.2.count).sum

/-- A page of the region lies in HBM, where Sump may demote it. -/
def State.demotable (s : State) (id : CtxId) (region : Nat) : Bool :=
  (List.range 16).any fun k => (s.sumpPage id (region * 65536 + 4096 * k)).any inHbm

/-- No counter of Sump's ranges whose region it could demote is below the region's. -/
def State.leastCount (s : State) (id : CtxId) (region : Nat) : Bool :=
  (s.access ++ s.access1).all fun c =>
    decide (s.regionCount id region ≤ s.regionCount c.2.ctx c.2.region) || !s.demotable c.2.ctx c.2.region

/-- A move of a page starts where its cause stands (R332): a hint, or the marks, which a demotion follows from below LOW
up to HIGH by the page of least count.
Log entry 28: DESIGN CHOICE, safe. -/
def State.startMove (s : State) (id : CtxId) (va : Nat) (promote : Bool) : State :=
  let s := s.noteMarks
  match s.sumpPage id va with
  | none => s
  | some e =>
    let high := bits s.regs.smark.toNat 63 32
    let cause := s.hinted id (va / 65536) promote ||
      (if promote then decide (high ≤ s.freeHbm) else s.demoting && s.leastCount id (va / 65536))
    if cause ∧ inHbm e = !promote ∧ s.moveRoom ∧ !s.pageStaged (leafPa e.leaf) then s.enterMove e promote else s

/-- DEMOTION (R332). -/
def execDemotion (ctx : CtxId) (va : BitVec 57) (s : State) : Host.Outcome State Fault Refusal :=
  .next (s.startMove ctx va.toNat false)

/-- PROMOTION (R332). -/
def execPromotion (ctx : CtxId) (va : BitVec 57) (s : State) : Host.Outcome State Fault Refusal :=
  .next (s.startMove ctx va.toNat true)

/-- DEST of the range of a page. -/
def State.rangeTier (s : State) (id : CtxId) (va : Nat) : Nat :=
  match s.ranges.toList.find? fun r => r.ctl.getLsbD 16 && bits r.ctl.toNat 15 0 == id.toNat &&
      decide (bits r.base.toNat 56 16 ≤ va / 65536) && decide (va / 65536 < bits r.lim.toNat 56 16) with
  | some r => if bits r.ctl.toNat 19 18 = 2 then 2 else 1
  | none => 1

/-- A record and a slot of n units in a group. -/
def roomIn (m : Mem) (n g : Nat) : Option (Nat × Nat) :=
  match freeRecord m g, findUnits m g n with
  | some p, some st => some (g + 4096 * p, st)
  | _, _ => none

/-- The place of a compressed page of n units in a tier: in a group that Sump has, or in a free one. -/
def State.placeFor (s : State) (tier n : Nat) : Option ((Nat × Nat) × State) :=
  match (s.sumpGroups.filter fun g => s.inTier tier g.toNat 65536).findSome? fun g => roomIn s.mem n g.toNat with
  | some r => some (r, s)
  | none =>
    match s.takeGroups tier 1 with
    | some ([g], t) =>
      match roomIn t.mem n g with
      | some r => some (r, { t with sumpGroups := t.sumpGroups ++ [BitVec.ofNat 51 g] })
      | none => none
    | _ => none

/-- Each line's tag goes to the new place (R331). -/
def State.carryTags (s : State) (src dst : Nat) : State :=
  (List.range 64).foldl (fun s k =>
    let t := sget LineTag.none_ s.tags (src / 64 + k)
    { s with tags := sset LineTag.none_ (sset LineTag.none_ s.tags (src / 64 + k) LineTag.none_) (dst / 64 + k) t }) s

/-- A leaf with a new PA, TIER and Z, A cleared, all else kept. -/
def movedLeaf (e pa tier : Nat) (z : Bool) : Nat :=
  e / 2 ^ 51 * 2 ^ 51 + pa + e / 2 ^ 11 % 2 * 2 ^ 11 + (if z then 2 ^ 10 else 0) + tier * 2 ^ 8 + e / 2 ^ 7 % 2 * 2 ^ 7 +
    e % 2 ^ 6

/-- The bytes of a page, whose leaf holds a PA, with its held writes applied in arrival order (R337). -/
def applyHeldWrites (pa : Nat) (held : List HeldWrite) (xs : List Byte) : List Byte :=
  held.foldl (fun xs w => applyRun xs (w.pa - pa) (0, w.op, w.bytes)) xs

/-- The posted stores that a page's home held are performed: they are counted and leave (R328, R337); a core in ERROR keeps
its list as it is (R87). -/
def State.heldDone (s : State) (m : SumpMove) : State :=
  (List.finRange 128).foldl (fun s i =>
    let mine := fun (p : Posted) => p.held && decide (p.leaf.pteAddr = m.pte)
    let c := s.coreAt i
    if c.posted.any mine ∧ !s.frozenAt i then
      let t := (c.posted.filter mine).foldl (fun t p => t.countLines p.leaf p.va.toNat p.loc p.width) s
      t.setCoreAt i { c with posted := c.posted.filter fun p => !mine p }
    else s) s

/-- A page leaves the table, which then has room for one that waits (R331). -/
def State.leaveTable (s : State) (m : SumpMove) : State := State.admitMove { s with moves := s.moves.filter fun x => x ≠ m }

/-- A move ends: the PTE is written, the page leaves the table. -/
def State.endMove (s : State) (m : SumpMove) (old new tier : Nat) (z : Bool) : State :=
  let leaf := readLE s.mem m.pte.toNat 8
  State.leaveTable { s.carryTags old new with mem := writeLE s.mem m.pte.toNat 8 (movedLeaf leaf new tier z) } m

/-- A compressed page's record is freed, and its group with the last of them. -/
def State.freeRecordOf (s : State) (leafPa : Nat) : State :=
  let g := groupOf leafPa
  let m := writeLE s.mem (g + 80 * recordOf leafPa) 8 0
  let s := { s with mem := m }
  if (usedUnits m g).isEmpty then
    { s with sumpGroups := s.sumpGroups.filter fun x => x.toNat ≠ g }.giveRing [g]
  else s

/-- A re-pack request: the other pages of the promoted page's group are re-packed (R337).
Log entry 29: DEDUCED, unsafe. -/
def State.repack (s : State) (m : SumpMove) (leafPa : Nat) : State :=
  if m.held.isEmpty then s else { s with mem := repackGroup s.mem (groupOf leafPa) }

/-- The end of a promotion: the page decoded, its held writes applied, in a free frame. -/
def State.endPromotion (s : State) (m : SumpMove) (leaf : Nat) : State :=
  let pa := bits leaf 50 12 * 4096
  match if bitN leaf 10 then readPage s.mem pa else some (readBytes s.mem pa 4096) with
  | none => (s.leaveTable m).fatal m.ctx 21 0x7F
  | some xs =>
    match s.takeFrame with
    | none => s.dropBad
    | some (f, t) =>
      let t := { t with mem := writeBytes t.mem f (applyHeldWrites pa m.held xs) }
      let t := t.endMove m pa f 0 false
      ((if bitN leaf 10 then (t.freeRecordOf pa).repack m pa else t.giveRing [pa]).heldDone m).settleInv

/-- The end of a demotion: the page encoded into a page group of the range's tier. -/
def State.endDemotion (s : State) (m : SumpMove) (leaf : Nat) : State :=
  let pa := bits leaf 50 12 * 4096
  let xs := readBytes s.mem pa 4096
  let tier := s.rangeTier m.ctx m.va.toNat
  match s.placeFor tier (pageClass (encodePage xs) * 4) with
  | none => s.dropBad
  | some ((p, st), t) =>
    let t := { t with mem := placePage t.mem p st xs }
    (t.endMove m pa p tier true).giveRing [pa]

/-- A move's copies are no longer in use: every posted access through one has been performed, but for those that the
move itself performs (R337); no reducer step of a line of the page is to come (R372).
Log entry 29: DEDUCED, unsafe. -/
def State.moveQuiet (s : State) (m : SumpMove) : Bool :=
  let pa := bits (readLE s.mem m.pte.toNat 8) 50 12
  (s.coresAndSaved.all fun p => p.2.posted.all fun x => x.held || decide (x.leaf.pteAddr ≠ m.pte)) &&
    s.redsteps.all fun r => r.lines.all fun l => decide (l.1.toNat / 4096 ≠ pa)

end Sys2Proof.Machine
end

