-- ==== Sys2Proof/Machine/Mailbox.lean ====
section
/-! DEFINITION. Machine/Mailbox.lean: context records, the mailbox commands, drains and their ends, resume and
retirement (R80 to R87, R99 to R101, R265, R287, R295, R320, R361, R362). -/

namespace Sys2Proof.Machine

/-! ## Completions (R86, R361, R362) -/

/-- The number of a state in the order of R83. -/
def CtxState.code : CtxState → Nat
  | .free => 0 | .loaded => 1 | .runnable => 2 | .running => 3 | .faultWait => 4 | .draining => 5 | .saved => 6
  | .trapped => 7 | .error => 8 | .retired => 9

/-- The state of an identity as a completion reports it. -/
def State.stateCode (s : State) (id : CtxId) : Nat :=
  match s.slotOf id with
  | some k => s.ctxs[k].state.code
  | none => if s.ctxs.toList.any fun x => x.ctxid = id ∧ x.state = .retired then 9 else 0

/-- The completion that waits is written when its ring has room. -/
def State.flushCompletion (s : State) : State :=
  match s.mailbox.completion with
  | none => s
  | some (w0, w1) =>
    let r := s.regs
    let log := ringLog (r.mcbase.toNat % 32) 12
    if (r.mcwr - r.mcrd).toNat < 2 ^ log then
      let a := bits r.mcbase.toNat 50 12 * 4096 + 16 * (r.mcwr.toNat % 2 ^ log)
      { s with
        mem := writeLE (writeLE s.mem a 8 w0.toNat) (a + 8) 8 w1.toNat
        regs := { r with mcwr := r.mcwr + 1 }
        mailbox := { s.mailbox with completion := none } }
    else s

/-- A command completes with a status: 0 OK, 1 NOCTX, 2 EXISTS, 3 STATE, 4 FULL. -/
def State.complete (s : State) (status : Nat) (id : CtxId) (cookie : DWord) : State :=
  let w1 := status + s.stateCode id * 256 + (s.regs.mqcons.toNat + 2 ^ 64 - 1) % 2 ^ 48 * 65536
  State.flushCompletion { s with mailbox := { busy := none, completion := some (cookie, BitVec.ofNat 64 w1) } }

/-- The device may take a command: no earlier one waits, no completion waits. -/
def State.mailboxFree (s : State) : Bool := s.mailbox.busy.isNone && s.mailbox.completion.isNone

/-- The device takes a command, which the host posts now unless it already stands in the ring.
Log entry 30: DESIGN CHOICE, unsafe. -/
def State.takeCommand (s : State) : State :=
  let r := s.regs
  { s with regs := { r with
      mqprod := if r.mqprod = r.mqcons then r.mqprod + 1 else r.mqprod
      mqcons := r.mqcons + 1 } }

/-- A command is taken and done when the mailbox is free; a non-zero reserved field refuses it (R361). -/
def State.command (s : State) (ok : Bool) (id : CtxId) (cookie : DWord) (f : State → State) : State :=
  if !s.mailboxFree then s
  else
    let s := s.takeCommand
    if ok then f s else s.complete 3 id cookie

/-! ## CREATE (R81, R85, R265, R365, R366) -/

/-- Bits h to l of a record's word at an offset. -/
def recBits (b off h l : Nat) : Nat := bits b (8 * off + h) (8 * off + l)

/-- A context record that keeps R81 and holds its CTXID. -/
def recordOk (b : Nat) (id : CtxId) : Bool :=
  decide (id ≠ 0) && decide (recBits b 0 15 0 = id.toNat) && decide (recBits b 0 31 27 = 0) &&
    decide (recBits b 0 63 48 = 0) && decide (recBits b 8 11 0 = 0) && decide (recBits b 8 63 51 = 0) &&
    decide (recBits b 0x18 21 0 = 0) && decide (recBits b 0x18 63 57 = 0) && decide (recBits b 0x58 63 12 = 0) &&
    decide (recBits b 0x88 15 12 = 0) && decide (recBits b 0x88 63 28 = 0) && decide (recBits b 0x80 15 12 = 0) &&
    decide (recBits b 0x80 63 28 = 0) && decide (recBits b 0x90 7 5 = 0) && decide (recBits b 0x90 63 14 = 0) &&
    decide (bits b 2047 (8 * 0x98) = 0)

/-- The context of a record (R81).
Log entry 44: DESIGN CHOICE, unsafe. -/
def loadContext (b : Nat) (pa : Nat) : Context :=
  let w := fun off => bits b (8 * off + 63) (8 * off)
  { Context.free with
    state := .loaded
    ctxid := BitVec.ofNat 16 (w 0)
    prio := BitVec.ofNat 8 (recBits b 0 23 16)
    cls := BitVec.ofNat 2 (recBits b 0 25 24)
    priv := bitN b 26
    record := BitVec.ofNat 51 pa
    ptroot := BitVec.ofNat 51 (w 8)
    seed := BitVec.ofNat 64 (w 0x10)
    image := BitVec.ofNat 57 (w 0x18)
    cores := BitVec.ofNat 128 (bits b 383 256)
    ev := BitVec.ofNat 256 (bits b 639 384)
    shapes := BitVec.ofNat 57 (w 0x50)
    shapen := recBits b 0x58 11 0
    scalemap := BitVec.ofNat 57 (w 0x60)
    codebooks := BitVec.ofNat 57 (w 0x68)
    spillq := BitVec.ofNat 57 (w 0x70)
    spilln := w 0x78
    qpBase := recBits b 0x80 11 0
    qpCount := recBits b 0x80 27 16
    cnBase := recBits b 0x88 11 0
    cnCount := recBits b 0x88 27 16
    chBase := recBits b 0x90 4 0
    chCount := recBits b 0x90 13 8 }

/-- The queue pairs and counters of a context at their first values. -/
def State.clearLinks (s : State) (x : Context) : State :=
  { s with
    qps := s.qps.filter fun p => !(decide (x.qpBase ≤ p.1) && decide (p.1 < x.qpBase + x.qpCount))
    counters := s.counters.filter fun p => !(decide (x.cnBase ≤ p.1) && decide (p.1 < x.cnBase + x.cnCount)) }

/-- The n bytes from a physical address lie in memory. -/
def State.inMemory (s : State) (pa n : Nat) : Bool := (List.range 4).any fun t => s.inTier t pa n

/-- CREATE (R81, R85). A record whose 256 bytes do not lie in one memory range is refused with STATE.
Log entry 31: DEDUCED, unsafe. Log entry 47: DESIGN CHOICE, unsafe. -/
def State.create (s : State) (id : CtxId) (arg cookie : DWord) : State :=
  if (s.slotOf id).isSome then s.complete 2 id cookie
  else
    match (List.finRange 16).find? fun k => s.ctxs[k].state = .free ∨ s.ctxs[k].state = .retired with
    | none => s.complete 4 id cookie
    | some k =>
      let pa := arg.toNat
      let b := readLE s.mem pa 256
      if pa % 256 ≠ 0 ∨ !s.inMemory pa 256 ∨ !recordOk b id then s.complete 3 id cookie
      else
        let x := loadContext b pa
        State.complete ({ s with ctxs := s.ctxs.set k { x with dgctl := s.ctxs[k].dgctl } }.clearLinks x) 0 id cookie

/-- CREATE (R85). -/
def execCreate (ctx : CtxId) (arg cookie : DWord) (s : State) : Host.Outcome State Fault Refusal :=
  .next (s.command true ctx cookie fun s => s.create ctx arg cookie)

/-! ## BIND (R85, R320) -/

/-- A page walks to a leaf with a permission. -/
def State.granted (s : State) (id : CtxId) (va : Nat) (w : Bool) : Bool :=
  match { s with moves := [] }.walk id va with
  | .leaf e => e.leaf.getLsbD 3 && (!w || e.leaf.getLsbD 4)
  | _ => false

/-- The areas of a context are validated. -/
def State.validated (s : State) (x : Context) : Bool :=
  let ok := fun (va : BitVec 57) w => s.granted x.ctxid va.toNat w
  ok x.image true && ok x.scalemap false && (x.shapen == 0 || ok x.shapes false) &&
    (x.codebooks == 0 || ok x.codebooks false) && (x.spilln == 0 || ok x.spillq true)

/-- A scale-map register from its image. -/
def smapOfImage (b : Nat) : SmapEntry where
  valid := bitN b 192
  dbase := BitVec.ofNat 57 (bits b 56 0)
  dlimit := BitVec.ofNat 57 (bits b 120 64)
  sbase := BitVec.ofNat 57 (bits b 184 128)
  g := BitVec.ofNat 2 (bits b 194 193)
  cb := BitVec.ofNat 6 (bits b 202 197)

/-- An image keeps R320 by itself. -/
def smapOk (b : Nat) : Bool :=
  !bitN b 192 || (decide (bits b 56 0 < bits b 120 64) && decide (bits b 56 0 % 4096 = 0) &&
    decide (bits b 120 64 % 4096 = 0) &&
    decide (bits b 128 128 = 0) && decide (bits b 194 193 ≠ 0) && decide (bits b 196 195 = 0) &&
    decide (bits b 63 57 = 0) && decide (bits b 127 121 = 0) && decide (bits b 191 185 = 0) && decide (bits b 255 203 = 0))

/-- The scale map of a context read and checked; none is the fatal event of code 0x82. -/
def State.loadSmap (s : State) (id : CtxId) : Option State :=
  let x := s.ctxOf id
  match deviceRead id x.scalemap.toNat 2048 s with
  | .ok (bs, t) =>
    let imgs := (List.range 64).map fun k => leNat ((bs.drop (32 * k)).take 32)
    let es := imgs.map smapOfImage
    let vs := es.filter (·.valid)
    if imgs.all smapOk && allPairs (fun a b => !meet (a.dbase.toNat, a.dlimit.toNat) (b.dbase.toNat, b.dlimit.toNat)) vs then
      some (t.modCtx id fun x => { x with smap := es })
    else none
  | .error _ => none

/-- BIND (R85).
Log entry 32: DEDUCED, unsafe. -/
def State.bind (s : State) (id : CtxId) (cookie : DWord) : State :=
  match s.slotOf id with
  | none => s.complete 1 id cookie
  | some k =>
    if s.ctxs[k].state ≠ .loaded then s.complete 3 id cookie
    else if !s.validated s.ctxs[k] then (s.fatal id 0x80 0x7F).complete 0 id cookie
    else
      match s.loadSmap id with
      | none => (s.fatal id 0x82 0x7F).complete 0 id cookie
      | some t => (t.modCtx id fun x => { x with state := .runnable }).complete 0 id cookie

/-- BIND (R85). -/
def execBind (ctx : CtxId) (arg cookie : DWord) (s : State) : Host.Outcome State Fault Refusal :=
  .next (s.command (arg == 0) ctx cookie fun s => s.bind ctx cookie)

/-! ## LAUNCH (R85, R287) -/

/-- The record of a LAUNCH and its descriptor: read as device reads. -/
def hostRecord (id : CtxId) (va : Nat) : M (Nat × Option Nat) := do
  let b ← deviceNat id va 128
  let d ← kernelLookup id (parseLaunch b).khandle
  pure (b, d)

/-- LAUNCH of a context that may take one; a page that is not there makes the command, and the mailbox behind it,
wait. -/
def State.launchRecord (s : State) (id : CtxId) (arg cookie : DWord) : State :=
  let s := s.clearPath .mailbox
  let wait := fun (s : State) => { s with mailbox := { s.mailbox with busy := some (.launch, id, arg, cookie) } }
  if arg.toNat % 64 ≠ 0 ∨ (s.ctxOf id).state = .error then s.complete 3 id cookie
  else
    match hostRecord id arg.toNat s with
    | .error (.notPresent va acc, _) => wait (s.stopPkg .mailbox id va acc 3 0x7F 0 false)
    | .error (.migrating va acc, _) => wait (s.stopPkg .mailbox id va acc 3 0x7F 0 true)
    | .error (.fatal code, _) => (s.fatal id code 0x7F).complete 3 id cookie
    | .error (.trap .ecc _, _) => (s.fatal id 21 0x7F).complete 3 id cookie
    | .error _ => s.complete 3 id cookie
    | .ok ((b, d), t) =>
      match d with
      | none => t.complete 3 id cookie
      | some desc =>
        if (launchRefusal b t.ncore (t.ctxOf id).cores false).isSome then t.complete 3 id cookie
        else
          match t.submit {
            ctx := id, record := parseLaunch b, depth := 0, copy := none, desc := BitVec.ofNat 57 desc, ready := none
            reserve := false, pick := none } with
          | some u => u.complete 0 id cookie
          | none => t.complete 4 id cookie

/-- LAUNCH (R85).
Log entry 33: DEDUCED, unsafe. -/
def State.hostLaunch (s : State) (id : CtxId) (arg cookie : DWord) : State :=
  match s.slotOf id with
  | none => s.complete 1 id cookie
  | some k =>
    if s.ctxs[k].state = .loaded ∨ s.ctxs[k].state = .error then s.complete 3 id cookie
    else s.launchRecord id arg cookie

/-- LAUNCH (R85). -/
def execHostLaunch (ctx : CtxId) (arg cookie : DWord) (s : State) : Host.Outcome State Fault Refusal :=
  .next (s.command true ctx cookie fun s => s.hostLaunch ctx arg cookie)

/-! ## SETPRIO (R82, R85) -/

/-- SETPRIO (R85).
Log entry 89: DEDUCED, unsafe. -/
def State.setprio (s : State) (id : CtxId) (arg cookie : DWord) : State :=
  match s.slotOf id with
  | none => s.complete 1 id cookie
  | some k =>
    if s.ctxs[k].state = .error then s.complete 3 id cookie
    else (s.modCtx id fun x => { x with prio := BitVec.ofNat 8 arg.toNat }).complete 0 id cookie

/-- SETPRIO (R85). -/
def execSetprio (ctx : CtxId) (arg cookie : DWord) (s : State) : Host.Outcome State Fault Refusal :=
  .next (s.command (decide (arg.toNat < 256)) ctx cookie fun s => s.setprio ctx arg cookie)

/-! ## Retirement (R81, R85) -/

/-- The slots of a context's groups. -/
def State.slotsOf (s : State) (id : CtxId) : List Nat :=
  s.groups.toList.zipIdx.filterMap fun (g, k) => match g with
    | some g => if g.ctx = id then some k else none
    | none => none

/-- RETIRED: every object of the context is discarded and its final status written (R81, R85).
Log entry 34: DEDUCED, unsafe. -/
def State.retireCtx (s : State) (id : CtxId) : State :=
  let x := s.ctxOf id
  let slots := s.slotsOf id
  let cores := s.coresOf id
  let s := cores.foldl (fun s i => (s.releaseLease i).setCoreAt i (s.coreAt i).vacate) s
  let s := (s.discardStash id).unbindWeir id
  let s := (slots.foldl (fun s k => s.setGroup k none) s).clearLinks x
  let s := { s with
    pool := s.pool.filter fun r => r.ctx ≠ id
    signals := s.signals.filter fun g => !slots.contains g.slot
    decrements := s.decrements.filter fun d => !slots.contains d.slot
    paths := s.paths.filter fun p => p.2.1 ≠ id
    tlb := s.tlb.filter fun e => e.ctx ≠ id
    tables := s.tables.filter fun e => e.ctx ≠ id
    hints := s.hints.filter fun h => h.1 ≠ id
    mem := writeLE s.mem (x.record.toNat + 4) 2 x.status.toNat }
  let s := s.modCtx id fun x => { Context.free with
    state := .retired, ctxid := id, ktbase := x.ktbase, ktlen := x.ktlen, dgctl := x.dgctl, dg := x.dg }
  (State.submitHeld s.weir.held.length (State.refill 544 s)).dispatchAll

/-! ## Drains (R83, R85, R99, R295) -/

/-- A drain ends when the collector holds every acknowledgement. -/
def State.endDrain (s : State) (id : CtxId) : State :=
  let x := s.ctxOf id
  if x.state ≠ .draining ∨ !x.awaiting.isEmpty then s
  else
    match x.drain with
    | .save => s.modCtx id fun x => { x with state := .saved }
    | .trap => s.modCtx id fun x => { x with state := .trapped }
    | .destroy => s.retireCtx id

/-- Drains that have every acknowledgement end; the PREEMPT or DESTROY that waits for one completes (R85). -/
def State.settleDrains (s : State) : State :=
  let s := s.ctxs.toList.foldl (fun s x => if x.state = .draining then s.endDrain x.ctxid else s) s
  match s.mailbox.busy with
  | some (op, id, _, cookie) =>
    if (op = .preempt ∨ op = .destroy) ∧ (s.ctxOf id).state ≠ .draining then s.complete 0 id cookie else s
  | none => s

/-- A PREEMPT or DESTROY waits for the drain of its context. -/
def State.awaitDrain (s : State) (op : MbOp) (id : CtxId) (cookie : DWord) : State :=
  State.settleDrains { s with mailbox := { s.mailbox with busy := some (op, id, 0, cookie) } }

/-- PREEMPT (R85). -/
def State.preempt (s : State) (id : CtxId) (cookie : DWord) : State :=
  match s.slotOf id with
  | none => s.complete 1 id cookie
  | some k =>
    match s.ctxs[k].state with
    | .runnable => (s.modCtx id fun x => { x with state := .saved }).complete 0 id cookie
    | .running | .faultWait => ((s.startDrain id .save).dispatchAll).awaitDrain .preempt id cookie
    | .draining => s.awaitDrain .preempt id cookie
    | .saved | .trapped => s.complete 0 id cookie
    | _ => s.complete 3 id cookie

/-- PREEMPT (R85). -/
def execPreempt (ctx : CtxId) (arg cookie : DWord) (s : State) : Host.Outcome State Fault Refusal :=
  .next (s.command (arg == 0) ctx cookie fun s => s.preempt ctx cookie)

/-- DESTROY (R85). -/
def State.destroy (s : State) (id : CtxId) (cookie : DWord) : State :=
  match s.slotOf id with
  | none => s.complete 1 id cookie
  | some k =>
    match s.ctxs[k].state with
    | .running | .faultWait => ((s.startDrain id .destroy).dispatchAll).awaitDrain .destroy id cookie
    | .draining => (s.modCtx id fun x => { x with drain := .destroy }).awaitDrain .destroy id cookie
    | _ => (s.retireCtx id).complete 0 id cookie

/-- DESTROY (R85). -/
def execDestroy (ctx : CtxId) (arg cookie : DWord) (s : State) : Host.Outcome State Fault Refusal :=
  .next (s.command (arg == 0) ctx cookie fun s => s.destroy ctx cookie)

/-! ## The acknowledgement of a core (R99, R100) -/

/-- Every barrier operation of the context has been performed at its home, and none will be sent: each of its cores
stands at its stop points, with no copy under way that owes a count (R310). -/
def State.barriersQuiet (s : State) (id : CtxId) : Bool :=
  let slots := s.slotsOf id
  (s.decrements.all fun d => !slots.contains d.slot) && (s.coresOf id).all fun i =>
    let c := s.coreAt i
    s.canCut i && ((c.vq ++ c.mq ++ c.cq).all fun x => x.phase == .waiting || x.barrier.isNone) &&
      c.barHeld.all fun o => match o.kind with
        | .decIn | .decOut => false
        | _ => true

/-- The collector has a core's acknowledgement; the core is empty of the job, which stays assigned to it until RESUME or
RETIRED, whatever the drain's reason (R294, R296).
Log entry 35: DEDUCED, unsafe. -/
def State.acknowledge (s : State) (i : Fin 128) (id : CtxId) : State :=
  let c := s.coreAt i
  let job := c.job.map fun j => { j with preempted := true, stopping := false }
  let s := s.modCtx id fun x => { x with
    awaiting := x.awaiting.filter fun k => k ≠ i
    saved := x.saved ++ [(i, { c with job := job })] }
  (s.setCoreAt i c.vacate).settleDrains

/-- CORE_ACKNOWLEDGE (R99): a fault that the cut meets is taken first; the core cuts, waits until the barrier operations
of the context are performed (R310), writes its image unless the reason is DESTROY, and acknowledges. A page fault of the
save area is the fatal event of code 5 (R87); a page under way delays the image. -/
def State.coreAck (s : State) (i : Fin 128) : State :=
  match (s.coreAt i).job with
  | none => s
  | some j =>
    let id := j.ctx
    let x := s.ctxOf id
    if x.state ≠ .draining ∨ !x.awaiting.contains i ∨ !s.canCut i then s
    else
      match (s.coreAt i).pendingTrap with
      | some f => s.trapEntry i f.2.1 f.2.2.1 (queueCode f.1) f.2.2.2
      | none =>
        let t := s.cut i .stop
        if !t.barriersQuiet id then t
        else if x.drain = .destroy then t.acknowledge i id
        else
          -- an image is written once no home holds a write of it (R337)
          let held := fun (u : State) => u.pageHolds id (u.imageBase id i) (u.imageBase id i + 0x400000)
          if held t then t
          else match saveImage i { t with cur := i } with
          | .ok (_, u) => if held u then { u with cur := s.cur } else { u with cur := s.cur }.acknowledge i id
          | .error (.migrating _ _, _) => t
          | .error (.fatal code, _) => (s.fatal id code i.val).settleDrains
          | .error (.trap .ecc _, _) => (s.fatal id 21 i.val).settleDrains
          | .error _ => (s.fatal id 5 i.val).settleDrains

/-- CORE_ACKNOWLEDGE (R99). -/
def execCoreAcknowledge (c : Nat) (s : State) : Host.Outcome State Fault Refusal := .next (s.coreAck (coreIx c))

end Sys2Proof.Machine
end

