-- ==== Sys2Proof/Machine/Replay.lean ====
section
/-! DEFINITION. Machine/Replay.lean: the paths that wait on pages: REPLAY and its ABORT, RESUME, and the end of a page
move (R101, R322, R323, R326, R327, R331). -/

namespace Sys2Proof.Machine

/-! ## Paths of the package -/

/-- The access of a stopped path of the package: a delivery writes, the others read. -/
def PkgPath.acc : PkgPath → BitVec 2
  | .qpDelivery _ | .culvert _ => 1
  | _ => 0

/-- The fault-buffer entry of a page and access waits to be written: its paths stay stopped (R324). -/
def State.entryWaits (s : State) (id : CtxId) (va : Nat) (acc : BitVec 2) : Bool :=
  s.faults.any fun e => decide (bits e.w1.toNat 21 0 = id.toNat + acc.toNat * 2 ^ 20) &&
    decide (e.w0.toNat / 4096 = va / 4096)

/-- A path of the package on which a REPLAY acts: it is stopped on NOT_PRESENT and its entry is written. -/
def State.replayed (s : State) (p : PkgPath) (id : CtxId) (va : BitVec 57) (migrating : Bool) : Bool :=
  !migrating && !s.entryWaits id va.toNat p.acc

/-- The paths of a context that a condition on path, VA and migrating selects translate again: those of the package go
on, or stop again (R323, R327). -/
def State.retryPkg (s : State) (id : CtxId) (p : PkgPath → BitVec 57 → Bool → Bool) : State :=
  let hit := s.paths.filter fun e => e.2.1 = id ∧ p e.1 e.2.2.1 e.2.2.2
  let free := fun (s : State) (e : PkgPath × CtxId × BitVec 57 × Bool) => { s with paths := s.paths.erase e }
  hit.foldl (fun s e =>
    match e.1 with
    | .dispatch _ => (free s e).dispatchAll
    | .mailbox =>
      match s.mailbox.busy with
      | some (.launch, id, arg, cookie) => (free s e).launchRecord id arg cookie
      | _ => free s e
    | .qpSource qp => (free s e).entrySend qp.toNat
    | .qpDelivery n =>
      match (s.qp n.toNat).waiting with
      | some m => (free s e).qpDeliver m
      | none => free s e
    | .culvert n =>
      let s := free s e
      match (s.chan n).waiting with
      | some m => s.culvertDeliver n m
      | none => s) s

/-- On ABORT the paths of the package that a condition selects end as on a precise outcome; a dispatch path translates
again (R327). -/
def State.abortPkg (s : State) (id : CtxId) (p : PkgPath → BitVec 57 → Bool → Bool) : State :=
  let hit := s.paths.filter fun e => e.2.1 = id ∧ p e.1 e.2.2.1 e.2.2.2
  let free := fun (s : State) (e : PkgPath × CtxId × BitVec 57 × Bool) => { s with paths := s.paths.erase e }
  hit.foldl (fun s e =>
    match e.1 with
    | .dispatch _ => (free s e).dispatchAll
    | .mailbox =>
      match s.mailbox.busy with
      | some (.launch, id, _, cookie) => (free s e).complete 3 id cookie
      | _ => free s e
    | .qpSource qp => (free s e).qpError qp.toNat
    | .qpDelivery n =>
      match (s.qp n.toNat).waiting with
      | some m => (free s e).refuseQp m
      | none => free s e
    | .culvert n =>
      let s := free s e
      match (s.chan n).waiting with
      | some m => s.refuseCulvert n m
      | none => s) s

/-! ## Paths of the cores -/

/-- The PATH code of a core's stopped C command (R325). -/
def Core.cPath (c : Core) (iseq : Word) : Nat :=
  match (c.cq ++ c.parked.map (·.cmd)).find? fun x => x.iseq = iseq with
  | some x => match x.instr with
    | .cstash _ _ _ _ | .cfetch _ _ _ _ => 5
    | _ => 2
  | none => 2

/-- A stop that stands, is translated again, or is gone: a page still absent is reported again (R326, R327). -/
def State.replayStop (s : State) (id : CtxId) (lidx slot path : Nat) (o : Option PathStop) : State × Option PathStop :=
  match o with
  | none => (s, none)
  | some p =>
    if p.migrating || s.entryWaits id p.va.toNat p.acc then (s, o)
    else
      match s.walk id p.va.toNat with
      | .absent => (s.reportAbsent id p.va p.acc path lidx slot p.iseq, o)
      | _ => (s, none)

/-- The stopped paths of a core translate again. -/
def State.replayPaths (s : State) (id : CtxId) (i : Fin 128) (c : Core) : State × Core :=
  let cp := c.cPath ((c.cStop.map (·.iseq)).getD 0)
  let (s, a) := s.replayStop id i.val c.jobSlot 0 c.sStop
  let (s, b) := s.replayStop id i.val c.jobSlot 1 c.mStop
  let (s, d) := s.replayStop id i.val c.jobSlot cp c.cStop
  (s, { c with sStop := a, mStop := b, cStop := d })

/-- The stopped paths of a core in its place. -/
def State.replayCore (s : State) (id : CtxId) (i : Fin 128) : State :=
  let (t, c) := s.replayPaths id i (s.coreAt i)
  t.setCoreAt i c

/-- A saved core in its context's list changes. -/
def State.setSaved (s : State) (id : CtxId) (i : Fin 128) (c : Core) : State :=
  s.modCtx id fun x => { x with saved := x.saved.map fun p => if p.1 = i then (i, c) else p }

/-- No pair of a context is outstanding any more (R326). -/
def State.clearOutstanding (s : State) (id : CtxId) : State := s.modCtx id fun x => { x with outstanding := [] }

/-- REPLAY performed: the pairs are no longer outstanding, every path stopped on NOT_PRESENT translates again (R326,
R327), also those of the cores that have acknowledged a drain that goes on. -/
def State.performReplay (s : State) (id : CtxId) : State :=
  let s := (s.clearOutstanding id).modCtx id fun x => { x with replayRecorded := false }
  let s := (s.coresOf id).foldl (fun s i => s.replayCore id i) s
  let s := (s.ctxOf id).saved.foldl (fun s p =>
    let (s, c) := s.replayPaths id p.1 p.2
    s.setSaved id p.1 c) s
  (s.retryPkg id fun p va mig => s.replayed p id va mig).refreshWait id

/-- The context is stopped in the save area. -/
def CtxState.saved_ : CtxState → Bool
  | .saved | .trapped => true
  | _ => false

/-- The path on which a LAUNCH of the mailbox waits: it is the mailbox's, so it goes on whatever its context's state
(R287). -/
def PkgPath.isMailbox (p : PkgPath) : Bool := decide (p = .mailbox)

/-- A REPLAY (R327): `perform` it on the paths that `act` on; of a context that is SAVED or TRAPPED it is recorded, and
only a waiting LAUNCH goes on; in ERROR the cores stay in place and a waiting LAUNCH is refused STATE (R85, R87); of no
live context it has no effect.
Log entry 39: DEDUCED, unsafe. -/
def State.replay (s : State) (id : CtxId) (pkg : State → (PkgPath → BitVec 57 → Bool → Bool) → State)
    (perform : State → State) : State :=
  match s.slotOf id with
  | none => s
  | some k =>
    match s.ctxs[k].state with
    | .saved | .trapped =>
      pkg (s.modCtx id fun x => { x with replayRecorded := true }) fun p va mig => p.isMailbox && s.replayed p id va mig
    | .error => pkg s fun p _ mig => p.isMailbox && !mig
    | _ => perform s

/-- REPLAY (R327). -/
def execReplay (ctx : CtxId) (s : State) : Host.Outcome State Fault Refusal :=
  .next (s.replay ctx (fun s p => s.retryPkg ctx p) fun s => s.performReplay ctx)

/-- A path stopped on NOT_PRESENT, whose entry is written, faults PAGE of kind 0 at its restart point (R327). -/
def Core.abortStop (c : Core) (gone : Option PathStop → Bool) (q : Option Eng) (o : Option PathStop) : Core :=
  match o with
  | none => c
  | some p =>
    if !gone o then c
    else
      let c := match q with
        | some e => (if e = Eng.c then c.abortGroup else c).markFault e p.iseq
        | none => c
      c.later q .page (pageInfo p.va.toNat 0 (p.acc == 1)) p.iseq

/-- The stopped paths of a core fault. -/
def Core.abortPaths (c : Core) (gone : Option PathStop → Bool) : Core :=
  let c := ((c.abortStop gone none c.sStop).abortStop gone (some .m) c.mStop).abortStop gone (some .c) c.cStop
  let keep := fun (o : Option PathStop) => if gone o then none else o
  { c with sStop := keep c.sStop, mStop := keep c.mStop, cStop := keep c.cStop }

/-- The stops that a REPLAY acts on. -/
def State.gone (s : State) (id : CtxId) (o : Option PathStop) : Bool :=
  o.any fun p => !p.migrating && !s.entryWaits id p.va.toNat p.acc

/-- REPLAY with ABORT performed (R327); a core that has acknowledged a drain that goes on takes its traps after
RESUME. -/
def State.performAbort (s : State) (id : CtxId) : State :=
  let t := (s.clearOutstanding id).abortPkg id fun p va mig => s.replayed p id va mig
  let t := (t.coresOf id).foldl (fun t i => t.setCoreAt i ((t.coreAt i).abortPaths (s.gone id))) t
  let t := t.modCtx id fun x => { x with saved := x.saved.map fun p =>
    (p.1, ((p.2.unpark fun b => b == .stop).abortPaths (s.gone id)).park .stop) }
  t.refreshWait id

/-- REPLAY_ABORT (R327). -/
def execReplayAbort (ctx : CtxId) (s : State) : Host.Outcome State Fault Refusal :=
  .next (s.replay ctx (fun s p => s.abortPkg ctx p) fun s => s.performAbort ctx)

/-! ## RESUME (R85, R101) -/

/-- The images of a context's saved jobs; else the code and core of the fatal event, or none where a page of the save area
is under way. -/
def State.loadImages (s : State) (id : CtxId) :
    List (Fin 128 × Core) → Except (Option (Byte × Nat)) (State × List (Fin 128 × Core))
  | [] => .ok (s, [])
  | (i, c) :: rest =>
    match loadCore id i c s with
    | .ok (some c', t) =>
      match State.loadImages t id rest with
      | .ok (u, cs) => .ok (u, (i, c') :: cs)
      | .error e => .error e
    | .ok (none, _) => .error (some (0x81, i.val))
    | .error (.migrating _ _, _) => .error none
    | .error (.fatal code, _) => .error (some (code, i.val))
    | .error (.trap .ecc _, _) => .error (some (21, i.val))
    | .error _ => .error (some (5, i.val))

/-- A restored job goes on: what a stop's cut parked returns, and outside a handler all that is parked; TQUEUE.SKIP, which
R94 applies at `eret`, discards nothing here (R101, R166). A trap that an ABORT has given it stands before its next bundle
(R327).
Log entry 118: DEDUCED, unsafe. -/
def Core.goOn (c : Core) : Core :=
  let active := c.sr.active
  let c := c.unpark fun b => !active || b == .stop
  let c := match c.pendingTrap with
    | some (some e, _, _, n) => c.markFault e n
    | _ => c
  let awake := fun (o : Option PathStop) => o.filter fun p => !p.migrating
  { c with
    sStop := awake c.sStop, mStop := awake c.mStop, cStop := awake c.cStop
    head := .issuing, issue := .none_
    job := c.job.map fun j => { j with preempted := false, stopping := false, escalated := false } }

/-- A restored core put in its place, which keeps its own debug registers and counters. -/
def State.placeCore (s : State) (i : Fin 128) (c : Core) : State :=
  let old := s.coreAt i
  s.setCoreAt i { c.goOn with
    debug := old.debug, dbgCtx := old.dbgCtx, dbgArm := old.dbgArm, dbgStopCtx := old.dbgStopCtx, perf := old.perf, stalls := old.stalls }

/-- The signals held for a job are applied in arrival order before its first bundle (R147). -/
def State.heldSignals : Nat → Nat → State → State
  | 0, _, s => s
  | n + 1, k, s =>
    let t := s.signalArrival k
    State.heldSignals n (if t.signals.length < s.signals.length then k else k + 1) t

/-- RESUME (R85, R101, R320); a page of the save area that is under way makes the command wait. The scale map is loaded
first, then the images in the order in which they were saved: the first failure is the fatal event.
Log entry 68: DEDUCED, safe. Log entry 119: DESIGN CHOICE, unsafe. -/
def State.resume (s : State) (id : CtxId) (cookie : DWord) : State :=
  match s.slotOf id with
  | none => s.complete 1 id cookie
  | some k =>
    let x := s.ctxs[k]
    if !x.state.saved_ then s.complete 3 id cookie
    else
      match s.loadSmap id with
      | none => (s.fatal id 0x82 0x7F).complete 0 id cookie
      | some t =>
        match t.loadImages id x.saved with
        | .error none => { s with mailbox := { s.mailbox with busy := some (.resume, id, 0, cookie) } }
        | .error (some (code, l)) => (t.fatal id code l).complete 0 id cookie
        | .ok (t, cs) =>
          let t := cs.foldl (fun t p => t.placeCore p.1 p.2) t
          let t := t.modCtx id fun x => { x with
            saved := [], quiet := false, state := if t.unretired id then .running else .runnable }
          let t := (State.heldSignals t.signals.length 0 t).fireWatches id
          let t := if x.replayRecorded then t.performReplay id else t
          let t := (t.retryPkg id fun _ _ mig => mig).refreshWait id
          t.dispatchAll.complete 0 id cookie

/-- RESUME (R85). -/
def execResume (ctx : CtxId) (arg cookie : DWord) (s : State) : Host.Outcome State Fault Refusal :=
  .next (s.command (arg == 0) ctx cookie fun s => s.resume ctx cookie)

/-! ## The end of a page move (R331) -/

/-- An address of a context translates to a page that moves. -/
def State.moving (s : State) (id : CtxId) (va : BitVec 57) : Bool :=
  match s.walk id va.toNat with
  | .migrating => true
  | _ => false

/-- The stops on MIGRATING of a context whose page no longer moves are gone. -/
def Core.wake (c : Core) (moving : BitVec 57 → Bool) : Core :=
  let keep := fun (o : Option PathStop) => o.filter fun p => !p.migrating || moving p.va
  { c with sStop := keep c.sStop, mStop := keep c.mStop, cStop := keep c.cStop }

/-- The paths of a context stopped on MIGRATING translate again (R331); in ERROR its cores stay in place (R87). -/
def State.wakePaths (s : State) (id : CtxId) : State :=
  if (s.ctxOf id).state = .error then s
  else
    let t := (s.coresOf id).foldl (fun t i => t.setCoreAt i ((t.coreAt i).wake (s.moving id))) s
    (t.retryPkg id fun _ va mig => mig && !s.moving id va).refreshWait id

/-- Every path stopped on MIGRATING translates again, whatever its context, a RESUME that waits for a page among them; the
deliveries whose last write the move has performed go on (R331, R337). -/
def State.afterMove (s : State) : State :=
  let s := (List.finRange 16).foldl (fun (s : State) k => s.wakePaths s.ctxs[k].ctxid) s
  let s := s.qps.foldl (fun s q => s.settleQp q.1) s
  let s := (List.range 32).foldl (fun s n => s.settleCulvert (BitVec.ofNat 5 n)) s
  match s.mailbox.busy with
  | some (.resume, id, _, cookie) => s.resume id cookie
  | _ => s

/-- SUMP_MOVE_COMPLETE (R331): no line is staged, no copy is in use; the page is moved and the PTE written as one
act. -/
def State.moveComplete (s : State) (k : Nat) : State :=
  match s.moves[k]? with
  | none => s
  | some m =>
    let leaf := readLE s.mem m.pte.toNat 8
    if !m.entered ∨ !s.moveQuiet m ∨ s.pageStaged (bits leaf 50 12 * 4096) then s
    else
      let t := if m.promote then s.endPromotion m leaf else s.endDemotion m leaf
      if t.moves = s.moves then t else t.afterMove

/-- SUMP_MOVE_COMPLETE (R331). -/
def execSumpMoveComplete (k : Nat) (s : State) : Host.Outcome State Fault Refusal := .next (s.moveComplete k)

end Sys2Proof.Machine
end

