-- ==== Sys2Proof/Machine/Debug.lean ====
section
/-! DEFINITION. Machine/Debug.lean: debug stops, the aperture's writes, trace samples, performance counters, freeze, and
the trace and digest words (R437 to R451). -/

namespace Sys2Proof.Machine

/-! ## trc.mark, dig.rd, dig.clr (R446, R451) -/

/-- `trc.mark` (R446). -/
def execTrcMark (a : XReg) (s : State) : Host.Outcome State Fault Refusal :=
  runS (do
    let v ← getX a
    modS fun s => s.trace 1 s.cur.val s.curCtx s.core.iseq v s.core.pc
    advance) s

/-- No other group of the context is in a state from PENDING to DRAINING. -/
def soleGroup : M Unit := do
  let s ← getS
  trapIf (!(s.otherRecords s.curCtx s.core.jobSlot).isEmpty) .conflict 0

/-- `dig.rd` (R451). -/
def execDigRd (d : XReg) (w : BitVec 2) (s : State) : Host.Outcome State Fault Refusal :=
  runS (do
    soleGroup
    setX d (BitVec.ofNat 64 (fieldNat 64 w.toNat (← getCtx).dg.toNat))
    advance) s

/-- `dig.clr` (R451). -/
def execDigClr (s : State) : Host.Outcome State Fault Refusal :=
  runS (do
    soleGroup
    modS fun s => s.modCtx s.curCtx fun x => { x with dg := 0 }
    advance) s

/-! ## Debug stops (R438 to R441) -/

/-- The core is in a debug stop. -/
def DebugStop.isStopped : DebugStop → Bool
  | .stopped _ => true
  | _ => false

/-- DBG_STOP (R439, R441): no effect on a core that is STOPPED, or stopping otherwise than at the end of a STEP that waits. -/
def State.dbgStop (s : State) (i : Fin 128) : State :=
  if !s.enabled i then s
  else if (s.coreAt i).mayStop then s.askStop i 1
  else s

/-- DBG_STOP (R439). -/
def execDbgStop (c : Nat) (s : State) : Host.Outcome State Fault Refusal := .next (s.dbgStop (coreIx c))

/-- DBG_GO (R441): every stopped core of the stop runs on. -/
def State.dbgGo (s : State) (i : Fin 128) : State :=
  if !(s.coreAt i |>.debug).isStopped then s
  else
    let go := fun (s : State) k =>
      if (s.coreAt k |>.debug).isStopped then
        s.setCoreAt k { s.coreAt k with debug := .running, dbgCtx := false, stepTo := none }
      else s
    match (s.coreAt i).job with
    | some j =>
      if (s.coreAt i).dbgCtx then ((s.coresOf j.ctx).filter fun k => (s.coreAt k).dbgCtx).foldl go s else go s i
    | none => go s i

/-- DBG_GO (R441). -/
def execDbgGo (c : Nat) (s : State) : Host.Outcome State Fault Refusal := .next (s.dbgGo (coreIx c))

/-- DBG_STEP (R441): the stopped core is to issue one bundle; the stop at its end is its own, unless STOPCTX makes it one of
the context again.
Log entry 40: DEDUCED, unsafe. -/
def State.dbgStep (s : State) (i : Fin 128) : State :=
  if (s.coreAt i |>.debug).isStopped then
    s.setCoreAt i { s.coreAt i with debug := .stepping, stepTo := none, dbgCtx := false }
  else s

/-- DBG_STEP (R441). -/
def execDbgStep (c : Nat) (s : State) : Host.Outcome State Fault Refusal := .next (s.dbgStep (coreIx c))

/-- An engine has completed what it had started, or, in a step, what was issued up to its bundle; what waits on a
replayable fault stays at its restart point, and what stands behind it in its queue with it (R439, R441). -/
def Core.engQuiet (c : Core) (e : Eng) : Bool :=
  (c.queue e).all fun x => match c.stepTo with
    | some n => decide (n.toNat < x.iseq.toNat) || (!x.phase.passed && (c.engStop e).isSome)
    | none => x.phase == .waiting || (x.phase == .stopped && !x.faulted && (c.engStop e).isSome)

/-- Nothing of the core's own holds it from its debug stop. -/
def Core.debugQuiet (c : Core) : Bool :=
  c.engQuiet .v && c.engQuiet .m && c.engQuiet .c && c.takenV.isNone && (c.takenC.isNone || c.cStop.isSome) &&
    c.pendingTrap.isNone && c.posted.all fun p => p.parked.isSome

/-- Nothing holds the core from its debug stop: its engines have completed what they had started, a command taken from a
sibling among it (R153, R439). -/
def State.debugQuiet (s : State) (i : Fin 128) : Bool := (s.coreAt i).debugQuiet && !s.executesTaken i

/-- A decrement of a context's jobs waits at a home, or an increment at a flag (R146, R308). -/
def State.arrivalHeld (s : State) (id : CtxId) : Bool :=
  (s.coresOf id).any fun i => !(s.coreAt i).heldFlags.isEmpty || (s.coreAt i).barHeld.any fun o => match o.kind with
    | .decIn | .decOut => true
    | _ => false

/-- In a stop of a context, every core has come to its stop and what was sent has been applied (R440). -/
def State.ctxQuiet (s : State) (id : CtxId) : Bool :=
  let slots := s.slotsOf id
  (s.signals.all fun g => !slots.contains g.slot) && (s.decrements.all fun d => !slots.contains d.slot) &&
    !s.arrivalHeld id &&
    (s.coresOf id).all fun k => !(s.coreAt k).dbgCtx || match (s.coreAt k).debug with
      | .stopping _ => s.debugQuiet k
      | .stopped _ => true
      | _ => false

/-- A stopping core shows STOPPED, with its trace record (R439, R444). -/
def State.showStopped (s : State) (i : Fin 128) : State :=
  let c := s.coreAt i
  match c.debug with
  | .stopping r =>
    let id := match c.job with
      | some j => j.ctx
      | none => 0
    (s.setCoreAt i { c with debug := .stopped r, stepTo := none }).trace 4 i.val id c.iseq (r.zeroExtend 64) c.pc
  | _ => s

/-- DEBUG_STOP_ENTERED (R439, R440): the core is STOPPED; a stop of the whole context is raised on all its cores
together.
Log entry 40: DEDUCED, unsafe. -/
def State.stopEntered (s : State) (i : Fin 128) : State :=
  let c := s.coreAt i
  if !s.enabled i ∨ !s.debugQuiet i then s
  else match c.job with
    | some j =>
      if c.dbgCtx then
        if s.ctxQuiet j.ctx then ((s.coresOf j.ctx).filter fun k => (s.coreAt k).dbgCtx).foldl State.showStopped s else s
      else s.showStopped i
    | none => s.showStopped i

/-- DEBUG_STOP_ENTERED (R439). -/
def execDebugStopEntered (c : Nat) (s : State) : Host.Outcome State Fault Refusal := .next (s.stopEntered (coreIx c))

/-! ## The aperture's writes (R437, R438, R442, R447) -/

/-- A write to a core's window of the aperture: its control registers and stall counters at any time, its state while it
is STOPPED, nothing while the package is frozen. -/
def State.debugWrite (s : State) (i : Fin 128) (off : Nat) (v : DWord) : State :=
  let c := s.coreAt i
  if s.frozen ∨ !s.windowOpen ∨ off % 8 ≠ 0 ∨ !s.enabled i then s
  else if off = 0x3FF000 then s.setCoreAt i { c with dbgArm := v.getLsbD 0, dbgStopCtx := v.getLsbD 1 }
  else if off = 0x3FF008 then
    match v.toNat % 4 with
    | 1 => s.dbgStop i
    | 2 => s.dbgGo i
    | 3 => s.dbgStep i
    | _ => s
  else if 0x3FE000 ≤ off ∧ off < 0x3FEC00 then
    let (h, k) := ((off - 0x3FE000) / 0x300, (off - 0x3FE000) % 0x300 / 8)
    if k < 73 then s.setCoreAt i { c with stalls := sset 0 c.stalls (73 * h + k) 0 } else s
  else if (c.debug).isStopped ∧ off < 0x3C0000 then s.setCoreAt i (c.debugPut off v)
  else s

/-- DEBUG_WRITE (R442). -/
def execDebugWrite (c : Nat) (off : BitVec 22) (v : DWord) (s : State) : Host.Outcome State Fault Refusal :=
  .next (s.debugWrite (coreIx c) off.toNat v)

/-- The stop vector's position of an engine: its head's issue sequence, or that of the next bundle (R438). -/
def Core.headSeq (c : Core) (e : Eng) : Word :=
  match c.queue e with
  | x :: _ => x.iseq
  | [] => c.iseq

/-! ## The aperture's reads (R437, R438, R442, R447) -/

/-- DBGST (R438). -/
def DebugStop.register : DebugStop → DWord
  | .stopped r => 1 + 2 * r.zeroExtend 64
  | _ => 0

/-- The word of a byte area at an offset, if it lies in it. -/
def areaWord (off : Nat) (a : Nat × List Byte) : Option DWord :=
  if a.1 ≤ off ∧ off < a.1 + a.2.length then some (BitVec.ofNat 64 (leNat ((a.2.drop (off - a.1)).take 8))) else none

/-- A word that the aperture shows where no layout is stated: a free value.
Log entry 94: DESIGN CHOICE, safe. -/
def State.freeWord (s : State) (a : Nat) : DWord :=
  BitVec.ofNat 64 (leNat ((List.range 8).map fun k => Config.freeByte s.fresh (a + k)))

/-- A read of a core's window of the aperture at an aligned offset: the layout of the core image, zeros, the stall
counters, the control registers and the stop vector. It changes nothing. -/
def State.debugRead (s : State) (i : Fin 128) (off : Nat) : DWord :=
  let c := s.coreAt i
  let free := fun (a : Nat × Nat) => decide (a.1 ≤ off) && decide (off < a.1 + a.2)
  if off < 0x3C0000 then
    if freeAreas.any free then s.freeWord off else ((s.imageAreas i).findSome? (areaWord off)).getD 0
  else if 0x3FE000 ≤ off ∧ off < 0x3FEC00 then
    let (h, k) := ((off - 0x3FE000) / 0x300, (off - 0x3FE000) % 0x300 / 8)
    if k < 73 then sget 0 c.stalls (73 * h + k) else 0
  else if off = 0x3FF000 then (if c.dbgArm then 1 else 0) + if c.dbgStopCtx then 2 else 0
  else if off = 0x3FF010 then (c.debug).register
  else if off = 0x3FF020 then c.pc
  else if off = 0x3FF028 then (c.headSeq .v).zeroExtend 64
  else if off = 0x3FF030 then (c.headSeq .m).zeroExtend 64
  else if off = 0x3FF038 then (c.headSeq .c).zeroExtend 64
  else 0

/-- A read of the aperture (R10, R437, R449): the window of an enabled core; from 0x2000_0000 on package state, a free
value, while the package is frozen. Elsewhere there is nothing to read.
Log entry 94: DESIGN CHOICE, safe. -/
def State.apertureRead (s : State) (a : Nat) : Option DWord :=
  if !s.windowOpen ∨ a % 8 ≠ 0 then none
  else if a < 0x20000000 then
    let i := coreIx (a / 0x400000)
    if s.enabled i then some (s.debugRead i (a % 0x400000)) else none
  else if s.frozen ∧ a < 0x40000000 then some (s.freeWord a)
  else none

/-! ## Freeze (R449) -/

/-- FREEZE (R449). -/
def execFreeze (s : State) : Host.Outcome State Fault Refusal :=
  .next { s with frozen := s.frozen || s.windowOpen }

/-- UNFREEZE (R449). -/
def execUnfreeze (s : State) : Host.Outcome State Fault Refusal := .next { s with frozen := false }

/-! ## Samples (R154, R155, R445) -/

/-- A head's class, with its object above it, as a sample holds it. -/
def classField (cls obj : Nat) : Nat := cls + obj * 8

/-- The class of the S head. -/
def Core.sClass (c : Core) : Nat :=
  match c.job with
  | none => classField 1 0
  | some j =>
    if j.starting then classField 1 0
    else if c.sStop.isSome || c.seq != .fetching then classField 4 0
    else match c.head with
      | .issuing => classField 0 0
      | .waitFlag n => classField 2 n.toNat
      | .waitScoreboard => classField 3 0
      | .waitEngine => classField 4 0

/-- The flag that a wait command is held on. -/
def waitedFlag : Instr → Option (BitVec 5)
  | .vwait f _ | .mwait f _ | .cwait f _ => some f
  | _ => none

/-- The queue registers of the V slot that a command pops (R138). -/
def vecPops (i : Instr) : List Nat := srcQueues (vecSrcs i)

/-- The queue register without an entry that holds a command which has not popped, or the one without room for its result
(R137). -/
def Core.waitedQueue (c : Core) (x : Cmd) : Option Nat :=
  let empty := if x.popped.isEmpty then (popsOf x.instr ++ vecPops x.instr).find? fun n => (c.qreg n).isEmpty else none
  empty.orElse fun _ => ((vecDst x.instr).bind dstQueue).filter fun n => !c.qroom n

/-- The class a head is in by an object of R155, seen from the state alone: its guard pair, its flag, or a queue register
without an entry. -/
def Core.waitObject (c : Core) (x : Cmd) : Option Nat :=
  match instrGuard x.instr with
  | none => none
  | some g =>
    if x.phase ≠ .waiting then none
    else if !x.consumed && (c.pair g).isOpen then some (32 + g.toNat)
    else if !x.consumed && !c.guardVal g then none
    else match waitedFlag x.instr with
      | some f => if c.flag f = 0 then some f.toNat else none
      | none => (c.waitedQueue x).map (48 + ·)

/-- The class of a head, as a sample holds it. -/
def Head.field : Head → Nat
  | .issuing => classField 0 0
  | .waitFlag n => classField 2 n.toNat
  | .waitScoreboard => classField 3 0
  | .waitEngine => classField 4 0

/-- The class of a command that an engine's last attempt found held, or else goes on. -/
def Cmd.heldClass (x : Cmd) : Nat :=
  match x.held with
  | some (p, w) => if p = x.progress then w.field else classField 0 0
  | none => classField 0 0

/-- The class of an engine that executes a command it has taken from a sibling (R153, R154). -/
def State.takenClass (s : State) (o : Fin 128) (e : Eng) (iseq : Word) : Nat :=
  let c := s.coreAt o
  match (c.queue e).find? fun x => x.iseq = iseq with
  | some x => if (c.engStop e).isSome then classField 4 0 else x.heldClass
  | none => classField 0 0

/-- The class of an engine's head (R154, R155): what the state shows of its gating object, of a taken command, of a
replayable fault and of the scoreboard; else what the engine's last attempt at it found.
Log entry 42: DESIGN CHOICE, unsafe. -/
def State.engClass (s : State) (i : Fin 128) (e : Eng) : Nat :=
  let c := s.coreAt i
  match s.ownerOf i e with
  | some (o, n) => s.takenClass o e n
  | none =>
    match (c.queue e)[c.nextIx e]? with
    | none => if (c.queue e).isEmpty then classField 1 0 else classField 0 0
    | some x =>
      if (c.engStop e).isSome || (c.taken e).map (·.2) == some x.iseq then classField 4 0
      else match c.waitObject x, x.held with
        | some n, _ => classField 2 n
        | none, some (_, .waitFlag _) => x.heldClass
        | none, _ =>
          match startCmd e x { s with cur := i } with
          | .error (.scoreboard, _) => classField 3 0
          | .error _ => classField 4 0
          | .ok _ => x.heldClass

/-- The payload of a core's SAMPLE record. -/
def State.samplePayload (s : State) (i : Fin 128) : DWord :=
  let c := s.coreAt i
  let pos := fun e => (c.headSeq e).toNat % 256
  BitVec.ofNat 64 (c.sClass + s.engClass i .v * 2 ^ 10 + s.engClass i .m * 2 ^ 20 + s.engClass i .c * 2 ^ 30 +
    pos .v * 2 ^ 40 + pos .m * 2 ^ 48 + pos .c * 2 ^ 56)

/-- TRACE_SAMPLE (R445): each core with a job writes one record, where sampling is enabled.
Log entry 42: DESIGN CHOICE, unsafe. -/
def State.sample (s : State) : State :=
  if bits s.regs.trctl.toNat 36 32 = 0 then s
  else (List.finRange 128).foldl (fun s i =>
    let c := s.coreAt i
    match c.job with
    | some j => s.trace 2 i.val j.ctx c.iseq (s.samplePayload i) c.pc
    | none => s) s

/-- TRACE_SAMPLE (R445). -/
def execTraceSample (s : State) : Host.Outcome State Fault Refusal := .next s.sample

/-! ## Performance counters (R448) -/

/-- PCSEL written (R448): every core's counter is cleared. -/
def State.writePcsel (s : State) (v : DWord) : State :=
  { s with
    regs := { s.regs with pcsel := v &&& 0x0000FFFF000103FF }
    cores := s.cores.map fun c => { c with perf := 0 } }

/-- PCSEL_WRITE (R448). -/
def execPcselWrite (v : DWord) (s : State) : Host.Outcome State Fault Refusal := .next (s.writePcsel v)

/-- The counters that a read of PCVAL reduces. -/
def State.perfCores (s : State) : List Nat :=
  let sel := s.regs.pcsel.toNat
  ((List.finRange 128).filter fun i => decide (i.val < s.ncore) && (!bitN sel 16 || match (s.coreAt i).job with
    | some j => j.ctx.toNat == bits sel 47 32
    | none => false)).map fun i => (s.coreAt i).perf.toNat

/-- The sum, the least or the greatest. -/
def perfReduce (mode : Nat) (xs : List Nat) : Nat :=
  match xs with
  | [] => 0
  | x :: rest => match mode with
    | 1 => rest.foldl min x
    | 2 => rest.foldl max x
    | _ => xs.sum

/-- PCVAL_READ (R448). -/
def execPcvalRead (s : State) : Host.Outcome State Fault Refusal :=
  .next { s with regs := { s.regs with
    pcval := BitVec.ofNat 64 (perfReduce (bits s.regs.pcsel.toNat 9 8) s.perfCores) } }

end Sys2Proof.Machine
end

