-- ==== Sys2Proof/Machine/Manage.lean ====
section
/-! DEFINITION. Machine/Manage.lean: the management microcontroller: reset and its phases, attestation, power and
temperature (R449, R454 to R460). -/

namespace Sys2Proof.Machine

/-! ## Reset (R454) -/

/-- The machine after a reset that keeps the module's flash, the memory a condition holds of, and the model's own
fields.
Log entry 7: DESIGN CHOICE, unsafe. -/
def State.resetKeeping (s : State) (p : Nat → Bool) : State :=
  { State.reset with
    flash := s.flash, mem := s.mem.filter fun e => p e.1, agenda := s.agenda, turn := s.turn, fresh := s.fresh
    ports := Vector.replicate 10 (Port.fresh .down) }

/-- A phase that has failed holds the package in reset.
Log entry 8: DEDUCED, safe. -/
def State.heldIn (s : State) (phase : Nat) : State := { s with phase := phase, phaseFailed := true }

/-- In phase 4 the ports begin to train; one that does not stays DOWN (R348, R454). -/
def State.startPorts (s : State) (ready : BitVec 10) : State :=
  { s with ports := Vector.ofFn fun k => Port.fresh (if ready.getLsbD k.val then .training else .down) }

/-- Phases 3 to 5 of a reset. -/
def State.bootFrom3 (s : State) (b : BootInput) : State :=
  if !b.memoryTrained then s.heldIn 3
  else if !b.sclTrained then (s.startPorts b.ports).heldIn 5
  else s.startPorts b.ports

/-- The firmware image is accepted: its signature is valid and its version is not below the rollback counter (R456). -/
def Flash.acceptsFirmware (f : Flash) (b : BootInput) : Bool :=
  b.firmwareOk && decide (f.rollback.toNat ≤ b.imageVersion.toNat)

/-- The configuration block is accepted: its signature is valid, it was made for this package, and its layout is known
(R18, R455, R456). -/
def Flash.acceptsConfig (f : Flash) (b : BootInput) : Bool := b.configOk && b.layoutKnown && f.pufDigest == Sys2Proof.Machine.pufDigest

/-- POWER_ON_RESET (R454): phases 0 to 5. Memory of the module is lost, that of the host and behind CXL is not the
module's. -/
def State.powerOn (s : State) (b : BootInput) : State :=
  let s := s.resetKeeping fun a => decide (Config.cxlBase ≤ a)
  if !s.flash.acceptsFirmware b then s.heldIn 1
  else if !s.flash.acceptsConfig b then s.heldIn 2
  else s.bootFrom3 b

/-- POWER_ON_RESET (R454). -/
def execPowerOnReset (b : BootInput) (s : State) : Host.Outcome State Fault Refusal := .next (s.powerOn b)

/-- The return to phase 3: contexts, stash entries and counters are lost, HBM is written anew, the configuration is
kept. -/
def State.toPhase3 (s : State) : State :=
  { s.resetKeeping fun a => decide (Config.lpddrBase ≤ a) with phase := 3 }

/-- HOST_RESET (R454): phases 3 to 5; the request cannot reach a module held in reset. -/
def State.hostReset (s : State) (b : BootInput) : State :=
  if s.phaseFailed then s else State.bootFrom3 { s.toPhase3 with phase := 5 } b

/-- HOST_RESET (R454). -/
def execHostReset (b : BootInput) (s : State) : Host.Outcome State Fault Refusal := .next (s.hostReset b)

/-! ## Attestation (R457, R458) -/

/-- CFGINFO (R457). -/
def State.cfginfo (s : State) : DWord :=
  BitVec.ofNat 64 (s.ncore + s.flash.version.toNat * 2 ^ 8 + s.flash.serial.toNat * 2 ^ 16)

/-- The 256-bit nonce, the low word first. -/
def Regs.nonce (r : Regs) : BitVec 256 :=
  BitVec.ofNat 256 (leNat ((r.atnonce.toList.map fun w => leBytes 8 w.toNat).flatten))

/-- A request: BUSY rises and takes the nonce and the address; one while BUSY is 1 is ignored. -/
def State.attestRequest (s : State) : State :=
  if s.regs.atcmd.getLsbD 0 then s
  else { s with
    regs := { s.regs with atcmd := s.regs.atcmd ||| 1 }
    attest := some (s.regs.nonce, BitVec.ofNat 51 (s.regs.atresp.toNat / 256 * 256)) }

/-- ATTESTATION_REQUEST (R458). -/
def execAttestationRequest (s : State) : Host.Outcome State Fault Refusal := .next s.attestRequest

/-- The signed bytes of a report (R458).
Log entry 11: DESIGN CHOICE, unsafe. -/
def State.reportBody (s : State) (nonce : BitVec 256) : List Byte :=
  leBytes 32 nonce.toNat ++ leBytes 32 Config.firmwareDigest.toNat ++ leBytes 32 Config.configDigest.toNat ++
    leBytes 8 (s.cfginfo.toNat / 256 * 256) ++ leBytes 8 s.flash.rollback.toNat ++ leBytes 64 Config.pufPublicKey.toNat

/-- A report (R458): the body, its signature, zeros. -/
def State.report (s : State) (nonce : BitVec 256) : List Byte :=
  let body := s.reportBody nonce
  body ++ leBytes 64 (Config.sm2Sign s.fresh body).toNat ++ List.replicate 16 0

/-- The report is written, or sets ERR where its address is not in TIER 3; BUSY falls. -/
def State.attestReport (s : State) : State :=
  match s.attest with
  | none => s
  | some (nonce, pa) =>
    if s.inTier 3 pa.toNat 256 then
      { s with
        mem := writeBytes s.mem pa.toNat (s.report nonce), fresh := s.fresh + 1, attest := none
        regs := { s.regs with atcmd := s.regs.atcmd &&& 2 } }
    else { s with attest := none, regs := { s.regs with atcmd := 2 } }

/-- ATTESTATION_REPORT (R458). -/
def execAttestationReport (s : State) : Host.Outcome State Fault Refusal := .next s.attestReport

/-! ## Power (R459, R460) -/

/-- The clock after an evaluation (R460). -/
def nextClock (clk pkgw limit : Nat) (en warn : Bool) : Nat :=
  if (en && decide (limit < pkgw)) || warn then max (clk - 100) 900
  else if 100 * pkgw ≤ 95 * limit then min (clk + 100) 1800
  else clk

/-- An evaluation (R459, R460): what was measured is published and the clock moves by at most one step; at 105 °C on a
die the module returns to phase 3. -/
def State.evaluatePower (s : State) (m : PowerSample) : State :=
  let hot := max m.die0.toNat m.die1.toNat
  if s.phaseFailed then s
  else if 105 ≤ hot then s.toPhase3
  else
    let warn := decide (95 ≤ hot)
    let cap := s.regs.pwrcap.toNat
    let clk := nextClock (bits s.regs.pwrstat.toNat 43 32) m.pkgW.toNat (bits cap 15 0) (bitN cap 16) warn
    let stat := m.pkgW.toNat + m.modW.toNat * 2 ^ 16 + clk * 2 ^ 32 + (if clk < 1800 then 2 ^ 48 else 0) +
      if warn then 2 ^ 49 else 0
    { s with regs := { s.regs with
        pwrstat := BitVec.ofNat 64 stat
        temp := BitVec.ofNat 64 (m.die0.toNat + m.die1.toNat * 2 ^ 8 + m.hbm.toNat * 2 ^ 16 + m.inlet.toNat * 2 ^ 24) } }

/-- POWER_EVALUATION (R460). -/
def execPowerEvaluation (m : PowerSample) (s : State) : Host.Outcome State Fault Refusal := .next (s.evaluatePower m)

end Sys2Proof.Machine
end

