-- ==== Sys2Proof/Machine/Host.lean ====
section
/-! DEFINITION. Machine/Host.lean: the host's accesses over SCL: memory and the register window (R131, R315, R324, R327
to R330, R339, R345, R348 to R350, R358 to R363, R399, R443, R448 to R450, R457 to R459). -/

namespace Sys2Proof.Machine

/-! ## Memory (R131, R315, R359, R372) -/

/-- HOST_ACCESS (R131, R359): the host's bytes are written at their homes; a read changes nothing. An access to a line
that waits for a reducer is held (R372).
Log entry 16: DESIGN CHOICE, unsafe. -/
def execHostAccess (pa : BitVec 51) (a : HostData) (s : State) : Host.Outcome State Fault Refusal :=
  let n := match a with
    | .write bytes => bytes.length
    | .read len => len
  if !s.inMemory pa.toNat n then .fault (.noMemory pa.toNat)
  else if (List.range n).any fun k => s.reducing (pa.toNat + k) then .next s
  else
    match a with
    | .write bytes => .next { s with mem := writeBytes s.mem pa.toNat bytes }
    | .read _ => .next s

/-! ## Plain registers (R2, R360) -/

/-- A field of a register, between two bit positions, as it stands. -/
def field (h l : Nat) : DWord := BitVec.ofNat 64 (2 ^ (h + 1) - 2 ^ l)

/-- A ring's base: PA in 50:12 and LOG2N, a value outside 6 to hi reading as 6.
Log entry 14: DEDUCED, unsafe. -/
def cleanRing (hi : Nat) (v : DWord) : DWord := v &&& field 50 12 ||| BitVec.ofNat 64 (ringLog (v.toNat % 32) hi)

/-- Three coordinates (R349). -/
def coordMask : DWord := 0x3F3F3F

/-- A die number of DEST: 0 and 3 read as 1. -/
def cleanDest (v : DWord) : DWord := if bits v.toNat 19 18 = 2 then 2 <<< 18 else 1 <<< 18

/-- The bits of a register that a write of ones clears. -/
def clearBits (old v mask : DWord) : DWord := old &&& mask &&& ~~~v

/-- A register of the window that holds what is written to it, by its offset (R360); an offset of no such register
changes nothing. -/
def Regs.write (r : Regs) (off : Nat) (v : DWord) : Regs :=
  match off with
  | 0x0000 => { r with mcoord := v &&& coordMask }
  | 0x0008 => { r with tdim := v &&& coordMask }
  | 0x0010 => { r with pdorig := v &&& coordMask }
  | 0x0018 => { r with ltmo := v &&& field 31 0 }
  | 0x1000 => { r with mqbase := cleanRing 12 v }
  | 0x1008 => { r with mcbase := cleanRing 12 v }
  | 0x1010 => { r with mqprod := v }
  | 0x1028 => { r with mcrd := v }
  | 0x2000 => { r with pgran := r.pgran.set 0 (v &&& 3) }
  | 0x2008 => { r with pgran := r.pgran.set 1 (v &&& 3) }
  | 0x2010 => { r with pgran := r.pgran.set 2 (v &&& 3) }
  | 0x2018 => { r with pgran := r.pgran.set 3 (v &&& 3) }
  | 0x4000 => { r with fbbase := v &&& field 50 12 }
  | 0x4008 => { r with fbctl := clearBits r.fbctl v 0x200 ||| v &&& 0x100 ||| BitVec.ofNat 64 (ringLog (v.toNat % 32) 16) }
  | 0x4018 => { r with fbrd := v }
  | 0x4040 => { r with tlbinvLow := v &&& field 58 0 }
  | 0x5000 => { r with acbase := v &&& field 50 12 }
  | 0x5008 => { r with acctl := clearBits r.acctl v (field 55 40) ||| v &&& (field 36 32 ||| field 31 0) }
  | 0x5018 => { r with acrd := v }
  | 0x6400 => { r with srfbase := cleanRing 16 v }
  | 0x6408 => { r with srfprod := v }
  | 0x6410 => { r with srfcons := v }
  | 0x6420 => { r with srgbase := cleanRing 16 v }
  | 0x6428 => { r with srgprod := v }
  | 0x6430 => { r with srgcons := v }
  | 0x6440 => { r with srrbase := cleanRing 16 v }
  | 0x6448 => { r with srrprod := v }
  | 0x6450 => { r with srrcons := v }
  | 0x6460 => { r with smark := v }
  | 0xA000 => { r with cxsz0 := v &&& field 43 28 }
  | 0xA008 => { r with cxsz1 := v &&& field 43 28 }
  | 0xB080 => { r with atnonce := r.atnonce.set 0 v }
  | 0xB088 => { r with atnonce := r.atnonce.set 1 v }
  | 0xB090 => { r with atnonce := r.atnonce.set 2 v }
  | 0xB098 => { r with atnonce := r.atnonce.set 3 v }
  | 0xB0A0 => { r with atresp := v &&& field 50 8 }
  | 0xB100 => { r with pwrcap := v &&& field 16 16 ||| BitVec.ofNat 64 (min (max (v.toNat % 2 ^ 16) 1000) 2500) }
  | 0xC000 => { r with trbase := cleanRing 20 v }
  | 0xC008 => { r with trctl := clearBits r.trctl v (field 63 48) ||| v &&& (field 36 32 ||| field 7 0) }
  | 0xC018 => { r with trrd := v }
  | _ => r

/-! ## Registers in arrays (R265, R330, R339, R348, R350, R399, R450) -/

/-- KTBASEn or KTLENn (R265). -/
def State.writeKt (s : State) (k : Fin 16) (len : Bool) (v : DWord) : State :=
  { s with ctxs := s.ctxs.set k (
      if len then { s.ctxs[k] with ktlen := v.toNat % 2 ^ 21 }
      else { s.ctxs[k] with ktbase := BitVec.ofNat 57 (v.toNat / 4096 * 4096) }) }

/-- Register j of managed range n (R330). -/
def SumpRange.write (r : SumpRange) (j : Nat) (v : DWord) : SumpRange :=
  match j with
  | 0 => { r with base := v &&& field 56 16 }
  | 1 => { r with lim := v &&& field 56 16 }
  | 2 => { r with ctl := v &&& field 16 0 ||| cleanDest v }
  | _ => r

/-- Register j of an aperture (R339). -/
def Aperture.write (a : Aperture) (j : Nat) (v : DWord) : Aperture :=
  match j with
  | 0 => { a with ctl := v &&& (field 12 8 ||| field 5 0) }
  | 1 => { a with buf := v &&& field 50 12 }
  | 2 => { a with size := v &&& field 39 0 }
  | _ => { a with geo := v }

/-- Register j of a channel endpoint other than CHCTL (R350). -/
def Channel.write (c : Channel) (j : Nat) (v : DWord) : Channel :=
  match j with
  | 1 => { c with peer := v &&& (field 28 24 ||| coordMask) }
  | 2 => { c with ring := v &&& field 56 0 }
  | 3 => { c with cn := v &&& field 12 0 }
  | _ => c

/-- A register of a channel endpoint, while its owner lets it be written (R350). -/
def State.writeChan (s : State) (n : BitVec 5) (j : Nat) (v : DWord) : State :=
  let c := s.chans[n.toFin]
  if j = 0 then s.writeChctl n v
  else if s.chanWritable c then { s with chans := s.chans.set n.toFin (c.write j v) }
  else s

/-- RETRY and FECCOR of ABSTp, cleared by ones (R348). -/
def Port.clear (p : Port) (v : DWord) : Port :=
  { p with
    retry := p.retry &&& ~~~(BitVec.ofNat 16 (bits v.toNat 47 32))
    feccor := p.feccor &&& ~~~(BitVec.ofNat 16 (bits v.toNat 31 16)) }

/-- Register j of Grotto (R399); GRUSE is read-only. -/
def Grotto.write (g : Grotto) (j : Nat) (v : DWord) : Grotto :=
  match j with
  | 0 => { g with ctl := v &&& field 17 16 ||| cleanDest v }
  | 1 => { g with hbase := v &&& field 50 12 }
  | 2 => { g with hlim := v &&& field 31 0 }
  | 3 => { g with clim := v &&& field 15 0 }
  | _ => g

/-- The host may write Grotto's registers: the bound context is not RUNNING, FAULT_WAIT or DRAINING (R399). -/
def State.grottoWritable (s : State) : Bool :=
  match s.weir.ctx with
  | none => true
  | some id => match (s.ctxOf id).state with
    | .running | .faultWait | .draining => false
    | _ => true

/-- DGCTLn (R450). -/
def State.writeDgctl (s : State) (k : Fin 16) (v : DWord) : State :=
  { s with ctxs := s.ctxs.set k { s.ctxs[k] with dgctl := v &&& 1 } }

/-- A number below 16, 32. -/
def fin16 (n : Nat) : Fin 16 := ⟨n % 16, Nat.mod_lt _ (by decide)⟩

/-! ## The registers that act (R327, R345, R361, R363, R448, R449, R458) -/

/-- REPLAY (R327). -/
def State.writeReplay (s : State) (v : DWord) : State :=
  let id := BitVec.ofNat 16 v.toNat
  if v.getLsbD 16 then s.replay id (fun s p => s.abortPkg id p) fun s => s.performAbort id
  else s.replay id (fun s p => s.retryPkg id p) fun s => s.performReplay id

/-- The high half of TLBINV (R345, R360). -/
def State.writeTlbinv (s : State) (v : DWord) : State :=
  let lo := s.regs.tlbinvLow.toNat
  let id := BitVec.ofNat 16 v.toNat
  match bits lo 58 57 with
  | 0 => s.hostTlbinv (.page id (bits lo 56 0))
  | 1 => s.hostTlbinv (.ctx id)
  | 2 => s.hostTlbinv .all
  | _ => s

/-- ATCMD written (R458): a one in ERR clears it, a one in BUSY asks for a report. -/
def State.writeAtcmd (s : State) (v : DWord) : State :=
  let s := { s with regs := { s.regs with atcmd := s.regs.atcmd &&& ~~~(v &&& 2) } }
  if v.getLsbD 0 then s.attestRequest else s

/-- A write of the register window at an aligned offset (R360): an array, a register that acts, or a plain one.
Log entry 13: DEDUCED, unsafe. -/
def State.writeWindow (s : State) (off : Nat) (v : DWord) : State :=
  if 0x3000 ≤ off ∧ off < 0x3100 then s.writeKt (fin16 ((off - 0x3000) / 16)) (decide (off % 16 = 8)) v
  else if off = 0x4020 then s.writeReplay v
  else if off = 0x4048 then s.writeTlbinv v
  else if 0x6000 ≤ off ∧ off < 0x6200 then
    let k := fin16 ((off - 0x6000) / 32)
    { s with ranges := s.ranges.set k (s.ranges[k].write (off % 32 / 8) v) }
  else if 0x7000 ≤ off ∧ off < 0x7200 then
    let k := fin16 ((off - 0x7000) / 32)
    { s with apertures := s.apertures.set k (s.apertures[k].write (off % 32 / 8) v) }
  else if 0x8000 ≤ off ∧ off < 0x8800 then s.writeChan (BitVec.ofNat 5 ((off - 0x8000) / 64)) (off % 64 / 8) v
  else if 0x9000 ≤ off ∧ off < 0x9030 then s.modPort ((off - 0x9000) / 8) fun p => p.clear v
  else if 0xB000 ≤ off ∧ off < 0xB028 then
    if s.grottoWritable then { s with grotto := s.grotto.write ((off - 0xB000) / 8) v } else s
  else if off = 0xB0A8 then s.writeAtcmd v
  else if off = 0xC100 then s.writePcsel v
  else if 0xC200 ≤ off ∧ off < 0xC280 then s.writeDgctl (fin16 ((off - 0xC200) / 8)) v
  else
    let s := { s with regs := s.regs.write off v }
    -- room in a ring lets what waits for it go on (R362, R363)
    if off = 0x1028 then s.flushCompletion else if off = 0x6450 then s.flushReturned s.returned.length
    else if 0x6400 ≤ off ∧ off < 0x6468 then s.noteMarks else s

/-! ## Reads of the window (R360) -/

/-- What a register of the window that holds a value of its own reads as, by its offset; every other offset reads 0. -/
def Regs.read (r : Regs) (off : Nat) : DWord :=
  match off with
  | 0x0000 => r.mcoord
  | 0x0008 => r.tdim
  | 0x0010 => r.pdorig
  | 0x0018 => r.ltmo
  | 0x1000 => r.mqbase
  | 0x1008 => r.mcbase
  | 0x1010 => r.mqprod
  | 0x1018 => r.mqcons
  | 0x1020 => r.mcwr
  | 0x1028 => r.mcrd
  | 0x2000 => r.pgran[0]
  | 0x2008 => r.pgran[1]
  | 0x2010 => r.pgran[2]
  | 0x2018 => r.pgran[3]
  | 0x4000 => r.fbbase
  | 0x4008 => r.fbctl
  | 0x4010 => r.fbwr
  | 0x4018 => r.fbrd
  | 0x4040 => r.tlbinvLow
  | 0x5000 => r.acbase
  | 0x5008 => r.acctl
  | 0x5010 => r.acwr
  | 0x5018 => r.acrd
  | 0x6400 => r.srfbase
  | 0x6408 => r.srfprod
  | 0x6410 => r.srfcons
  | 0x6420 => r.srgbase
  | 0x6428 => r.srgprod
  | 0x6430 => r.srgcons
  | 0x6440 => r.srrbase
  | 0x6448 => r.srrprod
  | 0x6450 => r.srrcons
  | 0x6460 => r.smark
  | 0xA000 => r.cxsz0
  | 0xA008 => r.cxsz1
  | 0xB080 => r.atnonce[0]
  | 0xB088 => r.atnonce[1]
  | 0xB090 => r.atnonce[2]
  | 0xB098 => r.atnonce[3]
  | 0xB0A0 => r.atresp
  | 0xB0A8 => r.atcmd
  | 0xB100 => r.pwrcap
  | 0xB108 => r.pwrstat
  | 0xB110 => r.temp
  | 0xC000 => r.trbase
  | 0xC008 => r.trctl
  | 0xC010 => r.trwr
  | 0xC018 => r.trrd
  | 0xC100 => r.pcsel
  | _ => 0

/-- Register j of a channel endpoint (R350). -/
def Channel.read (c : Channel) (j : Nat) : DWord :=
  match j with
  | 0 => c.ctl ||| (c.state.zeroExtend 64 <<< 18)
  | 1 => c.peer
  | 2 => c.ring
  | 3 => c.cn
  | 4 => c.hi ++ c.lo
  | _ => 0

/-- ABSTp (R348). -/
def Port.read (p : Port) : DWord :=
  let state : Nat := match p.state with
    | .down => 0
    | .training => 1
    | .up => 2
  BitVec.ofNat 64 (state + p.feccor.toNat * 2 ^ 16 + p.retry.toNat * 2 ^ 32)

/-- DISMASK0 and DISMASK1 (R457). -/
def Flash.dismask (f : Flash) (k : Nat) : DWord := f.disabled.extractLsb' (64 * k) 64

/-- A read of the register window at an aligned offset (R360); the read itself changes nothing. -/
def State.windowRead (s : State) (off : Nat) : DWord :=
  if 0x3000 ≤ off ∧ off < 0x3100 then
    let x := s.ctxs[fin16 ((off - 0x3000) / 16)]
    if off % 16 = 8 then BitVec.ofNat 64 x.ktlen else x.ktbase.zeroExtend 64
  else if off = 0x4048 then if s.tlbinvBusy then 1 <<< 63 else 0
  else if 0x6000 ≤ off ∧ off < 0x6200 then
    let r := s.ranges[fin16 ((off - 0x6000) / 32)]
    [r.base, r.lim, r.ctl].getD (off % 32 / 8) 0
  else if 0x7000 ≤ off ∧ off < 0x7200 then
    let a := s.apertures[fin16 ((off - 0x7000) / 32)]
    [a.ctl, a.buf, a.size, a.geo].getD (off % 32 / 8) 0
  else if 0x8000 ≤ off ∧ off < 0x8800 then (s.chan (BitVec.ofNat 5 ((off - 0x8000) / 64))).read (off % 64 / 8)
  else if 0x9000 ≤ off ∧ off < 0x9030 then (s.port ((off - 0x9000) / 8)).read
  else if 0xB000 ≤ off ∧ off < 0xB028 then
    [s.grotto.ctl, s.grotto.hbase, s.grotto.hlim, s.grotto.clim, s.grotto.use].getD ((off - 0xB000) / 8) 0
  else if off = 0xB040 then s.cfginfo
  else if off = 0xB048 then s.flash.dismask 0
  else if off = 0xB050 then s.flash.dismask 1
  else if off = 0xC108 then BitVec.ofNat 64 (perfReduce (bits s.regs.pcsel.toNat 9 8) s.perfCores)
  else if 0xC200 ≤ off ∧ off < 0xC280 then s.ctxs[fin16 ((off - 0xC200) / 8)].dgctl
  else if 0xC400 ≤ off ∧ off < 0xC600 then
    BitVec.ofNat 64 (fieldNat 64 (off % 32 / 8) s.ctxs[fin16 ((off - 0xC400) / 32)].dg.toNat)
  else if off = 0xC600 then if s.frozen then 1 else 0
  else s.regs.read off

/-- The host's read of the window: there is none before it opens; a misaligned one reads zero (R360, R454). -/
def State.hostRead (s : State) (off : Nat) : Option DWord :=
  if !s.windowOpen then none else some (if off % 8 ≠ 0 then 0 else s.windowRead off)

/-- REGISTER_WRITE (R360): through the open window only; while the package is frozen only FREEZE is there (R449). -/
def execRegisterWrite (off : BitVec 20) (v : DWord) (s : State) : Host.Outcome State Fault Refusal :=
  if !s.windowOpen ∨ off.toNat % 8 ≠ 0 then .next s
  else if off = 0xC600 then .next { s with frozen := v.getLsbD 0 }
  else if s.frozen then .next s
  else .next (s.writeWindow off.toNat v)

end Sys2Proof.Machine
end

