-- ==== Sys2Proof/Machine/Matrix.lean ====
section
/-! DEFINITION. Machine/Matrix.lean: `mma`, `mzero`, `mrel` and the grant of the lease (R218 to R242, R419). -/

namespace Sys2Proof.Machine

/-! ## mma (R237 to R239) -/

/-- The operands of an `mma` from its snapshot. -/
structure MmaOp where
  a : BitVec 512
  aGen : Bool
  /-- a B descriptor, or a generator -/
  bd : DWord
  gb : BitVec 512
  bGen : Bool
  fa : Nat
  fb : Nat
  /-- the integer domain of R42 -/
  int : Bool

/-- The operands. -/
def mmaOp (y : Snapshot) (a : ASrc) (b : BSrc) : MmaOp :=
  let (ra, ga) := match a with
    | .ly n => (y.lyr n, false)
    | .gn n => (y.gnr n, true)
  let (d, rb, gb) := match b with
    | .bd n => (y.bdr n, (0 : BitVec 512), false)
    | .gn n => (0, y.gnr n, true)
  let fa := if ga then gnFmt ra else lyFmt ra
  let fb := if gb then gnFmt rb else bdFmt d
  let plainInt := fun f => f == 4 || f == 8
  { a := ra, aGen := ga, bd := d, gb := rb, bGen := gb, fa := fa, fb := fb
    int := plainInt fa && plainInt fb && (ga || decide (lySg ra = 0)) && (gb || decide (bdG d = 0)) }

/-- The scale address of element (line, elem) of an XS operand (R227). -/
def mmaScale (r : BitVec 512) (ta : Bool) (line elem : Nat) : Nat :=
  let g := blockSize (lySg r)
  let (i, k) := if ta then (elem, line) else (line, elem)
  let nb := (kOf (lyFmt r) + g - 1) / g
  lyScaddr r + 128 * nb * (lyC2 r + lyC3 r * lyExt r 2) + 2 * (i * nb + k / g)

/-- The scales of an XS operand that its issue checks take: all blocks of each row with a line read (R227).
Log entry 109: DESIGN CHOICE, unsafe. -/
def mmaScaleRanges (r : BitVec 512) (ta : Bool) : List (Int × Nat) :=
  if lySg r = 0 ∨ !isScaledFmt (lyFmt r) then []
  else
    let nb := (kOf (lyFmt r) + blockSize (lySg r) - 1) / blockSize (lySg r)
    let rows := min 64 (lyExt r (if ta then 0 else 1))
    [((mmaScale r false 0 0 : Nat), 2 * nb * rows)]

/-- The issue checks of an `mma`.
Log entry 64: DEDUCED, unsafe. -/
def mmaIssue (t : BitVec 3) (o : MmaOp) (ta : Bool) : M Unit := do
  checkTile t
  if o.aGen then pure ()
  else
    let k := kOf o.fa
    checkOperand o.a (if ta then operandLines o.a 0 k 64 else operandLines o.a 0 64 k)
      (mmaScaleRanges o.a ta)
  if o.bGen then pure () else checkImage o.bd

/-- Rows of A for K-indices k0 to k0 + n - 1. -/
def mmaRows (o : MmaOp) (ta : Bool) (k0 n : Nat) (table : List Val) : M (List (List Val)) := do
  if ta then
    let xs ← readLines o.a ((List.range n).map (k0 + ·)) 0 64 (mmaScale o.a true) table
    pure (transpose 64 xs)
  else readLines o.a (List.range 64) k0 n (mmaScale o.a false) table

/-- The context seed, TAG and logical index of a generator's command (R414). -/
def genSeed (g : BitVec 512) (x : Cmd) : M DWord := do
  let s ← getS
  pure (effSeed g s.context.seed x.snap.tag s.cur.val)

/-- The element a generator gives at (i, k), with the angles of its columns. -/
def genAt (g : BitVec 512) (seed : DWord) (angles : List Word) (i k : Nat) : Val :=
  gnElem g seed (gnRow0 g + i) (gnCol0 g + k) (angles.getD k 0)

/-- Rows of a generator A. -/
def genRows (g : BitVec 512) (seed : DWord) (angles : List Word) (ta : Bool) (k : Nat) : List (List Val) :=
  (List.range 64).map fun i => (List.range k).map fun kk =>
    if ta then genAt g seed angles kk i else genAt g seed angles i kk

/-- Columns of B: column j holds its K elements. -/
def mmaCols (o : MmaOp) (c : Core) (fresh : Nat) (seed : DWord) (angles : List Word) (tb : Bool) (d k : Nat) :
    List (List Val) :=
  (List.range 64).map fun j => (List.range k).map fun kk =>
    if o.bGen then (if tb then genAt o.gb seed angles j kk else genAt o.gb seed angles kk j)
    else imageElem c fresh o.bd tb d kk j

/-- The cycles an array command occupies the array for each of its folds, by the declared depth and the B format (R234);
they are performance event 2 (R448). -/
def arrayCycles (d fb : Nat) : Nat := max 1 (((if d = 0 then sigPlanes fb else d) + 3) / 4)

/-- The body of an `mma`. -/
def mmaBody (t : BitVec 3) (a : ASrc) (b : BSrc) (prof : BitVec 4) (zf ta tb : Bool) (pl : BitVec 4) (x : Cmd) :
    M Cmd := do
  let o := mmaOp x.snap a b
  mmaIssue t o ta
  let p ← checkProfile prof o.fa o.fb pl.toNat
  if o.aGen then pure () else checkScaling o.a
  let k := kOf o.fa
  let na := if o.aGen ∧ gnKind o.a = 2 then genCols ta k else 0
  let angles ← if x.phase = .waiting then do
      let u ← if o.aGen then readAngles o.a (genCols ta k) else pure []
      let v ← if o.bGen then readAngles o.gb (genCols (!tb) k) else pure []
      pure (u ++ v)
    else pure x.angles
  needLease
  countLease x
  let table ← if !o.aGen ∧ lySpace o.a = 0 ∧ o.fa = 5 then readTable false (lyCb o.a) else pure []
  let seedA ← genSeed o.a x
  let seedB ← genSeed o.gb x
  let fresh ← drawFree
  let d := if p = .np4 then pl.toNat else 0
  let cols := mmaCols o (← getCore) fresh seedB (angles.drop na) tb d k
  let size := p.group
  let steps := stepsOf k size
  if !o.aGen ∧ lySpace o.a = 3 then
    let g := x.progress
    let n := min size (k - g * size)
    let rows ← mmaRows o ta (g * size) n table
    let f ← foldGroup t.toNat (zf && g == 0) o.int rows (cols.map fun xs => (xs.drop (g * size)).take n)
    if steps ≤ g + 1 then do
      modS fun s => s.perfCount 2 (arrayCycles pl.toNat o.fb)
      endLease
      pure ({ x with angles := angles }.done (matrixFlags f))
    else pure { x with phase := .stopped, progress := g + 1, angles := angles, flags := x.flags ||| matrixFlags f }
  else
    let rows ← if o.aGen then pure (genRows o.a seedA angles ta k) else mmaRows o ta 0 k table
    let f ← foldGroups t.toNat o.int size zf rows cols (List.range steps)
    modS fun s => s.perfCount 2 (arrayCycles pl.toNat o.fb)
    endLease
    pure (x.done (matrixFlags f))

/-- `mma` (R237). -/
def execMma (t : BitVec 3) (a : ASrc) (b : BSrc) (prof : BitVec 4) (zf ta tb : Bool) (pl : BitVec 4) (g : Guard)
    (s : State) : Host.Outcome State Fault Refusal :=
  runEng .m (.mma t a b prof zf ta tb pl g) g (mmaBody t a b prof zf ta tb pl) s

/-! ## mzero and mrel (R240, R241) -/

/-- The tiles of a mask, ascending. -/
def maskTiles (mask : BitVec 8) : List Nat := (List.range 8).filter fun t => mask.getLsbD t

/-- A tile cleared. -/
def Core.clearTile (c : Core) (t : Nat) : Core :=
  { c with acc := c.acc.filter fun e => !(decide (64 * t ≤ e.1) && decide (e.1 < 64 * t + 64)) }

/-- `mzero` (R240). -/
def execMzero (mask : BitVec 8) (g : Guard) (s : State) : Host.Outcome State Fault Refusal :=
  runEng .m (.mzero mask g) g (fun x => do
    let n := (← getCore).acct
    match (maskTiles mask).find? fun t => n ≤ t with
    | some t => trapM .window (BitVec.ofNat 64 t)
    | none => pure ()
    modCore fun c => (maskTiles mask).foldl Core.clearTile c
    pure (x.done 0)) s

/-- `mrel` (R241): the lease of its core ends; without one it has no effect. -/
def execMrel (g : Guard) (s : State) : Host.Outcome State Fault Refusal :=
  runEng .m (.mrel g) g (fun x => do
    modS fun s => s.releaseLease s.cur
    pure (x.done 0)) s

/-! ## The grant (R221, R222) -/

/-- The instruction is an array command (R220). -/
def isArray : Instr → Bool
  | .mma _ _ _ _ _ _ _ _ _ | .mvpBegin _ _ _ _ _ | .mvpTile _ _ | .mvpEnd _ | .mvpEndDrop _ | .mvpRegen _ _ _ _ => true
  | _ => false

/-- The queue register an array command pops. -/
def arrayPop : Instr → Option Nat
  | .mvpBegin _ _ _ q13 _ | .mvpRegen _ _ q13 _ => some (if q13 then 13 else 12)
  | _ => none

/-- A core requests the lease: its head M command is an array command that R133 would let start if the lease were held
(R221). A debug stop, a drain and a fatal event of its context change nothing here, nor do they end a lease before the cut.
Log entry 122: DESIGN CHOICE, unsafe. -/
def State.requestsLease (s : State) (i : Fin 128) : Bool :=
  let c := s.coreAt i
  match c.mq[c.nextIx .m]? with
  | none => false
  | some x =>
    isArray x.instr && c.mStop.isNone && c.pendingTrap.isNone && (x.phase == .stopped ||
      ((match instrGuard x.instr with
        | some g => !(c.pair g).isOpen && c.guardVal g
        | none => true) &&
      (match arrayPop x.instr with
        | some n => !x.popped.isEmpty || !(c.qreg n).isEmpty
        | none => true) &&
      match startCmd .m x { s with cur := i } with
        | .ok _ => true
        | .error _ => false))

/-- The position of a core in its cluster. -/
def State.position (s : State) (i : Fin 128) : Nat := s.physOf i.val % 4

/-- The priority of the context whose job a core holds. -/
def State.corePrio (s : State) (i : Fin 128) : Nat :=
  match (s.coreAt i).job with
  | some j => (s.ctxOf j.ctx).prio.toNat
  | none => 0

/-- The winner among requesting cores: the highest priority, then the first position after the last holder's. -/
def State.leaseWinner (s : State) (last : Nat) : List (Fin 128) → Option (Fin 128)
  | [] => none
  | i :: is =>
    match s.leaseWinner last is with
    | none => some i
    | some k =>
      let turn := fun j => (s.position j + 3 - last) % 4
      if s.corePrio k < s.corePrio i ∨ (s.corePrio k = s.corePrio i ∧ turn i < turn k) then some i else some k

/-- The LRUN of a core's head M command. -/
def State.headLrun (s : State) (i : Fin 128) : Nat :=
  let c := s.coreAt i
  match c.mq[c.nextIx .m]? with
  | some x => x.snap.lrun.toNat
  | none => 1

/-- The array is free: no array command of the holder stands part-way in it. -/
def Core.inArray (c : Core) : Bool := c.mq.any fun x => x.phase == .stopped

/-- LEASE_GRANT (R221, R222): a holder that does not request gives the array up to one that does; the winner of a free
array becomes its holder. -/
def execLeaseGrant (cluster : Nat) (s : State) : Host.Outcome State Fault Refusal :=
  let k : Fin 32 := ⟨cluster % 32, Nat.mod_lt _ (by decide)⟩
  let l := s.leases[k]
  let here := (List.finRange 128).filter fun i => decide (i.val < s.ncore) && decide (s.clusterOf i.val = k.val)
  let asks := here.filter fun i => s.requestsLease i
  let kept := match l.holder with
    | some h => asks.contains h || asks.isEmpty || (s.coreAt h).inArray
    | none => false
  if kept then .next s
  else
    match s.leaseWinner l.lastPos asks with
    | none => .next s
    | some w =>
      let l : Lease := { holder := some w, lastPos := s.position w, started := 0, len := s.headLrun w }
      .next { s with leases := s.leases.set k l }

end Sys2Proof.Machine
end

