-- ==== Sys2Proof/Machine/Projection.lean ====
section
/-! DEFINITION. Machine/Projection.lean: the projection unit: heaps, normalisers, `mvp.*`, `vheapm` and `vnormm` (R421
to R434). -/

namespace Sys2Proof.Machine

/-! ## Heap and normaliser (R424, R425) -/

/-- Entry a ranks above entry b. -/
def ranksAbove (a b : Word × Word) : Bool :=
  let x := f32V a.1
  let y := f32V b.1
  (!x.isNan && y.isNan) || (!x.isNan && !y.isNan && y.lt x) ||
    ((x.eqv y || (x.isNan && y.isNan)) && decide (a.2.toNat < b.2.toNat))

/-- An entry put at its rank. -/
def insertRank (a : Word × Word) : List (Word × Word) → List (Word × Word)
  | [] => [a]
  | b :: bs => if ranksAbove a b then a :: b :: bs else b :: insertRank a bs

/-- A heap of k entries after an insertion; the heap of a spoilt spill area, which has no entries, stays so. -/
def heapInsert (k : Nat) (h : List (Word × Word)) (a : Word × Word) : List (Word × Word) :=
  if h.isEmpty then h else (insertRank a h).take k

/-- An empty entry. -/
def emptyEntry : Word × Word := (0x7FC00000, 0xFFFFFFFF)

/-- The exponential term e(x, μ). -/
def expTerm (x mu : Word) : Word :=
  let v := f32V x
  let w := f32V mu
  if v.isNan || v.isInf true then 0
  else if v.eqv w then 0x3F800000
  else if w.isInf false then 0
  else
    let d := (addF .f32 v w.neg).1
    let t := (mulF .f32 (decF .f32 d) (decF .f32 0x3FB8AA3B)).1
    BitVec.ofNat 32 (exp2Lane t).1

/-- An FP32 product, rounded. -/
def mulW (a b : Word) : Word × Flags := let (r, f) := mulF .f32 (f32V a) (f32V b); (BitVec.ofNat 32 r, f)

/-- An FP32 sum, rounded. -/
def addW (a b : Word) : Word × Flags := let (r, f) := addF .f32 (f32V a) (f32V b); (BitVec.ofNat 32 r, f)

/-- The update of a row's m and s by one block of logits. -/
def normUpdate (m s : Word) (xs : List Word) : Word × Word :=
  let top := (xs.filter fun x => !(f32V x).isNan).foldl fmaxW 0xFF800000
  let m' := fmaxW m top
  (m', xs.foldl (fun a x => (addW a (expTerm x m')).1) (mulW s (expTerm m m')).1)

/-- A row at `mvp.begin` (R429). -/
def ProjRow.start (k : Nat) (label : Word) : ProjRow where
  heap := List.replicate k emptyEntry
  m := 0xFF800000
  s := 0
  label := label
  llog := 0xFF800000
  lfound := false

/-- A block of logits, of which the first has a vocabulary index, enters a row (R424 to R426). A heap that a program's
write of the spill area has lost, the empty list, stays lost. -/
def ProjRow.block (r : ProjRow) (k index : Nat) (xs : List Word) : ProjRow :=
  let es := xs.zipIdx.map fun p => (p.1, BitVec.ofNat 32 (index + p.2))
  let (m, s) := normUpdate r.m r.s xs
  let heap := if r.heap.isEmpty then [] else es.foldl (heapInsert k) r.heap
  let r := { r with heap := heap, m := m, s := s }
  match es.find? fun e => e.2 = r.label with
  | some e => { r with llog := e.1, lfound := true }
  | none => r

/-! ## The binding (R422, R424, R428) -/

/-- The unit is BOUND, or QUEUE. -/
def boundUnit : M ProjUnit := do
  match (← getCore).proj with
  | some u => pure u
  | none => trapM .queue 23

/-- The unit keeps ranks in a spill area. -/
def ProjUnit.spills (u : ProjUnit) : Bool := decide (32 < pdK u.desc)

/-- The bytes of the spill area as the unit left them.
Log entry 43: DESIGN CHOICE, unsafe. -/
def spillBytes (n len : Nat) : List Byte := (List.range len).map (Config.freeByte n)

/-- The unit writes its spill area: bytes that are unspecified to a program. -/
def writeSpill (u : ProjUnit) : M ProjUnit := do
  if u.spills then
    let n ← drawFree
    writeXs (pdField u.desc 8) (spillBytes n (pdField u.desc 12))
    pure { u with spill := n }
  else pure u

/-- The words that changed bytes hold, at any offset: those that no byte the unit left stands in.
Log entry 43: DESIGN CHOICE, unsafe. -/
def changedWords (left bs : List Byte) : List Word :=
  (List.range (bs.length - 3)).filterMap fun k =>
    let at_ := fun (xs : List Byte) => (xs.drop k).take 4
    if (List.zipWith (· != ·) (at_ left) (at_ bs)).all id then some (BitVec.ofNat 32 (leNat (at_ bs))) else none

/-- A program has written the spill area: the heaps are lost, and what it wrote may be read back as entries. -/
def readSpill (u : ProjUnit) : M ProjUnit := do
  let bs := readBytes (← getCore).xs (pdField u.desc 8) (pdField u.desc 12)
  let left := spillBytes u.spill (pdField u.desc 12)
  if u.spills && bs != left then
    pure { u with rows := u.rows.map (fun r => { r with heap := [] }), written := u.written ++ changedWords left bs }
  else pure u

/-- An entry of a lost heap (R424): a value and index that the unit has inserted, or that written words supply; which, is
a free value. -/
def ProjUnit.lostEntry (u : ProjUnit) (fresh n : Nat) : Word × Word :=
  let f := Config.freeEntry fresh n
  let k := f.1.toNat / 2
  if f.1.getLsbD 0 && !u.written.isEmpty then
    (u.written.getD (k % u.written.length) 0, u.written.getD (f.2.toNat % u.written.length) 0)
  else u.seen.getD (k % u.seen.length) emptyEntry

/-- The unit's new state. -/
def setUnit (u : Option ProjUnit) : M Unit := modCore fun c => { c with proj := u }

/-! ## mvp.begin (R429) -/

/-- The depth H of an operand. -/
def projDepth (r : BitVec 512) : Nat := lyExt r 0

/-- The scale of element e of a line of an XS record (R430). -/
def projScale (r : BitVec 512) (line e : Nat) : Nat :=
  let g := blockSize (lySg r)
  lyScaddr r + 2 * (line * stepsOf (projDepth r) g + e / g)

/-- The scales of the lines of an XS record that are read. -/
def projScales (r : BitVec 512) (n : Nat) : List (Int × Nat) :=
  if lySg r = 0 ∨ !isScaledFmt (lyFmt r) then []
  else [((lyScaddr r : Int), 2 * (min n (lyExt r 1) * stepsOf (projDepth r) (blockSize (lySg r))))]

/-- A projection descriptor keeps R422. -/
def pdOk (d : BitVec 512) : Bool :=
  let w := pdField d 0x14
  let k := pdK d
  decide (bits w 31 23 = 0) && decide (bits w 15 9 = 0) && decide (bits d.toNat 511 256 = 0) && decide (1 ≤ k) &&
    decide (k ≤ 256) && decide (1 ≤ pdRows d) && decide (pdRows d ≤ 64) && decide (pdField d 0x18 % 16 = 0) &&
    decide (16 + 8 * k ≤ pdField d 0x18)

/-- A range that a descriptor names: within the declared XS, and aligned. -/
def checkPdRange (a : Nat) (rs : List (Int × Nat)) (al : Nat) : M Unit := do
  checkXsRanges rs
  trapIf (decide (a % al ≠ 0)) .misalign (BitVec.ofNat 64 a)

/-- The checks of a descriptor at p and the records it is bound with. -/
def checkBegin (p : Nat) (d ra rw : BitVec 512) (prof : BitVec 4) : M Unit := do
  let at_ := BitVec.ofNat 64 p
  trapIf (!pdOk d) .format at_
  let n := pdRows d
  let k := pdK d
  checkPdRange (pdField d 0) [((pdField d 0 : Int), 4 * n)] 4
  checkPdRange (pdField d 4)
    ((List.range n).map fun i => (((pdField d 4 + i * pdField d 0x18 : Nat) : Int), 16 + 8 * k)) 16
  if 32 < k then do
    checkPdRange (pdField d 8) [((pdField d 8 : Int), pdField d 12)] 16
    trapIf (decide (pdField d 12 < (k - 32) * 8 * n)) .heapSpill (BitVec.ofNat 64 ((k - 32) * 8))
  else pure ()
  checkOperand ra (operandLines ra 0 64 (projDepth ra)) (projScales ra 64)
  checkOperand rw (operandLines rw 0 (lyExt rw 1) (projDepth rw)) (projScales rw (lyExt rw 1))
  trapIf (projDepth ra != projDepth rw) .window at_
  trapIf (decide (0xFFFFFFFF < pdField d 0x10 + lyExt rw 1)) .window at_
  let _ ← checkProfile prof (lyFmt ra) (lyFmt rw) 0
  if lySpace ra = 0 then checkScaling ra else pure ()
  if lySpace rw = 0 then checkScaling rw else pure ()

/-- The start of `mvp.begin`: a BOUND unit faults QUEUE and nothing changes; else it enters the array and pops (R137,
R221, R428). -/
def beginStart (q13 : Bool) (x : Cmd) : M Cmd := do
  trapIf (← getCore).proj.isSome .queue 23
  enterArray [if q13 then 13 else 12] x

/-- The body of `mvp.begin`. -/
def beginBody (a w : BitVec 3) (prof : BitVec 4) (x : Cmd) : M Cmd := do
  let p := bits (x.pop 0).toNat 31 0
  let c ← getCore
  trapIf (c.xsBad p 64).isSome .window (BitVec.ofNat 64 p)
  trapIf (decide (p % 64 ≠ 0)) .misalign (BitVec.ofNat 64 p)
  let d := BitVec.ofNat 512 (readLE c.xs p 64)
  let ra := x.snap.lyr a
  let rw := x.snap.lyr w
  checkBegin p d ra rw prof
  let label := fun i => BitVec.ofNat 32 (readLE c.xs (pdField d 0 + 4 * i) 4)
  let u ← writeSpill {
    lya := ra, lyw := rw, prof := prof, desc := d, descAddr := BitVec.ofNat 32 p, next := 0
    rows := (List.range (pdRows d)).map fun i => ProjRow.start (pdK d) (label i), spill := 0
    seen := [emptyEntry], written := [] }
  setUnit (some u)
  endLease
  pure (x.done 0)

/-- `mvp.begin` (R429). -/
def execMvpBegin (a w : BitVec 3) (prof : BitVec 4) (q13 : Bool) (g : Guard) (s : State) :
    Host.Outcome State Fault Refusal :=
  runEngWith .m 1 (.mvpBegin a w prof q13 g) g (beginStart q13) (beginBody a w prof) s

/-! ## The K-steps of a block (R430) -/

/-- The integer domain of R42 for two records. -/
def projInt (u : ProjUnit) : Bool :=
  let plain := fun r => (lyFmt r == 4 || lyFmt r == 8) && decide (lySg r = 0)
  plain u.lya && plain u.lyw

/-- The codebook table of an XS CB4 record, read when its command starts (R227). -/
def projTable (r : BitVec 512) : M (List Nat) :=
  if lySpace r = 0 ∧ lyFmt r = 5 then readTableBits false (lyCb r) else pure []

/-- The tables of both records, A's in positions 0 to 15 and W's from 16 on. -/
def unitTables (u : ProjUnit) : M (List Nat) := do
  let a ← projTable u.lya
  let w ← projTable u.lyw
  pure (a ++ List.replicate (16 - a.length) 0 ++ w)

/-- The rest of the start of a command that folds a block: the checks of R227 on the records, and the tables. -/
def blockStart (x : Cmd) : M Cmd := do
  if x.phase = .waiting then
    let u ← boundUnit
    if lySpace u.lya = 3 then checkScaling u.lya else pure ()
    if lySpace u.lyw = 3 then checkScaling u.lyw else pure ()
    let t ← unitTables u
    pure { x with phase := .stopped, table := t }
  else pure x

/-- K-step g of block n folded into a tile, with the tables of the command's start. -/
def projStep (u : ProjUnit) (table : List Nat) (t n g : Nat) : M Flags := do
  let k := kOf (lyFmt u.lya)
  let p := (profileOf u.prof).getD .np1
  let (la, lw) := (List.range 64, (List.range 64).map (64 * n + ·))
  let (rows, cols) ← if lySpace u.lya = 3 ∧ lySpace u.lyw = 3 then readTogether u.lya u.lyw la lw (g * k) k
    else do
      let vals := fun (xs : List Nat) => xs.map (decF .bf16)
      let rows ← readLines u.lya la (g * k) k (projScale u.lya) (vals (table.take 16))
      let cols ← readLines u.lyw lw (g * k) k (projScale u.lyw) (vals (table.drop 16))
      pure (rows, cols)
  let f ← foldGroups t (projInt u) p.group (g == 0) rows cols (List.range (stepsOf k p.group))
  modS fun s => s.perfCount 2 (arrayCycles 0 (lyFmt u.lyw))
  pure (matrixFlags f)

/-- Several K-steps. -/
def projSteps (u : ProjUnit) (table : List Nat) (t n : Nat) : List Nat → M Flags
  | [] => pure 0
  | g :: gs => do
    let f ← projStep u table t n g
    let fs ← projSteps u table t n gs
    pure (f ||| fs)

/-- A block's folds and then one act on the tile: one step at a time, between which the command stands at a stop point
when it is `fine` (R98) or its operands are GLOBAL; else all steps at once. -/
def projBlock (fine : Bool) (u : ProjUnit) (t n : Nat) (x : Cmd) (act : M Flags) : M Cmd := do
  let steps := stepsOf (projDepth u.lya) (kOf (lyFmt u.lya))
  if !fine ∧ lySpace u.lya = 0 ∧ lySpace u.lyw = 0 then
    let f ← projSteps u x.table t n (List.range steps)
    let e ← act
    endLease
    pure (x.done (f ||| e))
  else
    let f ← projStep u x.table t n x.progress
    if steps ≤ x.progress + 1 then
      let e ← act
      endLease
      pure (x.done (f ||| e))
    else pure { x with phase := .stopped, progress := x.progress + 1, flags := x.flags ||| f }

/-! ## mvp.tile and mvp.end (R430, R431) -/

/-- The columns of block n. -/
def projCols (u : ProjUnit) (n : Nat) : Nat := min 64 (lyExt u.lyw 1 - 64 * n)

/-- The one act of `mvp.tile`. -/
def tileAct (t : Nat) : M Flags := do
  let u ← readSpill (← boundUnit)
  let c ← getCore
  let n := projCols u u.next
  let block := fun (i : Nat) => (lanesOf (c.accRow t i)).take n
  let rows := u.rows.zipIdx.map fun r =>
    r.1.block (pdK u.desc) (pdField u.desc 0x10 + 64 * u.next) (block r.2)
  let nan := (List.range u.rows.length).any fun i => (block i).any fun x => (f32V x).isNan
  let new := (List.range u.rows.length).flatMap fun i => (block i).zipIdx.map fun e =>
    (e.1, BitVec.ofNat 32 (pdField u.desc 0x10 + 64 * u.next + e.2))
  let u ← writeSpill { u with rows := rows, next := u.next + 1, seen := if u.spills then u.seen ++ new else u.seen }
  modCore fun c => { c.clearTile t with proj := some u }
  pure (flagIf nan flagIV)

/-- The start of `mvp.tile`: its issue check, a block to process, and the lease. -/
def tileStart (t : BitVec 3) (x : Cmd) : M Cmd := do
  checkTile t
  let u ← boundUnit
  trapIf (decide (lyExt u.lyw 1 ≤ 64 * u.next)) .queue 23
  enterArray [] x

/-- The body of `mvp.tile`. -/
def tileBody (t : BitVec 3) (x : Cmd) : M Cmd := do
  let u ← boundUnit
  projBlock true u t.toNat u.next x (tileAct t.toNat)

/-- `mvp.tile` (R430). -/
def execMvpTile (t : BitVec 3) (g : Guard) (s : State) : Host.Outcome State Fault Refusal :=
  runEngFrom .m 1 (.mvpTile t g) g (tileStart t) blockStart (tileBody t) s

/-- A row record's bytes from its fields (R423). -/
def rowRecord (u : ProjUnit) (r : ProjRow) (k fresh row : Nat) : List Byte :=
  let entries := (List.range k).map fun n => (r.heap[n]?).getD (u.lostEntry fresh (row * 256 + n))
  leBytes 4 r.m.toNat ++ leBytes 4 r.s.toNat ++ leBytes 4 r.llog.toNat ++
    leBytes 4 (k + if r.lfound then 2 ^ 31 else 0) ++
    entries.flatMap fun e => leBytes 4 e.1.toNat ++ leBytes 4 e.2.toNat

/-- `mvp.end` (R431). -/
def execMvpEnd (g : Guard) (s : State) : Host.Outcome State Fault Refusal :=
  runEng .m (.mvpEnd g) g (fun x => do
    let u ← readSpill (← boundUnit)
    needLease
    countLease x
    let fresh ← drawFree
    forM' (fun (p : ProjRow × Nat) =>
      writeXs (pdField u.desc 4 + p.2 * pdField u.desc 0x18) (rowRecord u p.1 (pdK u.desc) fresh p.2)) u.rows.zipIdx
    setUnit none
    endLease
    pure (x.done 0)) s

/-- `mvp.end.drop` (R431). -/
def execMvpEndDrop (g : Guard) (s : State) : Host.Outcome State Fault Refusal :=
  runEng .m (.mvpEndDrop g) g (fun x => do
    let _ ← boundUnit
    needLease
    countLease x
    setUnit none
    endLease
    pure (x.done 0)) s

/-! ## mvp.regen (R432) -/

/-- The quotient of R432 and its flags: OF where a finite nonzero number is divided by zero. -/
def quotW (a b : Word) : Word × Flags :=
  match divV (f32V a) (f32V b) with
  | none => (0x7FC00000, flagIV)
  | some q =>
    let (r, f) := toF32 q
    let beyond : Bool := !(f32V a).isNan && !(f32V a).isInf true && !(f32V a).isInf false && !(f32V a).isZero &&
      (f32V b).isZero
    (r, f ||| flagIf beyond flagOF)

/-- One gradient element. -/
def gradElem (x m s u : Word) (hit : Bool) : Word × Flags :=
  let (p, f1) := quotW (expTerm x m) s
  let (g, f2) := addF .f32 (f32V p) (f32V (if hit then 0x3F800000 else 0)).neg
  let (r, f3) := mulW (BitVec.ofNat 32 g) u
  (r, f1 ||| f2 ||| f3)

/-- The one act of `mvp.regen`. -/
def regenAct (u : ProjUnit) (t n : Nat) (r : BitVec 512) : M Flags := fun s =>
  let m := s.core.xs
  let w := fun a => BitVec.ofNat 32 (readLE m a 4)
  let step := fun (st : Core × Flags) (i : Nat) =>
    let xs := lanesOf (st.1.accRow t i)
    let a := natOf (lyBase r + (i : Int) * lyStride r 1)
    let out := xs.zipIdx.map fun p =>
      match u.rows[i]? with
      | some row =>
        if p.2 < projCols u n then
          gradElem p.1 (w a) (w (a + 4)) (w (pdField u.desc 0x1C + 4 * i))
            (row.label == BitVec.ofNat 32 (pdField u.desc 0x10 + 64 * n + p.2))
        else (0, 0)
      | none => (0, 0)
    (st.1.setAccRow t i (ofLanes (out.map (·.1))), out.foldl (fun f p => f ||| p.2) st.2)
  let (c, f) := (List.range 64).foldl step (s.core, 0)
  .ok (matrixFlags f, s.setCore c)

/-- The row records of a set lie in XS at multiples of 16 (R433, steps 1 and 2). -/
def checkRowSpace (rs : List (BitVec 512)) : M Unit := do
  match rs.find? fun r => lySpace r ≠ 0 with
  | some r => trapM .window (BitVec.ofNat 64 (lyBase r))
  | none => pure ()
  match rs.find? fun r => lyBase r % 16 ≠ 0 ∨ lyStride r 1 % 16 ≠ 0 with
  | some r => trapM .misalign (BitVec.ofNat 64 (lyBase r))
  | none => pure ()

/-- The address of row k of a record. -/
def rowAddr (r : BitVec 512) (k : Nat) : Int := lyBase r + (k : Int) * lyStride r 1

/-- Rows in ascending order, and for each the records in order, lie within the declared XS (R433, steps 4 and 6). -/
def checkRows (rs : List (BitVec 512)) (n : Nat) (extent : Nat → Nat) : M Unit := do
  let e : Int := (← getCore).barBase
  forM' (fun (k : Nat) => forM' (fun r =>
    let a := rowAddr r k
    let b := a + extent k
    trapIf (decide (a < 0) || decide (e < b)) .window
      (BitVec.ofNat 64 (wrapI 32 (if a < 0 then a else max a e)))) rs) (List.range n)

/-- The start of `mvp.regen`: an UNBOUND unit faults QUEUE and nothing changes; else it enters the array and pops (R137,
R221, R428). -/
def regenStart (t : BitVec 3) (q13 : Bool) (x : Cmd) : M Cmd := do
  checkTile t
  let _ ← boundUnit
  enterArray [if q13 then 13 else 12] x

/-- The checks of `mvp.regen` once it has its block number n, and the tables (R432). -/
def regenCheck (r : BitVec 3) (x : Cmd) : M Cmd := do
  if x.phase = .waiting then
    let u ← boundUnit
    let n := bits (x.pop 0).toNat 31 0
    let ly := x.snap.lyr r
    trapIf (decide (lyExt u.lyw 1 ≤ 64 * n)) .window (BitVec.ofNat 64 n)
    checkRowSpace [ly]
    trapIf (decide (lyExt ly 1 < u.rows.length)) .window (BitVec.ofNat 64 (lyBase ly))
    checkRows [ly] (lyExt ly 1) fun _ => 16
    checkPdRange (pdField u.desc 0x1C) [((pdField u.desc 0x1C : Int), 4 * u.rows.length)] 4
    blockStart x
  else pure x

/-- The body of `mvp.regen`. -/
def regenBody (t r : BitVec 3) (x : Cmd) : M Cmd := do
  let u ← boundUnit
  let n := bits (x.pop 0).toNat 31 0
  let ly := x.snap.lyr r
  projBlock false u t.toNat n x (do
    countConflicts ((List.range u.rows.length).flatMap fun i => chunksOf (natOf (rowAddr ly i)) 16)
    regenAct u t.toNat n ly)

/-- `mvp.regen` (R432). -/
def execMvpRegen (t r : BitVec 3) (q13 : Bool) (g : Guard) (s : State) : Host.Outcome State Fault Refusal :=
  runEngFrom .m 1 (.mvpRegen t r q13 g) g (regenStart t q13) (regenCheck r) (regenBody t r) s

/-! ## vheapm and vnormm (R433, R434) -/

/-- K in the header of a row. -/
def rowK (m : Mem) (r : BitVec 512) (k : Nat) : Nat := bits (readLE m (natOf (rowAddr r k) + 12) 4) 8 0

/-- Two records name the same rows. -/
def sameRows (d a : BitVec 512) : Bool := lyBase d == lyBase a && lyStride d 1 == lyStride a 1

/-- The rows of two records share no byte. -/
def rowsApart (d a : BitVec 512) (n : Nat) (extent : Nat → Nat) : Bool :=
  (List.range n).all fun i => (List.range n).all fun j =>
    decide (rowAddr d i + extent i ≤ rowAddr a j) || decide (rowAddr a j + extent j ≤ rowAddr d i)

/-- The checks of R433 in their order; `heaps` is `vheapm`. -/
def checkMerge (heaps : Bool) (d a b : BitVec 512) : M Unit := do
  checkRowSpace [d, a, b]
  trapIf (lyExt d 1 != lyExt a 1 || lyExt d 1 != lyExt b 1) .window (BitVec.ofNat 64 (lyBase d))
  let n := lyExt d 1
  checkRows [d, a, b] n fun _ => 16
  let m := (← getCore).xs
  let bad := fun k => rowK m a k != rowK m b k || decide (rowK m a k < 1) || decide (256 < rowK m a k)
  if heaps then
    match (List.range n).find? bad with
    | some k => trapM .format (BitVec.ofNat 64 (natOf (rowAddr a k)))
    | none => pure ()
  else pure ()
  let extent := fun k => if heaps then 16 + 8 * rowK m a k else 16
  checkRows [d, a, b] n extent
  trapIf (!(sameRows d a || sameRows d b || (rowsApart d a n extent && rowsApart d b n extent))) .overlap 0

/-- The entries of a row. -/
def rowEntries (m : Mem) (a k : Nat) : List (Word × Word) :=
  (List.range k).map fun n => (BitVec.ofNat 32 (readLE m (a + 16 + 8 * n) 4), BitVec.ofNat 32 (readLE m (a + 20 + 8 * n) 4))

/-- The cycles that the reads of the rows of records lose: for each row one read of all the records (R230).
Log entry 69: DESIGN CHOICE, safe. -/
def countRows (rs : List (BitVec 512)) (n : Nat) (extent : Nat → Nat) : M Unit :=
  forM' (fun k => countConflicts (rs.flatMap fun r => chunksOf (natOf (rowAddr r k)) (extent k))) (List.range n)

/-- `vheapm` on one row. -/
def mergeHeap (d a b : BitVec 512) (m : Mem) (r : Nat) : Mem :=
  let k := rowK m a r
  let es := (rowEntries m (natOf (rowAddr a r)) k ++ rowEntries m (natOf (rowAddr b r)) k).foldl
    (fun h e => insertRank e h) []
  writeBytes m (natOf (rowAddr d r) + 16) ((es.take k).flatMap fun e => leBytes 4 e.1.toNat ++ leBytes 4 e.2.toNat)

/-- `vheapm` (R434). -/
def execVheapm (d a b : BitVec 3) (g : Guard) (s : State) : Host.Outcome State Fault Refusal :=
  runEng .v (.vheapm d a b g) g (fun x => do
    let (d, a, b) := (x.snap.lyr d, x.snap.lyr a, x.snap.lyr b)
    checkMerge true d a b
    let m := (← getCore).xs
    countRows [a, b] (lyExt d 1) fun k => 16 + 8 * rowK m a k
    modCore fun c => { c with xs := (List.range (lyExt d 1)).foldl (mergeHeap d a b) c.xs }
    pure (x.done 0)) s

/-- `vnormm` on one row, with the flags of its two roundings (R36, R434). -/
def mergeNorm (d a b : BitVec 512) (st : Mem × Flags) (r : Nat) : Mem × Flags :=
  let m := st.1
  let w := fun rec off => BitVec.ofNat 32 (readLE m (natOf (rowAddr rec r) + off) 4)
  let top := fmaxW (w a 0) (w b 0)
  let (v, f1) := mulW (w a 4) (expTerm (w a 0) top)
  let (sum, f2) := fmaF .f32 false false (f32V (w b 4)) (f32V (expTerm (w b 0) top)) (f32V v)
  let (llog, found) :=
    if (w a 12).getLsbD 31 then (w a 8, true) else if (w b 12).getLsbD 31 then (w b 8, true) else (0xFF800000, false)
  let hdr := rowK m a r + if found then 2 ^ 31 else 0
  (writeBytes m (natOf (rowAddr d r))
    (leBytes 4 top.toNat ++ leBytes 4 sum ++ leBytes 4 llog.toNat ++ leBytes 4 hdr), st.2 ||| f1 ||| f2)

/-- `vnormm` (R434). -/
def execVnormm (d a b : BitVec 3) (g : Guard) (s : State) : Host.Outcome State Fault Refusal :=
  runEng .v (.vnormm d a b g) g (fun x => do
    let (d, a, b) := (x.snap.lyr d, x.snap.lyr a, x.snap.lyr b)
    checkMerge false d a b
    countRows [a, b] (lyExt d 1) fun _ => 16
    let (m, f) := (List.range (lyExt d 1)).foldl (mergeNorm d a b) ((← getCore).xs, 0)
    modCore fun c => { c with xs := m }
    pure (x.done f)) s

end Sys2Proof.Machine
end

