-- ==== Sys2Proof/Machine/Scalar.lean ====
section
/-! DEFINITION. Machine/Scalar.lean: the integer instructions of the S slot, on registers and immediates (R158 to
R161). -/

namespace Sys2Proof.Machine

/-- A register-register instruction: X[xd] := f X[xa] X[xb]. -/
def alu (f : DWord → DWord → DWord) (d a b : XReg) (s : State) : Host.Outcome State Fault Refusal :=
  .next (s.modCore fun c => (c.wx d (f (c.rx a) (c.rx b))).advance)

/-- A division: the result and its DZ (R159). -/
def aluDiv (f : DWord → DWord → DWord × Flags) (d a b : XReg) (s : State) : Host.Outcome State Fault Refusal :=
  .next (s.modCore fun c => c.writeFlagged d (f (c.rx a) (c.rx b)))

/-- A one-operand instruction: X[xd] := f X[xa]. -/
def alu1 (f : DWord → DWord) (d a : XReg) (s : State) : Host.Outcome State Fault Refusal :=
  .next (s.modCore fun c => (c.wx d (f (c.rx a))).advance)

/-- The number of leading zero bits among the low n bits. -/
def leadingZeros (x : DWord) : Nat → Nat
  | 0 => 0
  | n + 1 => if x.getLsbD n then 0 else leadingZeros x n + 1

/-- The number of one bits among the low n bits. -/
def onesBelow (x : DWord) : Nat → Nat
  | 0 => 0
  | n + 1 => onesBelow x n + if x.getLsbD n then 1 else 0

/-- The value whose bit i is bit 63 - i of x. -/
def bitReverse (x : DWord) : DWord := x.reverse

/-- `add` (R158). -/
def execAdd (d a b : XReg) (s : State) : Host.Outcome State Fault Refusal :=
  alu (fun a b => a + b) d a b s

/-- `sub` (R158). -/
def execSub (d a b : XReg) (s : State) : Host.Outcome State Fault Refusal :=
  alu (fun a b => a - b) d a b s

/-- `mul` (R158). -/
def execMul (d a b : XReg) (s : State) : Host.Outcome State Fault Refusal :=
  alu (fun a b => a * b) d a b s

/-- `mulh` (R158). -/
def execMulh (d a b : XReg) (s : State) : Host.Outcome State Fault Refusal :=
  alu (fun a b => BitVec.ofNat 64 (a.toNat * b.toNat / 2 ^ 64)) d a b s

/-- `mulhs` (R158). -/
def execMulhs (d a b : XReg) (s : State) : Host.Outcome State Fault Refusal :=
  alu (fun a b => BitVec.ofInt 64 (a.toInt * b.toInt / 2 ^ 64)) d a b s

/-- `and` (R158). -/
def execAnd (d a b : XReg) (s : State) : Host.Outcome State Fault Refusal :=
  alu (fun a b => a &&& b) d a b s

/-- `or` (R158). -/
def execOr (d a b : XReg) (s : State) : Host.Outcome State Fault Refusal :=
  alu (fun a b => a ||| b) d a b s

/-- `xor` (R158). -/
def execXor (d a b : XReg) (s : State) : Host.Outcome State Fault Refusal :=
  alu (fun a b => a ^^^ b) d a b s

/-- `andn` (R158). -/
def execAndn (d a b : XReg) (s : State) : Host.Outcome State Fault Refusal :=
  alu (fun a b => a &&& ~~~b) d a b s

/-- `shl` (R158). -/
def execShl (d a b : XReg) (s : State) : Host.Outcome State Fault Refusal :=
  alu (fun a b => a <<< (b.toNat % 64)) d a b s

/-- `shr` (R158). -/
def execShr (d a b : XReg) (s : State) : Host.Outcome State Fault Refusal :=
  alu (fun a b => a >>> (b.toNat % 64)) d a b s

/-- `sra` (R158). -/
def execSra (d a b : XReg) (s : State) : Host.Outcome State Fault Refusal :=
  alu (fun a b => a.sshiftRight (b.toNat % 64)) d a b s

/-- `min` (R158). -/
def execMinu (d a b : XReg) (s : State) : Host.Outcome State Fault Refusal :=
  alu (fun a b => if a.toNat < b.toNat then a else b) d a b s

/-- `max` (R158). -/
def execMaxu (d a b : XReg) (s : State) : Host.Outcome State Fault Refusal :=
  alu (fun a b => if a.toNat < b.toNat then b else a) d a b s

/-- `mins` (R158). -/
def execMins (d a b : XReg) (s : State) : Host.Outcome State Fault Refusal :=
  alu (fun a b => if a.toInt < b.toInt then a else b) d a b s

/-- `maxs` (R158). -/
def execMaxs (d a b : XReg) (s : State) : Host.Outcome State Fault Refusal :=
  alu (fun a b => if a.toInt < b.toInt then b else a) d a b s

/-- `slt` (R158). -/
def execSlt (d a b : XReg) (s : State) : Host.Outcome State Fault Refusal :=
  alu (fun a b => if a.toInt < b.toInt then 1 else 0) d a b s

/-- `sltu` (R158). -/
def execSltu (d a b : XReg) (s : State) : Host.Outcome State Fault Refusal :=
  alu (fun a b => if a.toNat < b.toNat then 1 else 0) d a b s

/-- `seq` (R158). -/
def execSeq (d a b : XReg) (s : State) : Host.Outcome State Fault Refusal :=
  alu (fun a b => if a = b then 1 else 0) d a b s

/-- `sne` (R158). -/
def execSne (d a b : XReg) (s : State) : Host.Outcome State Fault Refusal :=
  alu (fun a b => if a = b then 0 else 1) d a b s

/-- `div` (R158, R159). -/
def execDiv (d a b : XReg) (s : State) : Host.Outcome State Fault Refusal := aluDiv divU d a b s

/-- `divs` (R158, R159). -/
def execDivs (d a b : XReg) (s : State) : Host.Outcome State Fault Refusal := aluDiv divS d a b s

/-- `rem` (R158, R159). -/
def execRem (d a b : XReg) (s : State) : Host.Outcome State Fault Refusal := aluDiv remU d a b s

/-- `rems` (R158, R159). -/
def execRems (d a b : XReg) (s : State) : Host.Outcome State Fault Refusal := aluDiv remS d a b s

/-- `clz` (R158). -/
def execClz (d a : XReg) (s : State) : Host.Outcome State Fault Refusal :=
  alu1 (fun a => BitVec.ofNat 64 (leadingZeros a 64)) d a s

/-- `popc` (R158). -/
def execPopc (d a : XReg) (s : State) : Host.Outcome State Fault Refusal :=
  alu1 (fun a => BitVec.ofNat 64 (onesBelow a 64)) d a s

/-- `brev` (R158). -/
def execBrev (d a : XReg) (s : State) : Host.Outcome State Fault Refusal :=
  alu1 (bitReverse) d a s

/-- `addi` (R160). -/
def execAddi (d a : XReg) (imm : Half) (s : State) : Host.Outcome State Fault Refusal :=
  alu1 (fun a => a + imm.signExtend 64) d a s

/-- `andi` (R160). -/
def execAndi (d a : XReg) (imm : Half) (s : State) : Host.Outcome State Fault Refusal :=
  alu1 (fun a => a &&& imm.zeroExtend 64) d a s

/-- `ori` (R160). -/
def execOri (d a : XReg) (imm : Half) (s : State) : Host.Outcome State Fault Refusal :=
  alu1 (fun a => a ||| imm.zeroExtend 64) d a s

/-- `xori` (R160). -/
def execXori (d a : XReg) (imm : Half) (s : State) : Host.Outcome State Fault Refusal :=
  alu1 (fun a => a ^^^ imm.zeroExtend 64) d a s

/-- `slti` (R160). -/
def execSlti (d a : XReg) (imm : Half) (s : State) : Host.Outcome State Fault Refusal :=
  alu1 (fun a => if a.toInt < imm.toInt then 1 else 0) d a s

/-- `sltiu` (R160). -/
def execSltiu (d a : XReg) (imm : Half) (s : State) : Host.Outcome State Fault Refusal :=
  alu1 (fun a => if a.toNat < (imm.signExtend 64).toNat then 1 else 0) d a s

/-- `hii` (R160, R161). -/
def execHii (d a : XReg) (imm : Half) (s : State) : Host.Outcome State Fault Refusal :=
  alu1 (fun a => (a <<< 16) ||| imm.zeroExtend 64) d a s

/-- `shli` (R160). -/
def execShli (d a : XReg) (n : BitVec 6) (s : State) : Host.Outcome State Fault Refusal :=
  alu1 (fun a => a <<< n.toNat) d a s

/-- `shri` (R160). -/
def execShri (d a : XReg) (n : BitVec 6) (s : State) : Host.Outcome State Fault Refusal :=
  alu1 (fun a => a >>> n.toNat) d a s

/-- `srai` (R160). -/
def execSrai (d a : XReg) (n : BitVec 6) (s : State) : Host.Outcome State Fault Refusal :=
  alu1 (fun a => a.sshiftRight n.toNat) d a s

/-- `nop` (R49, R177). -/
def execNop (s : State) : Host.Outcome State Fault Refusal := .next (s.modCore Core.advance)

end Sys2Proof.Machine
end

