-- ==== Sys2Proof/Machine/Dispatch.lean ====
section
/-! DEFINITION. Machine/Dispatch.lean: one arm per instruction and event of the opcode table, each a direct call of its
meaning. -/

namespace Sys2Proof.Machine

/-- What an instruction or an event does to the machine. -/
def exec (i : Instr) (s : State) : Host.Outcome State Fault Refusal :=
  match i with
  | .vaddF32 rl d a b g => Sys2Proof.Machine.execVaddF32 rl d a b g s
  | .vsubF32 rl d a b g => Sys2Proof.Machine.execVsubF32 rl d a b g s
  | .vmulF32 rl d a b g => Sys2Proof.Machine.execVmulF32 rl d a b g s
  | .vmaxF32 rl d a b g => Sys2Proof.Machine.execVmaxF32 rl d a b g s
  | .vminF32 rl d a b g => Sys2Proof.Machine.execVminF32 rl d a b g s
  | .vabsF32 rl d a g => Sys2Proof.Machine.execVabsF32 rl d a g s
  | .vnegF32 rl d a g => Sys2Proof.Machine.execVnegF32 rl d a g s
  | .vaddBf16 rl d a b g => Sys2Proof.Machine.execVaddBf16 rl d a b g s
  | .vsubBf16 rl d a b g => Sys2Proof.Machine.execVsubBf16 rl d a b g s
  | .vmulBf16 rl d a b g => Sys2Proof.Machine.execVmulBf16 rl d a b g s
  | .vmaxBf16 rl d a b g => Sys2Proof.Machine.execVmaxBf16 rl d a b g s
  | .vminBf16 rl d a b g => Sys2Proof.Machine.execVminBf16 rl d a b g s
  | .vabsBf16 rl d a g => Sys2Proof.Machine.execVabsBf16 rl d a g s
  | .vnegBf16 rl d a g => Sys2Proof.Machine.execVnegBf16 rl d a g s
  | .vaddF16 rl d a b g => Sys2Proof.Machine.execVaddF16 rl d a b g s
  | .vsubF16 rl d a b g => Sys2Proof.Machine.execVsubF16 rl d a b g s
  | .vmulF16 rl d a b g => Sys2Proof.Machine.execVmulF16 rl d a b g s
  | .vmaxF16 rl d a b g => Sys2Proof.Machine.execVmaxF16 rl d a b g s
  | .vminF16 rl d a b g => Sys2Proof.Machine.execVminF16 rl d a b g s
  | .vabsF16 rl d a g => Sys2Proof.Machine.execVabsF16 rl d a g s
  | .vnegF16 rl d a g => Sys2Proof.Machine.execVnegF16 rl d a g s
  | .vfmaF32 rl d a b g => Sys2Proof.Machine.execVfmaF32 rl d a b g s
  | .vfmsF32 rl d a b g => Sys2Proof.Machine.execVfmsF32 rl d a b g s
  | .vfnmaF32 rl d a b g => Sys2Proof.Machine.execVfnmaF32 rl d a b g s
  | .vfnmsF32 rl d a b g => Sys2Proof.Machine.execVfnmsF32 rl d a b g s
  | .vfmaBf16 rl d a b g => Sys2Proof.Machine.execVfmaBf16 rl d a b g s
  | .vfmsBf16 rl d a b g => Sys2Proof.Machine.execVfmsBf16 rl d a b g s
  | .vfnmaBf16 rl d a b g => Sys2Proof.Machine.execVfnmaBf16 rl d a b g s
  | .vfnmsBf16 rl d a b g => Sys2Proof.Machine.execVfnmsBf16 rl d a b g s
  | .vfmaF16 rl d a b g => Sys2Proof.Machine.execVfmaF16 rl d a b g s
  | .vfmsF16 rl d a b g => Sys2Proof.Machine.execVfmsF16 rl d a b g s
  | .vfnmaF16 rl d a b g => Sys2Proof.Machine.execVfnmaF16 rl d a b g s
  | .vfnmsF16 rl d a b g => Sys2Proof.Machine.execVfnmsF16 rl d a b g s
  | .vaddI32 rl d a b g => Sys2Proof.Machine.execVaddI32 rl d a b g s
  | .vsubI32 rl d a b g => Sys2Proof.Machine.execVsubI32 rl d a b g s
  | .vmulI32 rl d a b g => Sys2Proof.Machine.execVmulI32 rl d a b g s
  | .vmulhI32 rl d a b g => Sys2Proof.Machine.execVmulhI32 rl d a b g s
  | .vminI32 rl d a b g => Sys2Proof.Machine.execVminI32 rl d a b g s
  | .vmaxI32 rl d a b g => Sys2Proof.Machine.execVmaxI32 rl d a b g s
  | .vminuI32 rl d a b g => Sys2Proof.Machine.execVminuI32 rl d a b g s
  | .vmaxuI32 rl d a b g => Sys2Proof.Machine.execVmaxuI32 rl d a b g s
  | .vaddsI32 rl d a b g => Sys2Proof.Machine.execVaddsI32 rl d a b g s
  | .vsubsI32 rl d a b g => Sys2Proof.Machine.execVsubsI32 rl d a b g s
  | .vabsI32 rl d a g => Sys2Proof.Machine.execVabsI32 rl d a g s
  | .vnegI32 rl d a g => Sys2Proof.Machine.execVnegI32 rl d a g s
  | .vaddI16 rl d a b g => Sys2Proof.Machine.execVaddI16 rl d a b g s
  | .vsubI16 rl d a b g => Sys2Proof.Machine.execVsubI16 rl d a b g s
  | .vmulI16 rl d a b g => Sys2Proof.Machine.execVmulI16 rl d a b g s
  | .vmulhI16 rl d a b g => Sys2Proof.Machine.execVmulhI16 rl d a b g s
  | .vminI16 rl d a b g => Sys2Proof.Machine.execVminI16 rl d a b g s
  | .vmaxI16 rl d a b g => Sys2Proof.Machine.execVmaxI16 rl d a b g s
  | .vminuI16 rl d a b g => Sys2Proof.Machine.execVminuI16 rl d a b g s
  | .vmaxuI16 rl d a b g => Sys2Proof.Machine.execVmaxuI16 rl d a b g s
  | .vaddsI16 rl d a b g => Sys2Proof.Machine.execVaddsI16 rl d a b g s
  | .vsubsI16 rl d a b g => Sys2Proof.Machine.execVsubsI16 rl d a b g s
  | .vabsI16 rl d a g => Sys2Proof.Machine.execVabsI16 rl d a g s
  | .vnegI16 rl d a g => Sys2Proof.Machine.execVnegI16 rl d a g s
  | .vand rl d a b g => Sys2Proof.Machine.execVand rl d a b g s
  | .vor rl d a b g => Sys2Proof.Machine.execVor rl d a b g s
  | .vxor rl d a b g => Sys2Proof.Machine.execVxor rl d a b g s
  | .vandn rl d a b g => Sys2Proof.Machine.execVandn rl d a b g s
  | .vnot rl d a g => Sys2Proof.Machine.execVnot rl d a g s
  | .vshl rl d a b g => Sys2Proof.Machine.execVshl rl d a b g s
  | .vshr rl d a b g => Sys2Proof.Machine.execVshr rl d a b g s
  | .vsra rl d a b g => Sys2Proof.Machine.execVsra rl d a b g s
  | .vceqF32 rl d a b g => Sys2Proof.Machine.execVceqF32 rl d a b g s
  | .vcneF32 rl d a b g => Sys2Proof.Machine.execVcneF32 rl d a b g s
  | .vcltF32 rl d a b g => Sys2Proof.Machine.execVcltF32 rl d a b g s
  | .vcleF32 rl d a b g => Sys2Proof.Machine.execVcleF32 rl d a b g s
  | .vceqI32 rl d a b g => Sys2Proof.Machine.execVceqI32 rl d a b g s
  | .vcneI32 rl d a b g => Sys2Proof.Machine.execVcneI32 rl d a b g s
  | .vcltI32 rl d a b g => Sys2Proof.Machine.execVcltI32 rl d a b g s
  | .vcleI32 rl d a b g => Sys2Proof.Machine.execVcleI32 rl d a b g s
  | .vcltUi32 rl d a b g => Sys2Proof.Machine.execVcltUi32 rl d a b g s
  | .vcleUi32 rl d a b g => Sys2Proof.Machine.execVcleUi32 rl d a b g s
  | .vsel rl d a b g => Sys2Proof.Machine.execVsel rl d a b g s
  | .vcvtBf16F32 rl d a part mode g => Sys2Proof.Machine.execVcvtBf16F32 rl d a part mode g s
  | .vcvtF16F32 rl d a part mode g => Sys2Proof.Machine.execVcvtF16F32 rl d a part mode g s
  | .vcvtF32Bf16 rl d a part mode g => Sys2Proof.Machine.execVcvtF32Bf16 rl d a part mode g s
  | .vcvtF32F16 rl d a part mode g => Sys2Proof.Machine.execVcvtF32F16 rl d a part mode g s
  | .vcvtI32F32 rl d a part mode g => Sys2Proof.Machine.execVcvtI32F32 rl d a part mode g s
  | .vcvtF32I32 rl d a part mode g => Sys2Proof.Machine.execVcvtF32I32 rl d a part mode g s
  | .vcvtUi32F32 rl d a part mode g => Sys2Proof.Machine.execVcvtUi32F32 rl d a part mode g s
  | .vcvtF32Ui32 rl d a part mode g => Sys2Proof.Machine.execVcvtF32Ui32 rl d a part mode g s
  | .vcvtE4F32 rl d a part mode g => Sys2Proof.Machine.execVcvtE4F32 rl d a part mode g s
  | .vcvtE5F32 rl d a part mode g => Sys2Proof.Machine.execVcvtE5F32 rl d a part mode g s
  | .vcvtF32E4 rl d a part mode g => Sys2Proof.Machine.execVcvtF32E4 rl d a part mode g s
  | .vcvtF32E5 rl d a part mode g => Sys2Proof.Machine.execVcvtF32E5 rl d a part mode g s
  | .vcvtF4F32 rl d a part mode g => Sys2Proof.Machine.execVcvtF4F32 rl d a part mode g s
  | .vcvtF32F4 rl d a part mode g => Sys2Proof.Machine.execVcvtF32F4 rl d a part mode g s
  | .vcvtI8I32 rl d a part mode g => Sys2Proof.Machine.execVcvtI8I32 rl d a part mode g s
  | .vcvtI16I32 rl d a part mode g => Sys2Proof.Machine.execVcvtI16I32 rl d a part mode g s
  | .vamax n a g => Sys2Proof.Machine.execVamax n a g s
  | .vamaxr d n g => Sys2Proof.Machine.execVamaxr d n g s
  | .vquantE4 d a bs g => Sys2Proof.Machine.execVquantE4 d a bs g s
  | .vquantE5 d a bs g => Sys2Proof.Machine.execVquantE5 d a bs g s
  | .vquantF4 d a bs g => Sys2Proof.Machine.execVquantF4 d a bs g s
  | .vdeqE4 d a bs g => Sys2Proof.Machine.execVdeqE4 d a bs g s
  | .vdeqE5 d a bs g => Sys2Proof.Machine.execVdeqE5 d a bs g s
  | .vdeqF4 d a bs g => Sys2Proof.Machine.execVdeqF4 d a bs g s
  | .vrsumF32 d a g => Sys2Proof.Machine.execVrsumF32 d a g s
  | .vrmaxF32 d a g => Sys2Proof.Machine.execVrmaxF32 d a g s
  | .vrminF32 d a g => Sys2Proof.Machine.execVrminF32 d a g s
  | .vrsumI32 d a g => Sys2Proof.Machine.execVrsumI32 d a g s
  | .vrmaxI32 d a g => Sys2Proof.Machine.execVrmaxI32 d a g s
  | .vrminI32 d a g => Sys2Proof.Machine.execVrminI32 d a g s
  | .vperm rl d a b g => Sys2Proof.Machine.execVperm rl d a b g s
  | .vbcast rl d a n g => Sys2Proof.Machine.execVbcast rl d a n g s
  | .vext rl d a n g => Sys2Proof.Machine.execVext rl d a n g s
  | .vins rl d a n g => Sys2Proof.Machine.execVins rl d a n g s
  | .vmov d a g => Sys2Proof.Machine.execVmov d a g s
  | .vsetview a g => Sys2Proof.Machine.execVsetview a g s
  | .vsetwview a g => Sys2Proof.Machine.execVsetwview a g s
  | .vgetview d g => Sys2Proof.Machine.execVgetview d g s
  | .vld rl d n k g => Sys2Proof.Machine.execVld rl d n k g s
  | .vldW rl w n k g => Sys2Proof.Machine.execVldW rl w n k g s
  | .vst rl n a k g => Sys2Proof.Machine.execVst rl n a k g s
  | .vstW rl n w k g => Sys2Proof.Machine.execVstW rl n w k g s
  | .vlds rl d n k g => Sys2Proof.Machine.execVlds rl d n k g s
  | .vsts rl n a k g => Sys2Proof.Machine.execVsts rl n a k g s
  | .vgath rl d n b g => Sys2Proof.Machine.execVgath rl d n b g s
  | .vscat rl n a b g => Sys2Proof.Machine.execVscat rl n a b g s
  | .vcpush a b g => Sys2Proof.Machine.execVcpush a b g s
  | .vcpop d g => Sys2Proof.Machine.execVcpop d g s
  | .vccnt d g => Sys2Proof.Machine.execVccnt d g s
  | .vimm fmt d imm g => Sys2Proof.Machine.execVimm fmt d imm g s
  | .vxexp d a g => Sys2Proof.Machine.execVxexp d a g s
  | .vxmant d a g => Sys2Proof.Machine.execVxmant d a g s
  | .vldexp d a b g => Sys2Proof.Machine.execVldexp d a b g s
  | .vaccRd d t row g => Sys2Proof.Machine.execVaccRd d t row g s
  | .vaccWr t a row g => Sys2Proof.Machine.execVaccWr t a row g s
  | .vheapm d a b g => Sys2Proof.Machine.execVheapm d a b g s
  | .vnormm d a b g => Sys2Proof.Machine.execVnormm d a b g s
  | .vsig f ofs g => Sys2Proof.Machine.execVsig f ofs g s
  | .vwait f g => Sys2Proof.Machine.execVwait f g s
  | .vgset mode n a g => Sys2Proof.Machine.execVgset mode n a g s
  | .mma t a b prof zf ta tb pl g => Sys2Proof.Machine.execMma t a b prof zf ta tb pl g s
  | .mzero mask g => Sys2Proof.Machine.execMzero mask g s
  | .mvpBegin a w prof q13 g => Sys2Proof.Machine.execMvpBegin a w prof q13 g s
  | .mvpTile t g => Sys2Proof.Machine.execMvpTile t g s
  | .mvpEnd g => Sys2Proof.Machine.execMvpEnd g s
  | .mvpEndDrop g => Sys2Proof.Machine.execMvpEndDrop g s
  | .mvpRegen t r q13 g => Sys2Proof.Machine.execMvpRegen t r q13 g s
  | .mrel g => Sys2Proof.Machine.execMrel g s
  | .msig f ofs g => Sys2Proof.Machine.execMsig f ofs g s
  | .mwait f g => Sys2Proof.Machine.execMwait f g s
  | .ccopy rl d a b g => Sys2Proof.Machine.execCcopy rl d a b g s
  | .cplane rl d a b g => Sys2Proof.Machine.execCplane rl d a b g s
  | .cconv rl d a b mode g => Sys2Proof.Machine.execCconv rl d a b mode g s
  | .cgath rl d a b idx g => Sys2Proof.Machine.execCgath rl d a b idx g s
  | .cscat rl d a b idx g => Sys2Proof.Machine.execCscat rl d a b idx g s
  | .cfill rl d b q15 g => Sys2Proof.Machine.execCfill rl d b q15 g s
  | .cdrain rl d t b int mode g => Sys2Proof.Machine.execCdrain rl d t b int mode g s
  | .ctxb g => Sys2Proof.Machine.execCtxb g s
  | .ctxe g => Sys2Proof.Machine.execCtxe g s
  | .cput q15 g => Sys2Proof.Machine.execCput q15 g s
  | .cputNf q15 g => Sys2Proof.Machine.execCputNf q15 g s
  | .cputred q15 g => Sys2Proof.Machine.execCputred q15 g s
  | .cputredNf q15 g => Sys2Proof.Machine.execCputredNf q15 g s
  | .carm g => Sys2Proof.Machine.execCarm g s
  | .cadd q15 g => Sys2Proof.Machine.execCadd q15 g s
  | .caddNf q15 g => Sys2Proof.Machine.execCaddNf q15 g s
  | .csend ch n g => Sys2Proof.Machine.execCsend ch n g s
  | .crecv ch q7 g => Sys2Proof.Machine.execCrecv ch q7 g s
  | .crel ch g => Sys2Proof.Machine.execCrel ch g s
  | .cstash n slot rc g => Sys2Proof.Machine.execCstash n slot rc g s
  | .cfetch n slot q7 g => Sys2Proof.Machine.execCfetch n slot q7 g s
  | .cdrop slot g => Sys2Proof.Machine.execCdrop slot g s
  | .cpref q15 g => Sys2Proof.Machine.execCpref q15 g s
  | .csig f ofs g => Sys2Proof.Machine.execCsig f ofs g s
  | .csigNf f ofs g => Sys2Proof.Machine.execCsigNf f ofs g s
  | .cwait f g => Sys2Proof.Machine.execCwait f g s
  | .cfence g => Sys2Proof.Machine.execCfence g s
  | .nop => Sys2Proof.Machine.execNop s
  | .halt => Sys2Proof.Machine.execHalt s
  | .brk code => Sys2Proof.Machine.execBrk code s
  | .trap code => Sys2Proof.Machine.execTrap code s
  | .eret => Sys2Proof.Machine.execEret s
  | .tfence => Sys2Proof.Machine.execTfence s
  | .qfence mask => Sys2Proof.Machine.execQfence mask s
  | .srr d r => Sys2Proof.Machine.execSrr d r s
  | .srw r a => Sys2Proof.Machine.execSrw r a s
  | .endJob => Sys2Proof.Machine.execEndJob s
  | .add d a b => Sys2Proof.Machine.execAdd d a b s
  | .sub d a b => Sys2Proof.Machine.execSub d a b s
  | .mul d a b => Sys2Proof.Machine.execMul d a b s
  | .mulh d a b => Sys2Proof.Machine.execMulh d a b s
  | .mulhs d a b => Sys2Proof.Machine.execMulhs d a b s
  | .div d a b => Sys2Proof.Machine.execDiv d a b s
  | .divs d a b => Sys2Proof.Machine.execDivs d a b s
  | .rem d a b => Sys2Proof.Machine.execRem d a b s
  | .rems d a b => Sys2Proof.Machine.execRems d a b s
  | .and d a b => Sys2Proof.Machine.execAnd d a b s
  | .or d a b => Sys2Proof.Machine.execOr d a b s
  | .xor d a b => Sys2Proof.Machine.execXor d a b s
  | .andn d a b => Sys2Proof.Machine.execAndn d a b s
  | .shl d a b => Sys2Proof.Machine.execShl d a b s
  | .shr d a b => Sys2Proof.Machine.execShr d a b s
  | .sra d a b => Sys2Proof.Machine.execSra d a b s
  | .minu d a b => Sys2Proof.Machine.execMinu d a b s
  | .maxu d a b => Sys2Proof.Machine.execMaxu d a b s
  | .mins d a b => Sys2Proof.Machine.execMins d a b s
  | .maxs d a b => Sys2Proof.Machine.execMaxs d a b s
  | .slt d a b => Sys2Proof.Machine.execSlt d a b s
  | .sltu d a b => Sys2Proof.Machine.execSltu d a b s
  | .seq d a b => Sys2Proof.Machine.execSeq d a b s
  | .sne d a b => Sys2Proof.Machine.execSne d a b s
  | .clz d a => Sys2Proof.Machine.execClz d a s
  | .popc d a => Sys2Proof.Machine.execPopc d a s
  | .brev d a => Sys2Proof.Machine.execBrev d a s
  | .addi d a imm => Sys2Proof.Machine.execAddi d a imm s
  | .andi d a imm => Sys2Proof.Machine.execAndi d a imm s
  | .ori d a imm => Sys2Proof.Machine.execOri d a imm s
  | .xori d a imm => Sys2Proof.Machine.execXori d a imm s
  | .shli d a n => Sys2Proof.Machine.execShli d a n s
  | .shri d a n => Sys2Proof.Machine.execShri d a n s
  | .srai d a n => Sys2Proof.Machine.execSrai d a n s
  | .slti d a imm => Sys2Proof.Machine.execSlti d a imm s
  | .sltiu d a imm => Sys2Proof.Machine.execSltiu d a imm s
  | .hii d a imm => Sys2Proof.Machine.execHii d a imm s
  | .ldB d a imm => Sys2Proof.Machine.execLdB d a imm s
  | .ldH d a imm => Sys2Proof.Machine.execLdH d a imm s
  | .ldW d a imm => Sys2Proof.Machine.execLdW d a imm s
  | .ldD d a imm => Sys2Proof.Machine.execLdD d a imm s
  | .ldsB d a imm => Sys2Proof.Machine.execLdsB d a imm s
  | .ldsH d a imm => Sys2Proof.Machine.execLdsH d a imm s
  | .ldsW d a imm => Sys2Proof.Machine.execLdsW d a imm s
  | .ldf d a imm => Sys2Proof.Machine.execLdf d a imm s
  | .stB d a imm => Sys2Proof.Machine.execStB d a imm s
  | .stH d a imm => Sys2Proof.Machine.execStH d a imm s
  | .stW d a imm => Sys2Proof.Machine.execStW d a imm s
  | .stD d a imm => Sys2Proof.Machine.execStD d a imm s
  | .redAdd a b dbl => Sys2Proof.Machine.execRedAdd a b dbl s
  | .redAnd a b dbl => Sys2Proof.Machine.execRedAnd a b dbl s
  | .redOr a b dbl => Sys2Proof.Machine.execRedOr a b dbl s
  | .redXor a b dbl => Sys2Proof.Machine.execRedXor a b dbl s
  | .redMax a b dbl => Sys2Proof.Machine.execRedMax a b dbl s
  | .redMin a b dbl => Sys2Proof.Machine.execRedMin a b dbl s
  | .redFmax a b => Sys2Proof.Machine.execRedFmax a b s
  | .redFmin a b => Sys2Proof.Machine.execRedFmin a b s
  | .beq a b off => Sys2Proof.Machine.execBeq a b off s
  | .bne a b off => Sys2Proof.Machine.execBne a b off s
  | .blt a b off => Sys2Proof.Machine.execBlt a b off s
  | .bge a b off => Sys2Proof.Machine.execBge a b off s
  | .bltu a b off => Sys2Proof.Machine.execBltu a b off s
  | .bgeu a b off => Sys2Proof.Machine.execBgeu a b off s
  | .j off => Sys2Proof.Machine.execJ off s
  | .jal off => Sys2Proof.Machine.execJal off s
  | .jr a => Sys2Proof.Machine.execJr a s
  | .jalr d a => Sys2Proof.Machine.execJalr d a s
  | .call off => Sys2Proof.Machine.execCall off s
  | .ret => Sys2Proof.Machine.execRet s
  | .loop l1 a off => Sys2Proof.Machine.execLoop l1 a off s
  | .pushm a b => Sys2Proof.Machine.execPushm a b s
  | .popm a b => Sys2Proof.Machine.execPopm a b s
  | .gopen n => Sys2Proof.Machine.execGopen n s
  | .gset n a => Sys2Proof.Machine.execGset n a s
  | .sig f b => Sys2Proof.Machine.execSig f b s
  | .sigRemote f a b => Sys2Proof.Machine.execSigRemote f a b s
  | .sigNf f a b => Sys2Proof.Machine.execSigNf f a b s
  | .wait f b => Sys2Proof.Machine.execWait f b s
  | .qput n a => Sys2Proof.Machine.execQput n a s
  | .qget d n => Sys2Proof.Machine.execQget d n s
  | .barInit a b => Sys2Proof.Machine.execBarInit a b s
  | .barArrive a b => Sys2Proof.Machine.execBarArrive a b s
  | .barArriveNf a b => Sys2Proof.Machine.execBarArriveNf a b s
  | .barWait a b => Sys2Proof.Machine.execBarWait a b s
  | .barXin a b => Sys2Proof.Machine.execBarXin a b s
  | .barXout a b => Sys2Proof.Machine.execBarXout a b s
  | .evSet a q => Sys2Proof.Machine.execEvSet a q s
  | .evClr a q => Sys2Proof.Machine.execEvClr a q s
  | .evWait a q => Sys2Proof.Machine.execEvWait a q s
  | .childLaunch a => Sys2Proof.Machine.execLaunch a s
  | .lsqNext d => Sys2Proof.Machine.execLsqNext d s
  | .lsqInfo d item => Sys2Proof.Machine.execLsqInfo d item s
  | .pgCnt a b => Sys2Proof.Machine.execPgCnt a b s
  | .pgHintUp a b => Sys2Proof.Machine.execPgHintUp a b s
  | .pgHintDown a b => Sys2Proof.Machine.execPgHintDown a b s
  | .tlbInvPage a => Sys2Proof.Machine.execTlbInvPage a s
  | .tlbInvCtx => Sys2Proof.Machine.execTlbInvCtx s
  | .tlbInvAll => Sys2Proof.Machine.execTlbInvAll s
  | .mbPostF a st => Sys2Proof.Machine.execMbPostF a st s
  | .mbPostB a st => Sys2Proof.Machine.execMbPostB a st s
  | .mbDone st => Sys2Proof.Machine.execMbDone st s
  | .mbPol a => Sys2Proof.Machine.execMbPol a s
  | .mbVerCur d => Sys2Proof.Machine.execMbVerCur d s
  | .mbVerNew d => Sys2Proof.Machine.execMbVerNew d s
  | .gnset n a => Sys2Proof.Machine.execGnset n a s
  | .lyset n a => Sys2Proof.Machine.execLyset n a s
  | .lyseth n a b => Sys2Proof.Machine.execLyseth n a b s
  | .bdset n a => Sys2Proof.Machine.execBdset n a s
  | .trcMark a => Sys2Proof.Machine.execTrcMark a s
  | .digRd d w => Sys2Proof.Machine.execDigRd d w s
  | .digClr => Sys2Proof.Machine.execDigClr s
  | .commandComplete c e => Sys2Proof.Machine.execCommandComplete c e s
  | .discard c e => Sys2Proof.Machine.execDiscard c e s
  | .trapEntry c => Sys2Proof.Machine.execTrapEntry c s
  | .eccUncorrectable ctx lidx => Sys2Proof.Machine.execEccUncorrectable ctx lidx s
  | .leaseGrant cluster => Sys2Proof.Machine.execLeaseGrant cluster s
  | .relocationTake owner e sib => Sys2Proof.Machine.execRelocationTake owner e sib s
  | .postedStorePerform c k => Sys2Proof.Machine.execPostedStorePerform c k s
  | .redPerform c k => Sys2Proof.Machine.execRedPerform c k s
  | .signalArrival k => Sys2Proof.Machine.execSignalArrival k s
  | .create ctx arg cookie => Sys2Proof.Machine.execCreate ctx arg cookie s
  | .bind ctx arg cookie => Sys2Proof.Machine.execBind ctx arg cookie s
  | .hostLaunch ctx arg cookie => Sys2Proof.Machine.execHostLaunch ctx arg cookie s
  | .preempt ctx arg cookie => Sys2Proof.Machine.execPreempt ctx arg cookie s
  | .resume ctx arg cookie => Sys2Proof.Machine.execResume ctx arg cookie s
  | .destroy ctx arg cookie => Sys2Proof.Machine.execDestroy ctx arg cookie s
  | .setprio ctx arg cookie => Sys2Proof.Machine.execSetprio ctx arg cookie s
  | .coreAcknowledge c => Sys2Proof.Machine.execCoreAcknowledge c s
  | .groupSelect => Sys2Proof.Machine.execGroupSelect s
  | .jobStartComplete c => Sys2Proof.Machine.execJobStartComplete c s
  | .jobEnded c => Sys2Proof.Machine.execJobEnded c s
  | .groupRetire slot => Sys2Proof.Machine.execGroupRetire slot s
  | .weirHeldSubmit => Sys2Proof.Machine.execWeirHeldSubmit s
  | .transferDecrement k => Sys2Proof.Machine.execTransferDecrement k s
  | .barrierCompletion handle => Sys2Proof.Machine.execBarrierCompletion handle s
  | .faultBufferWrite => Sys2Proof.Machine.execFaultBufferWrite s
  | .replay ctx => Sys2Proof.Machine.execReplay ctx s
  | .replayAbort ctx => Sys2Proof.Machine.execReplayAbort ctx s
  | .hostTlbinvPage va ctx => Sys2Proof.Machine.execHostTlbinvPage va ctx s
  | .hostTlbinvCtx ctx => Sys2Proof.Machine.execHostTlbinvCtx ctx s
  | .hostTlbinvAll => Sys2Proof.Machine.execHostTlbinvAll s
  | .demotion ctx va => Sys2Proof.Machine.execDemotion ctx va s
  | .promotion ctx va => Sys2Proof.Machine.execPromotion ctx va s
  | .sumpMoveComplete k => Sys2Proof.Machine.execSumpMoveComplete k s
  | .flitReceive port crcOk => Sys2Proof.Machine.execFlitReceive port crcOk s
  | .flitTimeout port => Sys2Proof.Machine.execFlitTimeout port s
  | .laneLoss port => Sys2Proof.Machine.execLaneLoss port s
  | .chctlWrite n v => Sys2Proof.Machine.execChctlWrite n v s
  | .culvertDelivery ch m => Sys2Proof.Machine.execCulvertDelivery ch m s
  | .culvertAck a => Sys2Proof.Machine.execCulvertAck a s
  | .windowUpdate ch wlim => Sys2Proof.Machine.execWindowUpdate ch wlim s
  | .csendTimeout ch => Sys2Proof.Machine.execCsendTimeout ch s
  | .entryFire qp => Sys2Proof.Machine.execEntryFire qp s
  | .entrySend qp => Sys2Proof.Machine.execEntrySend qp s
  | .qpDelivery m => Sys2Proof.Machine.execQpDelivery m s
  | .qpAcknowledgement qp st => Sys2Proof.Machine.execQpAcknowledgement qp st s
  | .qpRefusal qp st => Sys2Proof.Machine.execQpRefusal qp st s
  | .qpRetransmit qp => Sys2Proof.Machine.execQpRetransmit qp s
  | .qpEntryTimeout qp => Sys2Proof.Machine.execQpEntryTimeout qp s
  | .reducerStep k => Sys2Proof.Machine.execReducerStep k s
  | .compressionComplete key => Sys2Proof.Machine.execCompressionComplete key s
  | .grottoPromotionComplete key => Sys2Proof.Machine.execGrottoPromotionComplete key s
  | .dbgStop c => Sys2Proof.Machine.execDbgStop c s
  | .dbgGo c => Sys2Proof.Machine.execDbgGo c s
  | .dbgStep c => Sys2Proof.Machine.execDbgStep c s
  | .debugStopEntered c => Sys2Proof.Machine.execDebugStopEntered c s
  | .debugWrite c off v => Sys2Proof.Machine.execDebugWrite c off v s
  | .freeze => Sys2Proof.Machine.execFreeze s
  | .unfreeze => Sys2Proof.Machine.execUnfreeze s
  | .traceSample => Sys2Proof.Machine.execTraceSample s
  | .pcselWrite v => Sys2Proof.Machine.execPcselWrite v s
  | .pcvalRead => Sys2Proof.Machine.execPcvalRead s
  | .attestationRequest => Sys2Proof.Machine.execAttestationRequest s
  | .attestationReport => Sys2Proof.Machine.execAttestationReport s
  | .powerEvaluation m => Sys2Proof.Machine.execPowerEvaluation m s
  | .powerOnReset b => Sys2Proof.Machine.execPowerOnReset b s
  | .hostReset b => Sys2Proof.Machine.execHostReset b s
  | .hostAccess pa a => Sys2Proof.Machine.execHostAccess pa a s
  | .registerWrite off v => Sys2Proof.Machine.execRegisterWrite off v s
  | .linkTrainingComplete port => Sys2Proof.Machine.execLinkTrainingComplete port s

end Sys2Proof.Machine
end

