-- ==== Sys2Proof/Machine/Run.lean ====
section
/-! DEFINITION. Machine/Run.lean: what a step does: a bundle's fetch, decode and issue, an engine's next command, the
device's events and the command ring (R47 to R51, R78, R133 to R135, R152, R153, R174, R226, R361, R439, R441). -/

namespace Sys2Proof.Machine

noncomputable section

/-- The next state changed. -/
def onNext (f : State → State) (o : Host.Outcome State Fault Refusal) : Host.Outcome State Fault Refusal :=
  match o with
  | .next s => .next (f s)
  | .fault r => .fault r
  | .refused r => .refused r

/-! ## The sequencer (R47 to R51, R78, R174) -/

/-- A core's sequencer may take its next bundle: it has a job of a context that executes, which nothing stops. -/
def State.mayIssue (s : State) (i : Fin 128) : Bool :=
  let c := s.coreAt i
  match c.job with
  | none => false
  | some j =>
    ((s.ctxOf j.ctx).state == .running || (s.ctxOf j.ctx).state == .faultWait) &&
      !j.starting && !j.stopping && !j.preempted && !j.escalated && c.sStop.isNone && c.pendingTrap.isNone &&
      c.seq == .fetching && (c.debug == .running || c.debug == .stepping)

/-- The bundle at the PC: POOL_FETCH for an address outside the code object or in a pool line (a
POOLMAP of 0 says there is none, R268), then the fetch, whose
page must grant X (R47, R77, R78, R169, R316).
Log entry 17: DEDUCED, unsafe. -/
def fetchBundle : M Bundle := do
  let c ← getCore
  let j ← getJob
  let pc := c.pc.toNat
  trapIf (decide (pc < j.code.toNat) || decide (j.code.toNat + 16 * j.nbun ≤ pc)) .poolFetch c.pc
  let line := (pc - j.code.toNat) / 64
  let b ← if j.poolmap = 0 then pure 0 else deviceNat j.ctx (j.poolmap.toNat + line / 8) 1
  trapIf (bitN b (line % 8)) .poolFetch c.pc
  trapIf (!isGlobal pc) .page (pageInfo pc 0 false)
  let e ← translate .fetch pc
  let xs ← pieceBytes e false pc 16
  countLine e pc (← locate e pc false) 16
  pure (BitVec.ofNat 128 (leNat xs))

/-- The slot of an engine's words. -/
def engSlot : Eng → Slot
  | .v => .v
  | .m => .m
  | .c => .c

/-- The number of a slot in TINFO (R50). -/
def slotCode : Slot → Nat
  | .s => 0
  | .v => 1
  | .m => 2
  | .c => 3

/-- The word of a slot makes its bundle ILLEGAL; beside an `eret` any engine word does (R49, R50, R94). -/
def badSlot (b : Bundle) (sl : Slot) : Bool :=
  (decode sl (b.slot sl)).isNone && (sl == .s || b.slot sl != 0) ||
    sl != .s && b.slot sl != 0 && decode .s (b.slot .s) == some .eret

/-- TINFO of ILLEGAL for a bundle: its first offending word in the order S, V, M, C (R50). -/
def illegalInfo (b : Bundle) : Option DWord :=
  ([Slot.s, .v, .m, .c].find? (badSlot b)).map fun sl => BitVec.ofNat 64 (slotCode sl * 2 ^ 32 + (b.slot sl).toNat)

/-- The engine words of a bundle, in the order of their snapshots (R48, R49). -/
def engWords (b : Bundle) : List (Eng × Instr) :=
  [Eng.v, .m, .c].filterMap fun e => (decode (engSlot e) (b.slot (engSlot e))).map (Prod.mk e)

/-- The bundles with an engine word that has neither completed nor been discarded, a parked one with them (R135). -/
def Core.outstanding (c : Core) : Nat := ((c.uncompleted.map (·.iseq)).eraseDups).length

/-- A bundle waits for room in the queues it needs and under the slip limit (R48, R97, R135).
Log entry 18: DEDUCED, unsafe. -/
def issueGate (ws : List (Eng × Instr)) : M Unit := do
  let c ← getCore
  waitIf (ws.any fun w => decide (32 ≤ (c.queue w.1).length)) .engine
  waitIf (decide (c.sr.slipmax.toNat < c.outstanding) ||
    !ws.isEmpty && decide (c.sr.slipmax.toNat ≤ c.outstanding)) .engine

/-- The end of an S word: its bundle issues if it has completed. -/
def State.afterS (ws : List (Eng × Instr)) (iseq : Word) (s : State) : State :=
  let s := { s with words := [] }
  if s.core.issue = .done then s.issued ws iseq else s

/-- The core's next bundle, before its S word: fetched and decoded. -/
def takeBundle : M Bundle := do
  let b ← fetchBundle
  match illegalInfo b with
  | some info => trapM .illegal info
  | none => pure ()
  pure b

/-- A head that the queues or the slip limit hold is in the class of what holds its S word as well, where that stands
earlier in the list of R154. -/
def State.gateHead (s : State) (o : Host.Outcome State Fault Refusal) : State :=
  let h := match o with
    | .next t => match t.core.issue, t.core.head with
      | .notDone, .waitFlag n => Head.waitFlag n
      | .notDone, .waitScoreboard => .waitScoreboard
      | _, _ => .waitEngine
    | _ => .waitEngine
  s.modCore fun c => { c with head := h, issue := .notDone }

/-- The sequencer of a core takes its next bundle (R48). -/
def State.runBundle (s : State) (i : Fin 128) : Host.Outcome State Fault Refusal :=
  if !s.mayIssue i then .next s
  else
    let s := { s with cur := i, skip := 0 }.modCore fun c => { c with issue := .none_ }
    match takeBundle s with
    | .error (x, perf) => .next ((s.keepMisses x perf).stopS x)
    | .ok (b, t) =>
      match decode .s (b.slot .s) with
      | none => .next t
      | some w =>
        let o := exec w { t with words := engWords b }
        match issueGate (engWords b) t with
        | .error _ => .next (s.gateHead o)
        | .ok _ => onNext (State.afterS (engWords b) s.core.iseq) o

/-! ## The engines (R91, R98, R133, R152, R153, R439, R441) -/

/-- A taken command that has executed or gone leaves its sibling (R153). -/
def State.endTaken (s : State) (o : Fin 128) (e : Eng) (iseq : Word) : State :=
  let c := s.coreAt o
  if (c.queue e).any fun x => x.iseq = iseq ∧ !x.phase.passed then s else s.setCoreAt o (c.setTaken e none)

/-- A sibling executes the command it has taken, as its owner's (R153). -/
def State.runTaken (s : State) (o : Fin 128) (e : Eng) (iseq : Word) : Host.Outcome State Fault Refusal :=
  let c := s.coreAt o
  match (c.queue e).findIdx? fun x => x.iseq = iseq with
  | none => .next (s.setCoreAt o (c.setTaken e none))
  | some k =>
    match (c.queue e)[k]? with
    | none => .next s
    | some x =>
      if s.mayExecute o e x then
        onNext (fun t => State.endTaken { t with skip := 0 } o e iseq)
          (exec x.instr { s with cur := o, skip := k - c.nextIx e })
      else .next s

/-- An engine of a core executes the command at its head, unless a sibling has taken it (R133). -/
def State.runOwn (s : State) (i : Fin 128) (e : Eng) : Host.Outcome State Fault Refusal :=
  let c := s.coreAt i
  match (c.queue e)[c.nextIx e]? with
  | none => .next s
  | some x =>
    if (c.taken e).map (·.2) = some x.iseq ∨ !s.mayExecute i e x then .next s
    else exec x.instr { s with cur := i, skip := 0 }

/-- An engine of a core. -/
def State.runEngine (s : State) (i : Fin 128) (e : Eng) : Host.Outcome State Fault Refusal :=
  match s.ownerOf i e with
  | some (o, n) => s.runTaken o e n
  | none => s.runOwn i e

/-- A slot of a core. -/
def State.runSlot (s : State) (i : Fin 128) (sl : Slot) : Host.Outcome State Fault Refusal :=
  match sl with
  | .s => s.runBundle i
  | .v => s.runEngine i .v
  | .m => s.runEngine i .m
  | .c => s.runEngine i .c

/-! ## The command ring (R361, R362) -/

/-- The device takes the command at the head of the ring; an unknown OP or a set reserved field completes STATE.
Log entry 21: DEDUCED, unsafe. -/
def State.doorbell (s : State) : Host.Outcome State Fault Refusal :=
  let r := s.regs
  if !s.mailboxFree ∨ r.mqprod = r.mqcons then .next s
  else
    let a := bits r.mqbase.toNat 50 12 * 4096 + 32 * (r.mqcons.toNat % 2 ^ ringLog (r.mqbase.toNat % 32) 12)
    let w := readLE s.mem a 8
    let id : CtxId := BitVec.ofNat 16 (bits w 31 16)
    let arg : DWord := BitVec.ofNat 64 (readLE s.mem (a + 8) 8)
    let cookie : DWord := BitVec.ofNat 64 (readLE s.mem (a + 16) 8)
    let bad := Host.Outcome.next (s.takeCommand.complete 3 id cookie)
    if bits w 15 8 ≠ 0 ∨ bits w 63 32 ≠ 0 ∨ readLE s.mem (a + 24) 8 ≠ 0 then bad
    else
      match bits w 7 0 with
      | 1 => execCreate id arg cookie s
      | 2 => execBind id arg cookie s
      | 3 => execHostLaunch id arg cookie s
      | 4 => execPreempt id arg cookie s
      | 5 => execResume id arg cookie s
      | 6 => execDestroy id arg cookie s
      | 7 => execSetprio id arg cookie s
      | _ => bad

/-! ## What may happen now (R87, R449, R454) -/

/-- The row of the table is an event, not an encoded word. -/
def isEvent (i : Instr) : Bool := (encode i).isNone

/-- The core whose state an event changes, for those that change one core's. -/
def State.eventCore (s : State) : Instr → Option (Fin 128)
  | .commandComplete c _ | .discard c _ | .trapEntry c | .jobStartComplete c | .jobEnded c | .coreAcknowledge c
  | .postedStorePerform c _ | .redPerform c _ | .debugStopEntered c | .relocationTake c _ _ => some (coreIx c)
  | .signalArrival k => (s.signals[k]?).map (·.target)
  | .transferDecrement k => (s.decrements[k]?).map fun d => handleHome d.handle
  | .barrierCompletion h => some (handleHome h)
  | _ => none

/-- A core stands frozen by a fatal event of its context (R87).
Log entry 19: DEDUCED, safe. -/
def State.coreFrozen (s : State) (i : Fin 128) : Bool :=
  match (s.coreAt i).job with
  | some j => (s.ctxOf j.ctx).state == .error
  | none => false

/-- What the microcontroller does whatever the package's state. -/
def alwaysOn : Instr → Bool
  | .powerOnReset _ | .hostReset _ | .powerEvaluation _ => true
  | _ => false

/-- What the SCL port and the aperture do while every other clock stands (R449). -/
def overScl : Instr → Bool
  | .freeze | .unfreeze | .registerWrite _ _ | .debugWrite _ _ _ => true
  | _ => false

/-- The package's clocks run (R449, R454). -/
def State.clocked (s : State) : Bool := s.windowOpen && !s.frozen

/-- An event can happen: phase 5 is reached and the clocks run, but for what is always on and, once the window is open,
what comes over SCL; a core's own state stands while a fatal event has frozen it.
Log entry 15: DEDUCED, safe. -/
def State.eventOk (s : State) (i : Instr) : Bool :=
  isEvent i && (alwaysOn i || (overScl i && s.windowOpen) || s.clocked) && match s.eventCore i with
    | some c => !s.coreFrozen c
    | none => true

/-- Cores held without jobs are given back, drains that are complete end, a completion goes to its ring, writes of TLBINV
that wait begin (R85, R295, R345, R362). -/
def State.settle (s : State) : State := s.returnCores.settleDrains.flushCompletion.settleInv

/-- What an engine finds of the head of its queue when it tries it: that it holds it, or that the head goes on. Nothing else
of the trial stays (R154). -/
def State.tryHead (s : State) (i : Fin 128) (e : Eng) : State :=
  let c := s.coreAt i
  let k := c.nextIx e
  match (c.queue e)[k]? with
  | none => s
  | some x =>
    if (c.taken e).map (·.2) = some x.iseq ∨ !s.mayExecute i e x then s
    else match exec x.instr { s with cur := i, skip := 0 } with
      | .next t =>
        let y := ((t.coreAt i).queue e)[k]?
        let h := match y with
          | some y => if y.iseq = x.iseq ∧ y.progress = x.progress ∧ y.popped = x.popped then y.held else none
          | none => none
        s.setCoreAt i (c.putCmd e k { x with held := h })
      | _ => s

/-- The same of the S head. -/
def State.tryS (s : State) (i : Fin 128) : State :=
  if !s.mayIssue i then s
  else match s.runBundle i with
    | .next t =>
      let c := t.coreAt i
      s.setCoreAt i { s.coreAt i with head := if c.issue = .notDone ∧ c.pendingTrap.isNone ∧ c.sStop.isNone then c.head else .issuing }
    | _ => s

/-- Every head is tried before a sample (R154, R445). -/
def State.tryHeads (s : State) : State :=
  { (List.finRange 128).foldl (fun s i => [Eng.v, .m, .c].foldl (fun s e => s.tryHead i e) (s.tryS i)) s with
    cur := s.cur, skip := s.skip }

/-- The heads that an event rests on have been tried: all of them for a sample (R154, R445), the C head of a core that is to
be cut (R98). -/
def State.tried (s : State) : Instr → State
  | .traceSample => s.tryHeads
  | .trapEntry c | .coreAcknowledge c => { s.tryHead (coreIx c) .c with cur := s.cur, skip := s.skip }
  | _ => s

/-- An action.
Log entry 76: DESIGN CHOICE, safe. -/
def State.act (s : State) (a : Action) : Host.Outcome State Fault Refusal :=
  match a with
  | .event i =>
    if s.eventOk i then onNext State.settle (exec i (s.tried i)) else .next s
  | .run c sl => if s.clocked then onNext State.settle (s.runSlot c sl) else .next s
  | .evict k =>
    let n := s.tlb.length
    .next (if !s.clocked then s else if k < n then { s with tlb := s.tlb.eraseIdx k } else { s with tables := s.tables.eraseIdx (k - n) })
  | .doorbell => if s.clocked then onNext State.settle s.doorbell else .next s

/-! ## The device's own events that stand ready -/

/-- The events of one core that stand ready. -/
def State.coreEvents (s : State) (i : Fin 128) : List Action :=
  let c := s.coreAt i
  let n := i.val
  let on := fun (p : Bool) (x : Instr) => if p then [Action.event x] else []
  match c.job with
  | none => on ((c.debug).isStopped == false && c.debug != .running && c.debug != .stepping) (.debugStopEntered n)
  | some j =>
    on (c.vq.any fun x => x.phase == .executed) (.commandComplete n .v) ++
    on (c.mq.any fun x => x.phase == .executed) (.commandComplete n .m) ++
    on (c.cq.any fun x => x.phase == .executed) (.commandComplete n .c) ++
    on (c.pendingTrap.isSome && s.canCut i) (.trapEntry n) ++
    on j.starting (.jobStartComplete n) ++
    on (c.drained && !j.starting && !j.stopping) (.jobEnded n) ++
    on (j.stopping && s.canCut i) (.coreAcknowledge n) ++
    (match c.posted.findIdx? fun p => p.parked.isNone && !p.held with
      | some k => match c.posted[k]? with
        | some p => [.event (if p.op.isNone then .postedStorePerform n k else .redPerform n k)]
        | none => []
      | none => []) ++
    (match c.debug with
      | .stopping _ => on (s.debugQuiet i) (.debugStopEntered n)
      | _ => []) ++
    (List.range j.nbar).filterMap fun k =>
      let h := BitVec.ofNat 24 (n * 2 ^ 17 + (j.xsb - 16 * j.nbar) / 16 + k)
      if (s.barrier h).state = 2 then some (.event (.barrierCompletion h)) else none

/-- The slots of a core that have something to do. -/
def State.coreRuns (s : State) (i : Fin 128) : List Action :=
  let c := s.coreAt i
  let eng := fun (e : Eng) (sl : Slot) =>
    if (s.ownerOf i e).isSome || (match (c.queue e)[c.nextIx e]? with
      | some x => s.mayExecute i e x
      | none => false) then [Action.run i sl] else []
  (if s.mayIssue i then [Action.run i .s] else []) ++ eng .v .v ++ eng .m .m ++ eng .c .c

/-- The events of the package that stand ready. -/
def State.packageEvents (s : State) : List Action :=
  let on := fun (p : Bool) (x : Instr) => if p then [Action.event x] else []
  (if s.mailboxFree && s.regs.mqprod != s.regs.mqcons then [.doorbell] else []) ++
  (List.range s.signals.length).map (fun k => .event (.signalArrival k)) ++
  (List.range s.decrements.length).map (fun k => .event (.transferDecrement k)) ++
  on (s.groups.toList.any Option.isNone && s.pool.any s.selectable) .groupSelect ++
  (s.groups.toList.zipIdx.filterMap fun (g, k) => match g with
    | some g => if g.state = .draining then some (.event (.groupRetire k)) else none
    | none => none) ++
  on (!s.weir.held.isEmpty) .weirHeldSubmit ++
  ((List.range 32).filter (fun k => (List.finRange 128).any fun i => s.clusterOf i.val == k && s.requestsLease i &&
    s.leases.toList.any fun l => l.holder != some i)).map (fun k => .event (.leaseGrant k)) ++
  on (!s.faults.isEmpty && s.fbReady) .faultBufferWrite ++
  (s.moves.zipIdx.filter (fun m => m.1.entered)).map (fun m => .event (.sumpMoveComplete m.2)) ++
  (s.hints.flatMap fun h => (List.range 16).map fun k =>
    let va := BitVec.ofNat 57 (h.2.1 * 65536 + 4096 * k)
    Action.event (if h.2.2 then .promotion h.1 va else .demotion h.1 va)) ++
  (s.qps.flatMap fun q => [.event (.entryFire (BitVec.ofNat 12 q.1)), .event (.entrySend (BitVec.ofNat 12 q.1))]) ++
  on (!s.redsteps.isEmpty) (.reducerStep 0) ++
  (s.grotto.entries.filterMap fun e => match e.state with
    | .compressing => some (.event (.compressionComplete e.key))
    | .prefetching => some (.event (.grottoPromotionComplete e.key))
    | _ => none) ++
  ((List.range 32).filterMap fun n =>
    let n := BitVec.ofNat 5 n
    match (s.chan n).waiting with
    | some m => if s.pathHeld (.culvert n) then none else some (.event (.culvertDelivery n m))
    | none => none) ++
  (s.qps.filterMap fun q => match q.2 with
    | some x => match x.waiting, x.waitVa with
      | some m, some _ => if s.pathHeld (.qpDelivery m.rqp) then none else some (.event (.qpDelivery m))
      | _, _ => none
    | none => none) ++
  on s.attest.isSome .attestationReport

/-- What stands ready. -/
def State.ready (s : State) : List Action :=
  s.packageEvents ++ ((List.finRange 128).flatMap fun i => s.coreEvents i ++ s.coreRuns i)

/-- The next action: the agenda's, or what stands ready in turn.
Log entry 5: DESIGN CHOICE, safe. -/
def State.next (s : State) : Host.Outcome State Fault Refusal :=
  match s.agenda with
  | a :: rest => State.act { s with agenda := rest } a
  | [] =>
    let xs := s.ready
    match xs[s.turn % xs.length]? with
    | some a => State.act { s with turn := s.turn + 1 } a
    | none => .next s

end

end Sys2Proof.Machine
end

