-- ==== Sys2Proof/Machine/Place.lean ====
section
/-! DEFINITION. Machine/Place.lean: a program's first word placed so that the next step runs it: the load that a host
makes with CREATE, BIND and LAUNCH (R85, R286 to R294), reduced to what one bundle needs. -/

namespace Sys2Proof.Machine

noncomputable section

/-- The context that runs the placed word: bound, with a group running, PRIV. -/
def placedContext : Context := { Context.free with state := .running, ctxid := 1, priv := true }

/-- The job that runs the placed word: one bundle at VA 0x1000 without a pool line, the largest local storage. -/
def placedJob : Job where
  ctx := 1
  slot := 0
  j := 0
  p := 1
  starting := false
  preempted := false
  ended := false
  stopping := false
  escalated := false
  code := 0x1000
  nbun := 1
  poolmap := 0
  khandle := 0
  param := 0
  xsb := 0x100000
  wsb := 0x100000
  acct := 8
  nbar := 1
  levels := []
  perm := []
  tiles := 0
  left := 0
  nextWalk := 0
  sliceLo := 0
  sliceHi := 0
  windows := []

/-- The cached leaf that maps the code: 1 GiB at VA 0 onto HBM address 0, with R, W, X, A and D. -/
def placedLeaf : TlbEntry := { ctx := 1, va := 0, size := 0x40000000, leaf := 0xF9, pteAddr := 0x40000000 }

/-- The core of the placed job, its next bundle at the code's first address. -/
def placedCore : Core :=
  { Core.start with job := some placedJob, pc := 0x1000, guards := Core.start.guards }

/-- A bundle as the next of core 0. -/
def State.placeBundle (s : State) (b : Bundle) : State :=
  { s with
    cores := s.cores.set 0 placedCore
    ctxs := s.ctxs.set 0 placedContext
    tlb := [placedLeaf]
    mem := writeLE s.mem 0x1000 16 b.toNat
    phase := 5, frozen := false
    agenda := [.run 0 .s] }

/-- A command as the next of an engine of core 0, with the lease of its array. -/
def State.placeCommand (s : State) (e : Eng) (i : Instr) : State :=
  let s := s.placeBundle 0
  { s with
    cores := s.cores.set 0 (placedCore.setQueue e [placedCore.newCmd i 0])
    leases := s.leases.set 0 { holder := some 0, lastPos := 0, started := 0, len := 16 }
    agenda := [.run 0 (engSlot e)] }

/-- The word of an opcode-table row as the next to run; a word that does not decode stands in the S slot. -/
def State.placeWord (s : State) (nbits w : Nat) : State :=
  match decodeTableWord nbits w with
  | some i =>
    match encode i with
    | some (.v, _) => s.placeCommand .v i
    | some (.m, _) => s.placeCommand .m i
    | some (.c, _) => s.placeCommand .c i
    | some (.s, x) => s.placeBundle (x.zeroExtend 128)
    | none => s
  | none => s.placeBundle (BitVec.ofNat 128 (w % 2 ^ nbits))

end

end Sys2Proof.Machine
end

