-- ==== Sys2Proof/Machine/Step.lean ====
section
/-! DEFINITION. Machine/Step.lean: one step of the machine, and the state in which a given word is the next to run. -/

namespace Sys2Proof.Machine

noncomputable section

/-- One step: the agenda's next action, or what stands ready. -/
def step (s : State) : Host.Outcome State Fault Refusal := s.next

/-- The state in which the instruction of an opcode-table row is the next to run on core 0: an S word as a bundle of
its code object, an engine word at the head of its queue.
Log entry 4: DESIGN CHOICE, safe. -/
def State.withFetchWord (s : State) (nbits w : Nat) : State := s.placeWord nbits w

end

end Sys2Proof.Machine
end

