-- ==== Sys2Proof/Safety.lean ====
section
/-! DEFINITION. Safety.lean: what a safe run is, and the terms the statements use: completions, frames and the forms of
state that hold for every step. -/

namespace Sys2Proof

open Sys2Proof.Machine

/-- The outcome is a next state: neither a fault nor a refusal. -/
def Goes (o : Host.Outcome State Fault Refusal) : Prop := ∃ t, o = .next t

/-- The memories of the machine are in their canonical form: physical memory, and XS and WS of every core. -/
def Canonical (s : State) : Prop :=
  Memory.wf s.mem = true ∧ ∀ i : Fin 128, Memory.wf s.cores[i].xs = true ∧ Memory.wf s.cores[i].ws = true

/-- What a core holds in sparse form is canonical: XS, WS, the accumulator rows, the rows of URS and the stall counts. -/
def CoreCanonical (c : Core) : Prop :=
  Memory.wf c.xs = true ∧ Memory.wf c.ws = true ∧ sortedFrom 0 0 c.acc = true ∧ sortedFrom 0 0 c.vec.urs = true ∧
    sortedFrom 0 0 c.stalls = true

/-- All that the machine holds in sparse form is canonical: physical memory, every core, the live output table of every
context with the cores of jobs that a stop has saved, the counters, the line tags, the queue pairs and the slots of every
channel's ring. -/
def AllCanonical (s : State) : Prop :=
  Memory.wf s.mem = true ∧ (∀ i : Fin 128, CoreCanonical s.cores[i]) ∧
    (∀ k : Fin 16, sortedFrom none 0 s.ctxs[k].outs = true ∧ ∀ p ∈ s.ctxs[k].saved, CoreCanonical p.2) ∧
    sortedFrom 0 0 s.counters = true ∧ sortedFrom LineTag.none_ 0 s.tags = true ∧ sortedFrom none 0 s.qps = true ∧
    ∀ k : Fin 32, sortedFrom .empty 0 s.chans[k].slots = true

/-- The instruction answers a next state, of which P holds. -/
def Gives (i : Instr) (s : State) (P : State → Prop) : Prop := ∃ t, exec i s = .next t ∧ P t

/-- Nothing but the executing core differs: physical memory, every other core and every other part of the package are
as they were. -/
def OnlyCore (s t : State) : Prop :=
  { t with cores := s.cores } = s ∧ ∀ i : Fin 128, i ≠ s.cur → t.cores[i] = s.cores[i]

/-- A core without what the completion of a register word of the S slot can write: the X registers, the pc, the special
registers and the standing of its bundle. Everything else is kept: the command queues, the queue registers, guards and
flags, the records, the vector and array state, XS, WS and what is posted or parked. -/
def coreBesideS (c : Core) : Core :=
  { c with
    x := Vector.replicate 32 0, pc := 0, sr := SRegs.start, issue := .none_, head := .issuing, barWait := .idle }

/-- What a core reads at a register after X[d] := v: X0 reads zero and discards what is written (R54). -/
def WroteX (c c' : Core) (d : XReg) (v : DWord) : Prop :=
  c'.rx d = (if d = 0 then 0 else v) ∧ ∀ r, r ≠ d → c'.rx r = c.rx r

/-- The completion of a register word of the S slot: X[d] := v, the flags are ORed into AFLAGS, the flow goes on as the
loop-back decision says, which may change a loop's count and its active bit and no other special register (R39, R174);
nothing else changes. -/
def RegWord (s t : State) (d : XReg) (v : DWord) (fl : Flags) : Prop :=
  OnlyCore s t ∧ WroteX s.core t.core d v ∧ coreBesideS t.core = coreBesideS s.core ∧
    t.core.pc = (s.core.sr.nextPc s.core.pc).2 ∧ t.core.issue = .done ∧
    t.core.sr = { (s.core.sr.nextPc s.core.pc).1 with aflags := s.core.sr.aflags ||| fl.zeroExtend 64 }

/-- The flow has gone to an address (R174, R175): nothing of the core but its pc, LOOPST and the standing of its bundle
changes, a loop that is active stays so only if `stays` says it, and the link register, where there is one, is
written. -/
def Jumped (s t : State) (target : DWord) (link : Option (XReg × DWord)) (stays : Bool → Bool) : Prop :=
  OnlyCore s t ∧ coreBesideS t.core = coreBesideS s.core ∧ t.core.pc = target ∧ t.core.issue = .done ∧
    (∀ l1, t.core.sr.loopOn l1 = (s.core.sr.loopOn l1 && stays l1)) ∧
    (∀ k, 2 ≤ k → t.core.sr.loopst.getLsbD k = s.core.sr.loopst.getLsbD k) ∧
    { t.core.sr with loopst := s.core.sr.loopst } = s.core.sr ∧
    match link with
    | some (d, v) => WroteX s.core t.core d v
    | none => ∀ r, t.core.rx r = s.core.rx r

/-- No earlier command and no posted store of the executing core holds a granule that conflicts with these (R113 to
R115). -/
def Unblocked (s : State) (rs : List Range) : Prop :=
  (∀ h ∈ s.core.holders, conflicts rs (footprint s s.core h.2) = false) ∧
    ∀ p ∈ s.core.inFlight, conflicts rs [p.range] = false

/-- The bytes of a memory from an address on are these, and every other byte is as it was. -/
def WroteBytes (m m' : Mem) (a : Nat) (ys : List Byte) : Prop :=
  ∀ k, readByte m' k = if a ≤ k ∧ k < a + ys.length then ys.getD (k - a) 0 else readByte m k

/-- A core without XS, and without what a register word of the S slot can write. -/
def coreBesideXs (c : Core) : Core := { coreBesideS c with xs := [] }

/-- The program may access these bytes of XS (R104, R302). -/
def XsAllows (s : State) (a n : Nat) : Prop := a + n ≤ s.core.barBase

/-- The S word is complete with nothing written but XS bytes, the special registers as said. -/
def XsWord (s t : State) (pc : DWord) (sr : SRegs) (a : Nat) (ys : List Byte) : Prop :=
  OnlyCore s t ∧ coreBesideXs t.core = coreBesideXs s.core ∧ t.core.pc = pc ∧ t.core.issue = .done ∧
    t.core.sr = sr ∧ (∀ r, t.core.rx r = s.core.rx r) ∧ WroteBytes s.core.xs t.core.xs a ys

/-- SP with another address in its bits 31:0. -/
def withSp (r : SRegs) (a : Nat) : SRegs :=
  { r with sp := (r.sp &&& 0xFFFFFFFF00000000) ||| BitVec.ofNat 64 (a % 2 ^ 32) }

/-- The special registers after a word that does not change the flow (R174). -/
def nextSr (c : Core) : SRegs := (c.sr.nextPc c.pc).1

/-- The next bundle's address after such a word. -/
def nextAddr (c : Core) : DWord := (c.sr.nextPc c.pc).2

/-- A page of the executing core's context, cached, that it may read: an uncompressed RAW page outside the apertures
whose accesses are not counted (R316, R320, R328, R336, R338); the line lies in no live output of any context (R111, R120)
and in no channel ring (R352), and no reducer step waits for its line (R372). -/
def PlainPage (s : State) (va : Nat) (e : TlbEntry) : Prop :=
  s.core.job.isSome ∧ s.tlb.find? (fun e => e.covers s.curCtx va) = some e ∧ e.leaf.getLsbD 3 = true ∧
    leafFmtBits e.leaf = 0 ∧ leafAperture e.leaf = false ∧ e.leaf.getLsbD 10 = false ∧ e.leaf.getLsbD 11 = false ∧
    s.outsAt s.curCtx va ((leafPa e.leaf + (va - e.va.toNat)) / 64) = [] ∧
    s.reducing (leafPa e.leaf + (va - e.va.toNat)) = false ∧
    ∀ c ∈ s.chans.toList, c.hasRing = true →
      s.ringSlots s.curCtx c va [(leafPa e.leaf + (va - e.va.toNat)) / 64] = []

/-- The commands of a queue that complete at its core's cut, or those that do not (R91, R306): they have executed, and
one that owes a decrement stands behind no other that names a barrier. -/
def atCut (q : List Cmd) (completes : Bool) : List Cmd :=
  (q.zipIdx.filter fun p => (decide (p.1.phase = .executed) && (p.1.barrier.isNone ||
    !((q.take p.2).any fun y => namesBarrier y.instr))) == completes).map (·.1)

/-- The commands of a core that complete at its cut (R91). -/
def executedCmds (c : Core) : List Cmd := atCut c.vq true ++ atCut c.mq true ++ atCut c.cq true

/-- The commands of a core that its cut parks, V before M before C (R91). -/
def parkedAtCut (c : Core) : List (Eng × Cmd) :=
  (atCut c.vq false).map (Prod.mk Eng.v) ++ (atCut c.mq false).map (Prod.mk Eng.m) ++
    (atCut c.cq false).map (Prod.mk Eng.c)

/-- AFLAGS as the cut leaves it: with the flags of the commands that complete (R39, R92). -/
def aflagsAtCut (c : Core) : DWord := (executedCmds c).foldl (fun f x => f ||| x.flags.zeroExtend 64) c.sr.aflags

/-- A fault of the S word now executing is taken at once, into the handler: its cut can be completed (R91, R166), no
other fault waits, no handler is active and there is one (R92). -/
def CanTrap (s : State) : Prop :=
  s.cutNow s.cur = true ∧ s.core.pendingTrap = none ∧ s.core.sr.active = false ∧ s.core.sr.tvec ≠ 0 ∧
    s.core.debug ≠ .stepping

/-- Trap entry into the handler by an S word, as R92 gives it: what it records, saves and clears, the lease given up,
the queues parked and the flow at TVEC; the other special registers, the X registers, the guards, the local flags and
the local spaces are as they were. -/
def TookTrap (s t : State) (cause : Nat) (info : DWord) : Prop :=
  let r := s.core.sr
  t.core.pc = r.tvec ∧
  t.core.sr = { r with
    tpc := s.core.trapPc, tcause := BitVec.ofNat 64 (2 ^ 63 + cause), tinfo := info, tqueue := 0
    tseq := s.core.iseq.zeroExtend 64
    sloopst := r.loopst, sl0s := r.l0s, sl0e := r.l0e, sl0c := r.l0c, sl1s := r.l1s, sl1e := r.l1e, sl1c := r.l1c
    saflags := aflagsAtCut s.core
    loopst := 0, aflags := 0 } ∧
  t.core.x = s.core.x ∧ t.core.guards = s.core.guards ∧ t.core.flags = s.core.flags ∧
  t.core.vec = s.core.vec ∧ t.core.acc = s.core.acc ∧
  t.core.vq = [] ∧ t.core.mq = [] ∧ t.core.cq = [] ∧
  (t.core.parked.drop s.core.parked.length).map (fun p => (p.eng, p.cmd.iseq)) =
    (parkedAtCut s.core).map (fun p => (p.1, p.2.iseq)) ∧
  (∀ l ∈ t.leases.toList, l.holder ≠ some s.cur) ∧
  (s.regs.trctl.getLsbD 0 = false → t.mem = s.mem)

/-- What an S word leaves of the executing core when it completes with nothing written but what `keep` puts back:
`keep` of the state after is `keep` of the state before, and the flow goes on as the loop-back decision says. -/
def WordBut (s t : State) (keep : Core → Core) : Prop :=
  OnlyCore s t ∧ keep (coreBesideS t.core) = keep (coreBesideS s.core) ∧ (∀ r, t.core.rx r = s.core.rx r) ∧
    t.core.pc = nextAddr s.core ∧ t.core.sr = nextSr s.core ∧ t.core.issue = .done

/-- An S-slot barrier word is complete and has left its barrier so: besides the 16 bytes of the barrier's storage at
its home, nothing changes but the executing core's flow. -/
def BarrierWord (s t : State) (h : BitVec 24) (m : Barrier) : Prop :=
  t.barrier h = m ∧ { t with cores := s.cores } = s ∧ t.core.pc = nextAddr s.core ∧ t.core.sr = nextSr s.core ∧
    t.core.issue = .done ∧
    (∀ i : Fin 128, { (coreBesideS (t.coreAt i)) with xs := [] } = { (coreBesideS (s.coreAt i)) with xs := [] } ∧
      (t.coreAt i).x = (s.coreAt i).x ∧ (i ≠ s.cur → (t.coreAt i).pc = (s.coreAt i).pc) ∧
      ∀ k, (i ≠ handleHome h ∨ k < handleAddr h ∨ handleAddr h + 16 ≤ k) →
        readByte (t.coreAt i).xs k = readByte (s.coreAt i).xs k)

/-- An engine word whose command can start: it stands next in its queue, put there with the snapshot of this moment
where it does not (R133, R134); its guard pair is resolved and its slot true (R140, R141); no `ctxe` before it is
under way and no open transaction group keeps it back (R260, R261); no earlier command and no earlier posted store holds
a conflicting granule (R113, R114). `c` is the executing core with the command `x` at place `k` of its queue. -/
structure CanStart (e : Eng) (i : Instr) (g : Guard) (s : State) (c : Core) (k : Nat) (x : Cmd) : Prop where
  place : k = s.core.nextIx e + s.skip
  core : c = s.core.offer e k i
  here : (c.queue e)[k]? = some x
  waiting : x.phase = .waiting
  committed : c.behindCtxe e x = false
  resolved : (c.pair g).isOpen = false
  holds : c.guardVal g = true
  member : ∀ t, c.tx = some t → e = .c →
    groupMember x.instr = true ∧ (isCtxe x.instr = true ∨ c.groupSize t < 31)
  commands : ∀ h ∈ c.holders, earlier h e x.iseq = true →
    conflicts (footprint s c x) (heldRange s c h.1 h.2 e) = false
  stores : ∀ p ∈ c.inFlight, p.iseq.toNat ≤ x.iseq.toNat → conflicts (footprint s c x) [p.range] = false

/-- A command that has executed: its flags and what its completion pushes (R39, R137), and whether an open group holds
it (R259), as its execution has left the core. -/
def finished (c : Core) (e : Eng) (x : Cmd) (fl : Flags) (pushes : List (Nat × DWord)) : Cmd :=
  { x with
    phase := .executed, flags := x.flags ||| fl, pushes := x.pushes ++ pushes, inGroup := decide (e = .c) && c.tx.isSome }

/-- The core with one entry popped from each of the queue registers. -/
def poppedCore (c : Core) (ns : List Nat) : Core := ns.foldl (fun c n => c.setQreg n (c.qreg n).tail) c

/-- The entries that are popped, each with its register. -/
def poppedEntries (c : Core) (ns : List Nat) : List (Nat × DWord) := ns.map fun n => (n, (c.qreg n).headD 0)

/-- The V word executes on its sources and has one result (R63, R137, R138, R178, R180): where it can start, its
destination has room, the queue registers it reads have an entry and `ok` holds, one entry of each is popped, the
sources' values give a result `r` and flags `fl` of which P holds, the result is put into its destination and the
latch, its flags and its push come with its completion, and nothing else of the machine changes but the vector state
by f, and the counts of XS bank conflicts by the `lost` cycles (R230, R448). -/
def VecRunsFrom (i : Instr) (g : Guard) (d : VDst) (srcs : List VSrc) (s : State) (f : VecState → VecState)
    (ok : Core → Cmd → (Nat → VReg) → Prop) (lost : Core → Cmd → (Nat → VReg) → Nat)
    (P : Core → Cmd → (Nat → VReg) → VReg → Flags → Prop) : Prop :=
  ∀ c k x, CanStart .v i g s c k x → (∀ n, dstQueue d = some n → c.qroom n = true) →
    (∀ n ∈ srcQueues srcs, c.qreg n ≠ []) →
    let list := srcs.map (c.vec.src (poppedEntries c (srcQueues srcs)))
    let vals := fun n => list.getD n 0
    ok c x vals → ∃ r fl, P c x vals r fl ∧ fl &&& flagDZ = 0 ∧
      exec i s = .next (s.setCore (Core.putCmd { poppedCore c (srcQueues srcs) with
        vec := (f c.vec).put d r
        lyconf := BitVec.ofNat 32 (min (c.lyconf.toNat + lost c x vals) 0xFFFFFFFF)
        perf := if s.regs.pcsel.toNat % 256 = 6 then satAdd c.perf (lost c x vals) else c.perf } .v k
        (finished c .v x fl ((dstQueue d).toList.map fun n => (n, BitVec.ofNat 64 r.toNat)))))

/-- The same for a word that reads registers alone and changes nothing but its destination. -/
def VecRuns (i : Instr) (g : Guard) (d : VDst) (srcs : List VSrc) (s : State)
    (P : (Nat → VReg) → VReg → Flags → Prop) : Prop :=
  VecRunsFrom i g d srcs s id (fun _ _ _ => True) (fun _ _ _ => 0) fun _ _ => P

/-- An engine word that reads vector sources and has no result register: where it can start, the queue registers it
reads have an entry and `ok` holds, it has executed with the flags `fl`; besides what is popped, the executing core is
as `eff` says, and nothing else of the machine changes. -/
def VecActs (i : Instr) (g : Guard) (srcs : List VSrc) (s : State) (ok : Core → Cmd → (Nat → VReg) → Prop)
    (eff : Core → Cmd → (Nat → VReg) → Core → Flags → Prop) : Prop :=
  ∀ c k x, CanStart .v i g s c k x → (∀ n ∈ srcQueues srcs, c.qreg n ≠ []) →
    let list := srcs.map (c.vec.src (poppedEntries c (srcQueues srcs)))
    let vals := fun n => list.getD n 0
    ok c x vals → ∃ c' fl, eff (poppedCore c (srcQueues srcs)) x vals c' fl ∧
      exec i s = .next (s.setCore (c'.putCmd .v k (finished c .v x fl [])))

/-- The cycles that reads of the chunks of these addresses lose to XS bank conflicts (R230). -/
def lostCycles (addrs : List Nat) : Nat :=
  let chunks := (addrs.map (· / 256)).eraseDups
  let port := fun p => (chunks.filter fun k => k % 4 = p).length
  max (max (port 0) (port 1)) (max (port 2) (port 3)) - (chunks.length + 3) / 4

/-- The V-slot word of a well-formed instruction has this major opcode, 0x20 more where it is relocatable, and this
function code; the b field of a word of one operand is zero (R62 to R65). -/
def CodedV (i : Instr) (rl one : Bool) (major fn : Nat) : Prop :=
  i.wf = true → ∃ w : Word, decode .v w = some i ∧ w.toNat / 2 ^ 26 = major + (if rl then 0x20 else 0) ∧
    w.toNat / 2 ^ 22 % 16 = fn ∧ (one = true → w.toNat / 2 ^ 4 % 64 = 0)

/-- Every element of width w of a register is what a function gives, and the flags are those of the elements
together; DZ, flag 1, no vector word raises (R38). -/
def Elementwise (w : Nat) (f : Nat → Nat × Flags) (r : VReg) (fl : Flags) : Prop :=
  (∀ i < 2048 / w, elemN w r i = (f i).1) ∧
    ∀ b : Nat, b ≠ 1 → (fl.getLsbD b = true ↔ ∃ i < 2048 / w, (f i).2.getLsbD b = true)

/-- Every lane of a register is what a function gives. -/
def Lanes (f : Nat → Word) (r : VReg) : Prop := ∀ i < 64, lane r i = f i

/-- An engine word that can start and whose conditions `ok` hold has executed: the machine is `u` but for the command,
which stands in its queue as `y` (R133). -/
def EngActs (e : Eng) (i : Instr) (g : Guard) (s : State) (ok : Core → Cmd → Prop)
    (eff : Core → Cmd → State → Cmd → Prop) : Prop :=
  ∀ c k x, CanStart e i g s c k x → ok c x → ∃ u y, eff c x u y ∧ exec i s = .next (u.setCore (u.core.putCmd e k y))

/-- A data command of the copy engine that can start: it passes its checks at issue, its group has room and its
destination finds a range-table entry where it needs one (R114, R260), it pops its queue entries (R137), its barrier's
handle is good (R258) and its start answers, and its first chunk runs; then the command stands as the chunk leaves it,
with its barrier's count. -/
def CopyRuns (i : Instr) (g : Guard) (s : State) (b : Option BarSel) (first : Option Nat) (issue : Cmd → M Unit)
    (start : Cmd → M (List Nat)) (moves : Cmd → M Cmd) : Prop :=
  ∀ c k x, CanStart .c i g s c k x → x.popped = [] → issue x (s.setCore c) = .ok ((), s.setCore c) →
    let ns := (first.toList ++ (b.map barQueue).toList).eraseDups
    let x' := { x with popped := ns.map fun n => (c.qreg n).headD 0 }
    let s' := s.setCore (poppedCore c ns)
    let h := BitVec.ofNat 24 ((b.map fun q => ((c.qreg (barQueue q)).headD 0).toNat).getD 0)
    let bar := b.map fun q => (h, q.outbound)
    (∀ n ∈ ns, c.qreg n ≠ []) → (b.isSome → s'.handleOk h = true) →
      ∀ t v y u, start x' s' = .ok (t, v) → moves { x' with phase := .stopped, barrier := bar, table := t } v = .ok (y, u) →
        exec i s = .next (u.setCore (u.core.putCmd .c k { y with inGroup := u.core.tx.isSome }))

/-- The lease of a cluster's array after an array command that has started and left the array (R220, R221). -/
def leaseAfter (s : State) : Vector Lease 32 :=
  let l := s.leases[s.curCluster]
  s.leases.set s.curCluster (if l.len ≤ l.started + 1 then { l with holder := none, started := 0 }
    else { l with started := l.started + 1 })

/-- A command that has started stands next in its queue at a restart point, and its word executes: it goes on (R91,
R133). `k` is its place. -/
structure GoesOn (e : Eng) (i : Instr) (s : State) (k : Nat) (x : Cmd) : Prop where
  place : k = s.core.nextIx e + s.skip
  here : (s.core.queue e)[k]? = some x
  word : x.instr = i
  stopped : x.phase = .stopped

/-- A release of an engine queue may go: every earlier global read and write of its core has been performed (R117). -/
def Released (s : State) (c : Core) (e : Eng) (x : Cmd) : Prop :=
  (∀ p ∈ c.inFlight, x.iseq.toNat < p.iseq.toNat) ∧
    (s.holding s.cur fun n => decide (n.toNat ≤ x.iseq.toNat)) = false ∧
    (∀ h ∈ c.holders, earlier h e x.iseq = true → h.2.performed = true ∨ s.touchesGlobal c h.2 = false) ∧
    (e = .m → ∀ y ∈ c.mq, x.iseq.toNat ≤ y.iseq.toNat)

/-- The completion ring has room for one entry (R361). -/
def RingRoom (u : State) : Prop := (u.regs.mcwr - u.regs.mcrd).toNat < 2 ^ ringLog (u.regs.mcbase.toNat % 32) 12

/-- A mailbox command completes (R86, R361): its cookie, its status, the state of its context and its index stand in the
completion ring, whose producer has moved on; nothing else changes. -/
def Completed (u t : State) (status : Nat) (id : CtxId) (cookie : DWord) : Prop :=
  let r := u.regs
  let a := bits r.mcbase.toNat 50 12 * 4096 + 16 * (r.mcwr.toNat % 2 ^ ringLog (r.mcbase.toNat % 32) 12)
  let w1 := BitVec.ofNat 64 (status + u.stateCode id * 2 ^ 8 + (r.mqcons - 1).toNat % 2 ^ 48 * 2 ^ 16)
  t = { u with
    mem := writeBytes u.mem a (leBytes 8 cookie.toNat ++ leBytes 8 w1.toNat)
    regs := { r with mcwr := r.mcwr + 1 }, mailbox := { busy := none, completion := none } }

/-- The command at the head of the command ring is taken; where the ring is empty, the host has posted it now. -/
def afterTaking (s : State) : State :=
  { s with regs := { s.regs with
      mqprod := if s.regs.mqprod = s.regs.mqcons then s.regs.mqprod + 1 else s.regs.mqprod
      mqcons := s.regs.mqcons + 1 } }

/-- An event leaves every core but one, physical memory and the contexts as they were. -/
def OnlyCoreAt (i : Fin 128) (s t : State) : Prop :=
  t.mem = s.mem ∧ t.ctxs = s.ctxs ∧ ∀ j : Fin 128, j ≠ i → t.coreAt j = s.coreAt j

end Sys2Proof
end

