-- ==== Sys2Proof/Certificates/Slice0/Obligations.lean ====
section
/-! DEFINITION. Certificates/Slice0/Obligations.lean: the statements for the provers. Each says, from the rules its
docstring names, what instructions or events do: under conditions on the state and the operands alone the instruction
answers a next state, and what that state is. -/

open Sys2Proof Sys2Proof.Machine

/-- R158, R159: the register-register and the one-register instructions of the S slot, from the table: their words, their
results and flags, with the boundary cases of the divisions, and their frame. -/
def Obligations.AluRegisterResults : Prop := ∀ (d a b : XReg) (s : State),
  let A := s.core.rx a
  let B := s.core.rx b
  let n := B.toNat % 64
  let word := fun (fn y : Nat) => BitVec.ofNat 32 (0x04000000 + d.toNat * 2 ^ 21 + a.toNat * 2 ^ 16 + y * 2 ^ 11 + fn)
  let flagged := fun (i : Instr) (v : DWord) (fl : Flags) => Gives i s fun t => RegWord s t d v fl
  let gives := fun (fn : Nat) (i : Instr) (v : DWord) => decode .s (word fn b.toNat) = some i ∧ flagged i v 0
  let divides := fun (fn : Nat) (i : Instr) (v byZero : DWord) => decode .s (word fn b.toNat) = some i ∧
    (B = 0 → flagged i byZero flagDZ) ∧ (B ≠ 0 → flagged i v 0)
  let one := fun (fn : Nat) (i : Instr) (v : DWord) => decode .s (word fn 0) = some i ∧ flagged i v 0
  gives 0 (.add d a b) (BitVec.ofNat 64 ((A.toNat + B.toNat) % 2 ^ 64)) ∧
  gives 1 (.sub d a b) (BitVec.ofInt 64 (A.toNat - B.toNat)) ∧
  gives 2 (.mul d a b) (BitVec.ofNat 64 (A.toNat * B.toNat)) ∧
  gives 3 (.mulh d a b) (BitVec.ofNat 64 (A.toNat * B.toNat / 2 ^ 64)) ∧
  gives 4 (.mulhs d a b) (BitVec.ofInt 64 (A.toInt * B.toInt / 2 ^ 64)) ∧
  divides 5 (.div d a b) (BitVec.ofNat 64 (A.toNat / B.toNat)) 0xFFFFFFFFFFFFFFFF ∧
  divides 6 (.divs d a b)
    (if A.toInt = -(2 ^ 63) ∧ B.toInt = -1 then 0x8000000000000000 else BitVec.ofInt 64 (A.toInt.tdiv B.toInt))
    (if 0 ≤ A.toInt then 0x7FFFFFFFFFFFFFFF else 0x8000000000000000) ∧
  divides 7 (.rem d a b) (BitVec.ofNat 64 (A.toNat - B.toNat * (A.toNat / B.toNat))) A ∧
  divides 8 (.rems d a b)
    (if A.toInt = -(2 ^ 63) ∧ B.toInt = -1 then 0 else BitVec.ofInt 64 (A.toInt - B.toInt * A.toInt.tdiv B.toInt)) A ∧
  gives 9 (.and d a b) (A &&& B) ∧
  gives 10 (.or d a b) (A ||| B) ∧
  gives 11 (.xor d a b) (A ^^^ B) ∧
  gives 12 (.andn d a b) (A &&& ~~~B) ∧
  gives 13 (.shl d a b) (BitVec.ofNat 64 (A.toNat * 2 ^ n)) ∧
  gives 14 (.shr d a b) (BitVec.ofNat 64 (A.toNat / 2 ^ n)) ∧
  gives 15 (.sra d a b) (BitVec.ofInt 64 (A.toInt / 2 ^ n)) ∧
  gives 16 (.minu d a b) (BitVec.ofNat 64 (min A.toNat B.toNat)) ∧
  gives 17 (.maxu d a b) (BitVec.ofNat 64 (max A.toNat B.toNat)) ∧
  gives 18 (.mins d a b) (BitVec.ofInt 64 (min A.toInt B.toInt)) ∧
  gives 19 (.maxs d a b) (BitVec.ofInt 64 (max A.toInt B.toInt)) ∧
  gives 20 (.slt d a b) (if A.toInt < B.toInt then 1 else 0) ∧
  gives 21 (.sltu d a b) (if A.toNat < B.toNat then 1 else 0) ∧
  gives 22 (.seq d a b) (if A = B then 1 else 0) ∧
  gives 23 (.sne d a b) (if A ≠ B then 1 else 0) ∧
  (∃ n, one 24 (.clz d a) (BitVec.ofNat 64 n) ∧ n ≤ 64 ∧
    (∀ i, 64 - n ≤ i → i < 64 → A.getLsbD i = false) ∧ (n < 64 → A.getLsbD (63 - n) = true)) ∧
  one 25 (.popc d a) (BitVec.ofNat 64 ((List.range 64).filter fun i => A.getLsbD i).length) ∧
  ∃ v : DWord, one 26 (.brev d a) v ∧ ∀ i < 64, v.getLsbD i = A.getLsbD (63 - i)

/-- R160, R161: the immediate instructions: each writes its result to its destination, raises no flag, advances, and
changes nothing else. -/
def Obligations.AluImmediateResults : Prop := ∀ (d a : XReg) (imm : Half) (k : BitVec 6) (s : State),
  let A := s.core.rx a
  let gives := fun (i : Instr) (v : DWord) => Gives i s fun t => RegWord s t d v 0
  gives (.addi d a imm) (BitVec.ofInt 64 (A.toNat + imm.toInt)) ∧
  gives (.andi d a imm) (A &&& BitVec.ofNat 64 imm.toNat) ∧
  gives (.ori d a imm) (A ||| BitVec.ofNat 64 imm.toNat) ∧
  gives (.xori d a imm) (A ^^^ BitVec.ofNat 64 imm.toNat) ∧
  gives (.shli d a k) (BitVec.ofNat 64 (A.toNat * 2 ^ k.toNat)) ∧
  gives (.shri d a k) (BitVec.ofNat 64 (A.toNat / 2 ^ k.toNat)) ∧
  gives (.srai d a k) (BitVec.ofInt 64 (A.toInt / 2 ^ k.toNat)) ∧
  gives (.slti d a imm) (if A.toInt < imm.toInt then 1 else 0) ∧
  gives (.sltiu d a imm) (if A.toNat < (BitVec.ofInt 64 imm.toInt).toNat then 1 else 0) ∧
  gives (.hii d a imm) (BitVec.ofNat 64 (A.toNat * 2 ^ 16) ||| BitVec.ofNat 64 imm.toNat)

/-- R167, R168, R169, R175: branches and jumps: where the flow goes, the link, and which loops stay active. -/
def Obligations.BranchesAndJumps : Prop := ∀ (d a b : XReg) (off : Half) (joff : BitVec 26) (s : State),
  let A := s.core.rx a
  let B := s.core.rx b
  let pc := s.core.pc
  let target := BitVec.ofInt 64 (pc.toNat + 16 * off.toInt)
  let far := BitVec.ofInt 64 (pc.toNat + 16 * joff.toInt)
  let body := fun (t : DWord) (l1 : Bool) => s.core.sr.inBody l1 t
  let branches := fun (i : Instr) (taken : Prop) =>
    (taken → Gives i s fun t => Jumped s t target none (body target)) ∧
    (¬taken → Gives i s fun t => RegWord s t 0 0 0)
  branches (.beq a b off) (A = B) ∧
  branches (.bne a b off) (A ≠ B) ∧
  branches (.blt a b off) (A.toInt < B.toInt) ∧
  branches (.bge a b off) (B.toInt ≤ A.toInt) ∧
  branches (.bltu a b off) (A.toNat < B.toNat) ∧
  branches (.bgeu a b off) (B.toNat ≤ A.toNat) ∧
  Gives (.j joff) s (fun t => Jumped s t far none (body far)) ∧
  Gives (.jal joff) s (fun t => Jumped s t far (some (31, pc + 16)) (body far)) ∧
  (A.toNat % 16 = 0 →
    Gives (.jr a) s (fun t => Jumped s t A none (body A)) ∧
    Gives (.jalr d a) s (fun t => Jumped s t A (some (d, pc + 16)) (body A)))

/-- R172, R173, R174: `loop` sets its loop, whose registers hold bits 56:4 of an address, and with a count of zero skips the
body; the loop-back decision of a bundle whose S word changes nothing takes L1 before L0. -/
def Obligations.LoopsRun : Prop :=
  (∀ (l1 : Bool) (a : XReg) (off : BitVec 20) (s : State),
  let n := s.core.rx a
  let last := BitVec.ofNat 64 (s.core.pc.toNat + 16 * off.toNat)
  let va := fun x : DWord => x &&& 0x01FFFFFFFFFFFFF0
  Gives (.loop l1 a off) s fun t =>
    OnlyCore s t ∧ coreBesideS t.core = coreBesideS s.core ∧ (∀ r, t.core.rx r = s.core.rx r) ∧
    t.core.sr.loopStart l1 = va (s.core.pc + 16) ∧ t.core.sr.loopEnd l1 = va last ∧ t.core.sr.loopCount l1 = n ∧
    t.core.sr.loopOn l1 = decide (n ≠ 0) ∧
    t.core.pc = (if n = 0 then last + 16 else nextAddr s.core) ∧
    (let kept := if n = 0 then s.core.sr else nextSr s.core
     t.core.sr.loopStart (!l1) = kept.loopStart (!l1) ∧ t.core.sr.loopEnd (!l1) = kept.loopEnd (!l1) ∧
     t.core.sr.loopCount (!l1) = kept.loopCount (!l1) ∧ t.core.sr.loopOn (!l1) = kept.loopOn (!l1))) ∧
  (∀ s : State,
  let r := s.core.sr
  let at1 : Bool := r.loopOn true && s.core.pc == r.l1e
  let again1 : Bool := at1 && decide (1 < r.l1c.toNat)
  let at0 : Bool := !again1 && r.loopOn false && s.core.pc == r.l0e
  let again0 : Bool := at0 && decide (1 < r.l0c.toNat)
  Gives .nop s fun t =>
    OnlyCore s t ∧ coreBesideS t.core = coreBesideS s.core ∧ (∀ x, t.core.rx x = s.core.rx x) ∧
    t.core.pc = (if again1 then r.l1s else if again0 then r.l0s else s.core.pc + 16) ∧
    t.core.sr.l1c = (if again1 then r.l1c - 1 else if at1 then 0 else r.l1c) ∧
    t.core.sr.l0c = (if again0 then r.l0c - 1 else if at0 then 0 else r.l0c) ∧
    t.core.sr.loopOn true = (r.loopOn true && (!at1 || again1)) ∧
    t.core.sr.loopOn false = (r.loopOn false && (!at0 || again0)) ∧
    (∀ k, 2 ≤ k → t.core.sr.loopst.getLsbD k = r.loopst.getLsbD k) ∧
    { t.core.sr with l0c := r.l0c, l1c := r.l1c, loopst := r.loopst } = r)

/-- R108, R170, R171: `call` and `pushm` store the words below SP, the lowest register lowest; `ret` and `popm` read them from
SP upward, leave SP behind them and XS as it was. -/
def Obligations.StackWords : Prop :=
  (∀ (a b : XReg) (joff : BitVec 26) (s : State), Memory.wf s.core.xs = true →
  let sp := bits s.core.sr.sp.toNat 31 0
  let base := bits s.core.sr.sbase.toNat 31 0
  let fits := fun n : Nat => sp % 8 = 0 ∧ base + 8 * n ≤ sp ∧ XsAllows s (sp - 8 * n) (8 * n) ∧
    Unblocked s [⟨.xs, sp - 8 * n, sp, true⟩]
  (fits 1 → Gives (.call joff) s fun t =>
    XsWord s t (BitVec.ofInt 64 (s.core.pc.toNat + 16 * joff.toInt)) (withSp s.core.sr (sp - 8)) (sp - 8)
      (leBytes 8 (s.core.pc + 16).toNat)) ∧
  (let n := b.toNat + 1 - a.toNat
   a.toNat ≤ b.toNat → fits n → Gives (.pushm a b) s fun t =>
    XsWord s t (nextAddr s.core) ({ (nextSr s.core) with sp := (withSp s.core.sr (sp - 8 * n)).sp }) (sp - 8 * n)
      ((List.range n).flatMap fun k => leBytes 8 (s.core.rx (BitVec.ofNat 5 (a.toNat + k))).toNat))) ∧
  (∀ (a b : XReg) (s : State),
  let sp := bits s.core.sr.sp.toNat 31 0
  let lim := bits s.core.sr.slimit.toNat 31 0
  let word := fun k : Nat => BitVec.ofNat 64 (readLE s.core.xs (sp + 8 * k) 8)
  let holds := fun n : Nat => sp % 8 = 0 ∧ sp + 8 * n ≤ lim ∧ XsAllows s sp (8 * n) ∧
    Unblocked s [⟨.xs, sp, sp + 8 * n, false⟩]
  (holds 1 → (word 0).toNat % 16 = 0 → Gives .ret s fun t =>
    XsWord s t (word 0) (withSp s.core.sr (sp + 8)) 0 []) ∧
  (let n := b.toNat + 1 - a.toNat
   a.toNat ≤ b.toNat → holds n → Gives (.popm a b) s fun t =>
    OnlyCore s t ∧ coreBesideS t.core = coreBesideS s.core ∧ t.core.issue = .done ∧
    t.core.pc = nextAddr s.core ∧
    t.core.sr = { (nextSr s.core) with sp := (withSp s.core.sr (sp + 8 * n)).sp } ∧
    (∀ k < n, t.core.rx (BitVec.ofNat 5 (a.toNat + k)) = if a.toNat + k = 0 then 0 else word k) ∧
    ∀ r : XReg, r.toNat < a.toNat ∨ b.toNat < r.toNat → t.core.rx r = s.core.rx r))

/-- R109, R162, R163, R164, R165: loads and stores of XS that pass their checks: a load gives the little-endian value,
a store writes its bytes, the least first, and nothing else changes. -/
def Obligations.LocalLoadsAndStores : Prop := ∀ (d a : XReg) (imm : Half) (s : State),
  let ea := BitVec.ofInt 64 ((s.core.rx a).toNat + imm.toInt)
  let at_ := ea.toNat % 2 ^ 32
  let v := fun n : Nat => readLE s.core.xs at_ n
  let loads := fun (i : Instr) (n : Nat) (r : DWord) =>
    ea.toNat % n = 0 → XsAllows s at_ n → Unblocked s [⟨.xs, at_, at_ + n, false⟩] → Gives i s fun t => RegWord s t d r 0
  let stores := fun (i : Instr) (n : Nat) =>
    ea.toNat % n = 0 → XsAllows s at_ n → Unblocked s [⟨.xs, at_, at_ + n, true⟩] → Gives i s fun t =>
      XsWord s t (nextAddr s.core) (nextSr s.core) at_ (leBytes n (s.core.rx d).toNat)
  Memory.wf s.core.xs = true → ea.toNat / 2 ^ 32 = 2 ^ 31 →
    loads (.ldB d a imm) 1 (BitVec.ofNat 64 (v 1)) ∧
    loads (.ldH d a imm) 2 (BitVec.ofNat 64 (v 2)) ∧
    loads (.ldW d a imm) 4 (BitVec.ofNat 64 (v 4)) ∧
    loads (.ldD d a imm) 8 (BitVec.ofNat 64 (v 8)) ∧
    loads (.ldsB d a imm) 1 ((BitVec.ofNat 8 (v 1)).signExtend 64) ∧
    loads (.ldsH d a imm) 2 ((BitVec.ofNat 16 (v 2)).signExtend 64) ∧
    loads (.ldsW d a imm) 4 ((BitVec.ofNat 32 (v 4)).signExtend 64) ∧
    loads (.ldf d a imm) 4 (BitVec.ofNat 64 (v 4)) ∧
    stores (.stB d a imm) 1 ∧
    stores (.stH d a imm) 2 ∧
    stores (.stW d a imm) 4 ∧
    stores (.stD d a imm) 8

/-- R109, R162, R163, R164: loads of global memory: what the home read of the model gives is what the register
receives; and from a plain RAW page that the job may read, outside every live output and channel ring, that is the
little-endian value in memory. -/
def Obligations.GlobalLoads : Prop := ∀ (d a : XReg) (imm : Half) (s : State),
  let ea := BitVec.ofInt 64 ((s.core.rx a).toNat + imm.toInt)
  let va := ea.toNat
  let forms : List (Instr × Nat × (Nat → DWord)) := [
    (.ldB d a imm, 1, fun v => BitVec.ofNat 64 v), (.ldH d a imm, 2, fun v => BitVec.ofNat 64 v),
    (.ldW d a imm, 4, fun v => BitVec.ofNat 64 v), (.ldD d a imm, 8, fun v => BitVec.ofNat 64 v),
    (.ldsB d a imm, 1, fun v => (BitVec.ofNat 8 v).signExtend 64),
    (.ldsH d a imm, 2, fun v => (BitVec.ofNat 16 v).signExtend 64),
    (.ldsW d a imm, 4, fun v => (BitVec.ofNat 32 v).signExtend 64)]
  va < 2 ^ 57 →
    (∀ f ∈ forms, va % f.2.1 = 0 → Unblocked s [⟨.glob, va, va + f.2.1, false⟩] → ∀ bs u,
      readGlobal false rawFmt va f.2.1 s = .ok (bs, u) → Gives f.1 s fun t => RegWord u t d (f.2.2 (leNat bs)) 0) ∧
    (∀ v u, ldfGlobal ea s = .ok (v, u) → Gives (.ldf d a imm) s fun t => RegWord u t d v 0) ∧
    ∀ f ∈ forms, va % f.2.1 = 0 → Unblocked s [⟨.glob, va, va + f.2.1, false⟩] → ∀ e, PlainPage s va e →
      Gives f.1 s fun t => RegWord s t d (f.2.2 (readLE s.mem (leafPa e.leaf + (va - e.va.toNat)) f.2.1)) 0

/-- R114, R115, R122, R165, R128: a store or `red.*` to global memory that passes its checks at issue is posted, with
its translation, width, data and issue sequence; nothing is written yet. -/
def Obligations.GlobalStoresArePosted : Prop := ∀ (d a : XReg) (imm : Half) (dbl : Bool) (s : State),
  let posts := fun (i : Instr) (kind : Access) (va n : Nat) (data : DWord) (op : Option RedOp) =>
    va < 2 ^ 57 → va % n = 0 → s.core.rangeEntries < 16 → ∀ e l u,
      writeTarget kind rawFmt va n s = .ok ((e, l), u) → u.core = s.core → Unblocked u [⟨.glob, va, va + n, true⟩] →
      checkWrites op.isSome ((List.range n).map fun k => va + k) u = .ok ((), u) →
      Gives i s fun t =>
        OnlyCore u t ∧ t.mem = u.mem ∧
        t.core = { s.core.advance with
          posted := s.core.posted ++ [⟨BitVec.ofNat 57 va, e, l, n, data, op, s.core.iseq, none, false⟩] }
  let ea := (BitVec.ofInt 64 ((s.core.rx a).toNat + imm.toInt)).toNat
  let at_ := (s.core.rx a).toNat
  let x := s.core.rx d
  let n := if dbl then 8 else 4
  posts (.stB d a imm) .store ea 1 x none ∧
  posts (.stH d a imm) .store ea 2 x none ∧
  posts (.stW d a imm) .store ea 4 x none ∧
  posts (.stD d a imm) .store ea 8 x none ∧
  posts (.redAdd a d dbl) .red at_ n x (some .add) ∧
  posts (.redAnd a d dbl) .red at_ n x (some .and) ∧
  posts (.redOr a d dbl) .red at_ n x (some .or) ∧
  posts (.redXor a d dbl) .red at_ n x (some .xor) ∧
  posts (.redMax a d dbl) .red at_ n x (some .max) ∧
  posts (.redMin a d dbl) .red at_ n x (some .min) ∧
  posts (.redFmax a d) .red at_ 4 x (some .fmax) ∧
  posts (.redFmin a d) .red at_ 4 x (some .fmin)

/-- R124, R128, R166: a posted store or `red.*` that passes the check at its home is performed there as one step: the
bytes of its place become its data, or what its operation makes of them; no other byte changes, and it is posted no
more. -/
def Obligations.PostedWritesArePerformed : Prop := ∀ (c k : Nat) (s : State) (p : Posted) (pa : Nat) (u : State),
  let i : Fin 128 := ⟨c % 128, Nat.mod_lt c (by decide)⟩
  let x := p.data.toNat % 2 ^ (8 * p.width)
  let old := readLE s.mem pa p.width
  let made : Option RedOp → Nat := fun
    | none => x
    | some .add => (old + x) % 2 ^ (8 * p.width)
    | some .and => old &&& x
    | some .or => old ||| x
    | some .xor => old ^^^ x
    | some .max => if signed (8 * p.width) old < signed (8 * p.width) x then x else old
    | some .min => if signed (8 * p.width) x < signed (8 * p.width) old then x else old
    | some .fmax => if totalKey 32 old < totalKey 32 x then x else old
    | some .fmin => if totalKey 32 x < totalKey 32 old then x else old
  Memory.wf s.mem = true → (s.coreAt i).posted[k]? = some p → p.parked = none → p.held = false → s.frozenAt i = false →
    p.loc = .plain pa → p.leaf.leaf.getLsbD 11 = false →
    homeCheck true (p.op.map fun o => ropCode o p.width) p.va.toNat [pa / 64] { s with cur := i } = .ok ((), u) →
    u.mem = s.mem → u.cur = i → u.coreAt i = s.coreAt i → u.regs.tlbinvNext = [] →
    Gives (if p.op.isSome then .redPerform c k else .postedStorePerform c k) s fun t =>
      OnlyCore { u with mem := t.mem } t ∧ WroteBytes s.mem t.mem pa (leBytes p.width (made p.op)) ∧
      t.coreAt i = { s.coreAt i with posted := (s.coreAt i).posted.eraseIdx k }

/-- R58, R82, R97, R276, R279, R388: `srr` reads every special register. PC, LIDX, NCORE and CTXID read as their rules
say; PRIO and SEED as the context now has them; TAG, STAGE, WVER and WBASE as the job's start gives them, zero or
Weir's; LIX0 to LIX7 zero from the start on, and then the coordinates that `lsq.next` writes. -/
def Obligations.SpecialRegisterReads : Prop := ∀ (d : XReg) (r : SReg) (s : State),
  Gives (.srr d r) s (fun t => RegWord s t d (s.special r) 0) ∧
  (∀ k : Fin 16, s.slotOf s.curCtx = some k →
    s.special .prio = (s.ctxs[k]).prio.zeroExtend 64 ∧ s.special .seed = (s.ctxs[k]).seed) ∧
  (∀ j, s.core.job = some j → j.left ≠ 0 → j.perm.Nodup → Gives (.lsqNext d) s fun t =>
    (∀ (n l c : Nat), j.perm[n]? = some l → (walkCoords j.walk j.nextWalk)[n]? = some c → l < 8 →
      t.special (.lix (BitVec.ofNat 3 l)) = BitVec.ofNat 64 c) ∧
    ∀ k : BitVec 3, k.toNat ∉ j.perm → t.special (.lix k) = s.special (.lix k)) ∧
  (∀ (g : Group) (i : Fin 128) (j : Job),
    let u := { (s.startJob g i j) with cur := i }
    let starts := fun (tag stage wver wbase : DWord) =>
      u.special .tag = tag ∧ u.special .stage = stage ∧ u.special .wver = wver ∧ u.special .wbase = wbase
    (g.src.pick = none → starts 0 0 0 0) ∧
    (∀ p, g.src.pick = some p → starts (p.tag.zeroExtend 64)
      (BitVec.ofNat 64 (p.stage.toNat + 256 * (p.step.toNat + 1))) p.wver p.wbase) ∧
    ∀ k : BitVec 3, u.special (.lix k) = 0) ∧
  s.special .pc = s.core.pc ∧ s.special .lidx = BitVec.ofNat 64 s.cur.val ∧
  s.special .ncore = (if s.flash.grade120 then 120 else 128) ∧
  s.special .ctxid = (match s.core.job with | some j => j.ctx.zeroExtend 64 | none => 0)

/-- R58, R97, R89, R90: `srw` writes one special register with its reserved bits cleared, SLIPMAX and LRUN clamped;
the loop-back decision of its own bundle uses the old values. In an unprivileged context SLIPMAX and LRUN trap PRIV.
That SP, SBASE and SLIMIT keep all 64 bits is the model's reading (log entry 66). -/
def Obligations.SpecialRegisterWrites : Prop :=
  (∀ (r : SReg) (a : XReg) (s : State),
  let v := s.core.rx a
  let writable : List SReg := [.sp, .sbase, .slimit, .tvec, .tpc, .tcause, .tinfo, .tqueue, .tseq, .aflags, .afmask,
    .loopst, .sloopst, .saflags, .l0s, .l0e, .l0c, .l1s, .l1e, .l1c, .sl0s, .sl0e, .sl0c, .sl1s, .sl1e, .sl1c]
  let written : SReg → DWord := fun
    | .slipmax => BitVec.ofNat 64 (min (max v.toNat 1) 32)
    | .lrun => BitVec.ofNat 64 (min (max v.toNat 1) 64)
    | .loopst => v &&& 3
    | r => v &&& regMask r
  (r ∈ writable ∨ ((r = .slipmax ∨ r = .lrun) ∧ (s.slotOf s.curCtx).isSome ∧ s.context.priv = true)) →
    Gives (.srw r a) s fun t =>
      OnlyCore s t ∧ coreBesideS t.core = coreBesideS s.core ∧ (∀ x, t.core.rx x = s.core.rx x) ∧
      t.core.pc = nextAddr s.core ∧ t.special r = written r ∧
      ∀ q, q ≠ r → q ≠ .pc → t.special q = (s.modCore fun c => { c with sr := nextSr c }).special q) ∧
  (∀ (r : SReg) (a : XReg) (s : State),
  (r = .slipmax ∨ r = .lrun) → (s.slotOf s.curCtx).isSome → s.context.priv = false → CanTrap s →
    Gives (.srw r a) s fun t => TookTrap s t 3 (BitVec.ofNat 64 (a.toNat * 65536 + r.code.toNat * 16 + 8)))

/-- R85, R91, R92, R95, R177: `trap`, `brk` and, with empty queues, `halt` trap at their bundle into the handler; a trap with a
handler active, or with none, is recorded without setting ACTIVE and the context drains with reason TRAP. -/
def Obligations.TrapsAreTaken : Prop :=
  (∀ (code : BitVec 7) (s : State), CanTrap s →
  Gives (.trap code) s (fun t => TookTrap s t 15 (code.zeroExtend 64)) ∧
  (s.core.dbgArm = false →
    Gives (.brk code) s (fun t => TookTrap s t 16 (code.zeroExtend 64)) ∧
    (s.core.vq = [] → s.core.mq = [] → s.core.cq = [] → Gives .halt s (fun t => TookTrap s t 16 0)))) ∧
  (∀ (code : BitVec 7) (s : State) (j : Job) (k : Fin 16),
  s.core.job = some j → s.slotOf j.ctx = some k →
  (s.ctxs[k].state = .running ∨ s.ctxs[k].state = .faultWait ∨ s.ctxs[k].state = .runnable) →
  s.cutNow s.cur = true → s.core.pendingTrap = none → (s.core.sr.active = true ∨ s.core.sr.tvec = 0) →
    Gives (.trap code) s fun t =>
      t.core.sr.tcause = BitVec.ofNat 64 (15 + if s.core.sr.active then 2 ^ 63 else 0) ∧
      t.core.sr.tinfo = code.zeroExtend 64 ∧ t.core.sr.tqueue = 0 ∧ t.core.sr.tpc = s.core.trapPc ∧
      t.core.sr.tseq = s.core.iseq.zeroExtend 64 ∧ t.core.x = s.core.x ∧
      t.ctxs[k].state = .draining ∧ t.ctxs[k].drain = .trap ∧
      ∀ i : Fin 128, ∀ j', s.cores[i].job = some j' → j'.ctx = j.ctx → i ∈ t.ctxs[k].awaiting)

/-- R90, R92, R104, R108, R109, R128, R162, R164, R169, R170, R171, R316: where the loads, stores, reductions, register jumps
and stack words trap, with the cause and TINFO: an address of neither form, a misaligned one, a local one outside what
the program may access, a page without the permission, a target that is no bundle's, also one that `ret` pops, a push or a
pop that crosses its limit. That TINFO of a WINDOW is the 32-bit local address is the model's reading (log entry 65). -/
def Obligations.ScalarFaultsTrap : Prop := ∀ (d a b : XReg) (imm : Half) (joff : BitVec 26) (dbl : Bool) (s : State),
  let A := s.core.rx a
  let ea := BitVec.ofInt 64 (A.toNat + imm.toInt)
  let isGlob := fun (x : DWord) => x.toNat < 2 ^ 57
  let isLoc := fun (x : DWord) => x.toNat / 2 ^ 32 = 2 ^ 31
  let traps := fun (i : Instr) (cause : Nat) (info : DWord) => Gives i s fun t => TookTrap s t cause info
  let page := fun (x : DWord) (writes : Bool) => BitVec.ofNat 64 (x.toNat % 2 ^ 57 + if writes then 2 ^ 63 else 0)
  let denied := fun (x : DWord) (kind : Nat) (writes : Bool) =>
    BitVec.ofNat 64 (x.toNat + kind * 2 ^ 60 + if writes then 2 ^ 63 else 0)
  let onPage := fun (x : DWord) (e : TlbEntry) =>
    isGlob x ∧ s.core.job.isSome ∧ s.tlb.find? (fun e => e.covers s.curCtx x.toNat) = some e
  let (r, w) := ((3 : Nat), (4 : Nat))
  let lim := s.core.barBase
  let access := fun (i : Instr) (n : Nat) (writes : Bool) =>
    let at_ := ea.toNat % 2 ^ 32
    (¬isGlob ea → ¬isLoc ea → traps i 5 (page ea writes)) ∧
    (isGlob ea ∨ isLoc ea → ea.toNat % n ≠ 0 → traps i 4 ea) ∧
    (isLoc ea → ea.toNat % n = 0 → lim < at_ + n → traps i 6 (BitVec.ofNat 64 (max at_ lim))) ∧
    (∀ e, onPage ea e → ea.toNat % n = 0 → e.leaf.getLsbD (if writes then w else r) = false →
      (writes = false → Unblocked s [⟨.glob, ea.toNat, ea.toNat + n, false⟩]) →
      traps i 5 (denied ea (if writes then 2 else 1) writes))
  let reduces := fun (i : Instr) (n : Nat) =>
    (¬isGlob A → ¬isLoc A → traps i 5 (page A true)) ∧
    (isLoc A → traps i 6 (BitVec.ofNat 64 (A.toNat % 2 ^ 32))) ∧
    (isGlob A → A.toNat % n ≠ 0 → traps i 4 A) ∧
    (∀ e, onPage A e → A.toNat % n = 0 → ¬(e.leaf.getLsbD r = true ∧ e.leaf.getLsbD w = true) →
      traps i 5 (denied A (if e.leaf.getLsbD r then 2 else 1) true))
  let sp := bits s.core.sr.sp.toNat 31 0
  let pushes := fun (i : Instr) (n : Nat) =>
    (sp % 8 ≠ 0 → traps i 4 s.core.sr.sp) ∧
    (sp % 8 = 0 → sp < bits s.core.sr.sbase.toNat 31 0 + 8 * n → traps i 9 (BitVec.ofInt 64 ((sp : Int) - (8 * n : Nat))))
  let pops := fun (i : Instr) (n : Nat) =>
    (sp % 8 ≠ 0 → traps i 4 s.core.sr.sp) ∧
    (sp % 8 = 0 → bits s.core.sr.slimit.toNat 31 0 < sp + 8 * n → traps i 9 (BitVec.ofNat 64 (sp + 8 * n - 1)))
  CanTrap s →
    access (.ldB d a imm) 1 false ∧ access (.ldH d a imm) 2 false ∧ access (.ldW d a imm) 4 false ∧
    access (.ldD d a imm) 8 false ∧ access (.ldsB d a imm) 1 false ∧ access (.ldsH d a imm) 2 false ∧
    access (.ldsW d a imm) 4 false ∧
    access (.stB d a imm) 1 true ∧ access (.stH d a imm) 2 true ∧ access (.stW d a imm) 4 true ∧
    access (.stD d a imm) 8 true ∧
    (¬isGlob ea → ¬isLoc ea → traps (.ldf d a imm) 5 (page ea false)) ∧
    (isLoc ea → ea.toNat % 4 ≠ 0 → traps (.ldf d a imm) 4 ea) ∧
    (isLoc ea → ea.toNat % 4 = 0 → lim < ea.toNat % 2 ^ 32 + 4 →
      traps (.ldf d a imm) 6 (BitVec.ofNat 64 (max (ea.toNat % 2 ^ 32) lim))) ∧
    (∀ e, onPage ea e →
      (e.leaf.getLsbD r = false → traps (.ldf d a imm) 5 (denied ea 1 false)) ∧
      (e.leaf.getLsbD r = true → leafAperture e.leaf = false →
        (leafFmtBits e.leaf = 0 ∧ ea.toNat % 4 ≠ 0) ∨ ((leafFmtBits e.leaf = 6 ∨ leafFmtBits e.leaf = 7) ∧ ea.toNat % 2 ≠ 0) →
        traps (.ldf d a imm) 4 ea)) ∧
    (let n := if dbl then 8 else 4
     reduces (.redAdd a d dbl) n ∧ reduces (.redAnd a d dbl) n ∧ reduces (.redOr a d dbl) n ∧
     reduces (.redXor a d dbl) n ∧ reduces (.redMax a d dbl) n ∧ reduces (.redMin a d dbl) n) ∧
    reduces (.redFmax a d) 4 ∧ reduces (.redFmin a d) 4 ∧
    (A.toNat % 16 ≠ 0 → traps (.jr a) 4 A ∧ traps (.jalr d a) 4 A) ∧
    pushes (.call joff) 1 ∧ pops .ret 1 ∧
    (let target := BitVec.ofNat 64 (readLE s.core.xs sp 8)
     sp % 8 = 0 → sp + 8 ≤ bits s.core.sr.slimit.toNat 31 0 → XsAllows s sp 8 →
      Unblocked s [⟨.xs, sp, sp + 8, false⟩] → target.toNat % 16 ≠ 0 → traps .ret 4 target) ∧
    (a.toNat ≤ b.toNat → pushes (.pushm a b) (b.toNat + 1 - a.toNat) ∧ pops (.popm a b) (b.toNat + 1 - a.toNat))

/-- R94, R47, R299: `eret` restores what the trap saved, returns the parked commands to their queues in order and goes to TPC,
of which the PC holds bits 63:4; at the bundle of an `end` whose drain the trap interrupted it drains again. With no handler
active it traps ILLEGAL; that TINFO is then 4, slot and word as R50 gives them, is the model's reading (log entry 22). -/
def Obligations.EretReturns : Prop := ∀ s : State,
  let r := s.core.sr
  let target := r.tpc &&& 0xFFFFFFFFFFFFFFF0
  (r.active = true → s.core.vq = [] → s.core.mq = [] → s.core.cq = [] → Gives .eret s fun t =>
    OnlyCore s t ∧ t.core.pc = target ∧ t.core.seq = (if s.core.drainAt = some target then .draining target else .fetching) ∧
    t.core.sr = { r with
      loopst := r.sloopst, l0s := r.sl0s, l0e := r.sl0e, l0c := r.sl0c, l1s := r.sl1s, l1e := r.sl1e, l1c := r.sl1c
      aflags := r.saflags, tcause := r.tcause &&& 0x7FFFFFFFFFFFFFFF } ∧
    t.core.x = s.core.x ∧ t.core.xs = s.core.xs ∧ t.core.vec = s.core.vec ∧ t.core.parked = [] ∧
    (∀ p ∈ t.core.posted, p.parked = none) ∧
    (r.tqueue.getLsbD 8 = false →
      t.core.vq = s.core.parkedOf .v ∧ t.core.mq = s.core.parkedOf .m ∧ t.core.cq = s.core.parkedOf .c ∧
      t.core.posted = s.core.posted.map fun p => { p with parked := none })) ∧
  (r.active = false → s.cutNow s.cur = true → s.core.pendingTrap = none → r.tvec ≠ 0 → s.core.debug ≠ .stepping →
    Gives .eret s fun t => TookTrap s t 1 4)

/-- R96, R119, R299, R145, R260: `tfence` and `qfence` complete once the queues they wait for are empty, `tfence` traps ARITH on
a flag of the mask; `end` begins to drain at its bundle, a stranded guard traps GUARD, and a transaction group that
would stay open traps QUEUE. -/
def Obligations.FencesAndEnd : Prop :=
  (∀ (mask : BitVec 3) (s : State),
  let arith := s.core.sr.aflags &&& s.core.sr.afmask
  (s.core.vq = [] → s.core.mq = [] →
    (arith = 0 → Gives .tfence s fun t => RegWord s t 0 0 0) ∧
    (arith ≠ 0 → CanTrap s → Gives .tfence s fun t => TookTrap s t 11 arith)) ∧
  (s.core.inFlight = [] → (mask.getLsbD 0 = true → s.core.vq = []) → (mask.getLsbD 1 = true → s.core.mq = []) →
    (mask.getLsbD 2 = true → s.core.cq = [] ∧ s.core.tx = none) → Gives (.qfence mask) s fun t => RegWord s t 0 0 0)) ∧
  (∀ s : State,
  (s.strandedGuard = none → s.groupOpenAtEnd = false → Gives .endJob s fun t =>
    OnlyCore s t ∧ t.core = { s.core with
      seq := .draining s.core.pc, issue := .done, head := .issuing, barWait := .idle }) ∧
  (s.strandedGuard = none → s.groupOpenAtEnd = true → CanTrap s → Gives .endJob s fun t => TookTrap s t 17 17) ∧
  ∀ n, s.strandedGuard = some n → CanTrap s → Gives .endJob s fun t => TookTrap s t 18 (BitVec.ofNat 64 n))

/-- R137, R139, R142, R143, R146, R148, R149: the S words on queue registers, guard pairs and the own local flags. -/
def Obligations.QueueGuardAndFlagWords : Prop :=
  (∀ (n : BitVec 4) (d a : XReg) (s : State),
  let withQ := fun (q : Vector (List DWord) 16) (c : Core) => { c with q := q }
  let withGuards := fun (g : Vector GuardPair 8) (c : Core) => { c with guards := g }
  let pair := n.toNat / 2
  ((s.core.q[n.toFin]).length + s.core.reserved n.toNat < 8 → Gives (.qput n a) s fun t =>
    WordBut s t (withQ s.core.q) ∧ t.core.q[n.toFin] = s.core.q[n.toFin] ++ [s.core.rx a] ∧
    ∀ m : Fin 16, m ≠ n.toFin → t.core.q[m] = s.core.q[m]) ∧
  (∀ v rest, s.core.q[n.toFin] = v :: rest → Gives (.qget d n) s fun t =>
    OnlyCore s t ∧ withQ s.core.q (coreBesideS t.core) = withQ s.core.q (coreBesideS s.core) ∧
    WroteX s.core t.core d v ∧ t.core.pc = nextAddr s.core ∧ t.core.sr = nextSr s.core ∧
    t.core.q[n.toFin] = rest ∧ ∀ m : Fin 16, m ≠ n.toFin → t.core.q[m] = s.core.q[m]) ∧
  (s.core.hasRefs pair = false → Gives (.gopen n) s fun t =>
    WordBut s t (withGuards s.core.guards) ∧ (t.core.pair n).isOpen = true ∧
    ∀ m : Guard, m.toNat / 2 ≠ pair → t.core.pair m = s.core.pair m) ∧
  ((s.core.pair n).isOpen = true →
    (∀ x ∈ s.core.vq ++ s.core.parked.map (·.cmd), x.phase = .waiting → x.resolves pair = false) →
    Gives (.gset n a) s fun t =>
      WordBut s t (withGuards s.core.guards) ∧ (t.core.pair n).isOpen = false ∧
      t.core.guardVal n = decide (s.core.rx a ≠ 0) ∧ t.core.guardVal (n ^^^ 1) = decide (s.core.rx a = 0) ∧
      ∀ m : Guard, m.toNat / 2 ≠ pair → t.core.pair m = s.core.pair m) ∧
  ((s.core.pair n).isOpen = false →
    (∀ x ∈ s.core.vq ++ s.core.parked.map (·.cmd), x.phase = .waiting → x.resolves pair = false) → CanTrap s →
    Gives (.gset n a) s fun t => TookTrap s t 18 (n.zeroExtend 64))) ∧
  (∀ (f : BitVec 5) (b : XReg) (s : State),
  let n := if b = 0 then 1 else (s.core.rx b).toNat % 256
  let old := (s.core.flags[f.toFin]).toNat
  let withFlags := fun (c : Core) => { c with flags := s.core.flags, heldFlags := s.core.heldFlags }
  (∀ h ∈ s.core.heldFlags, h.1 ≠ f) →
    (old + n ≤ 255 → Gives (.sig f b) s fun t =>
      WordBut s t withFlags ∧ (t.core.flags[f.toFin]).toNat = old + n ∧ t.core.heldFlags = s.core.heldFlags ∧
      ∀ m : Fin 32, m ≠ f.toFin → t.core.flags[m] = s.core.flags[m]) ∧
    (255 < old + n → Gives (.sig f b) s fun t =>
      WordBut s t withFlags ∧ t.core.flags = s.core.flags ∧
      t.core.heldFlags = s.core.heldFlags ++ [(f, BitVec.ofNat 8 n)]) ∧
    (n ≤ old → Gives (.wait f b) s fun t =>
      WordBut s t withFlags ∧ (t.core.flags[f.toFin]).toNat = old - n ∧ t.core.heldFlags = s.core.heldFlags ∧
      ∀ m : Fin 32, m ≠ f.toFin → t.core.flags[m] = s.core.flags[m]))

/-- R147, R148, R117, R119: a remote `sig` sends its increment to a job of its own COSCHED group, once no earlier
global access is outstanding unless it is marked `.nf`, and no earlier signal of its core to that flag stands in a queue;
that such a signal is waited for is the model's reading (log entry 102). -/
def Obligations.RemoteSignals : Prop := ∀ (f : BitVec 5) (a b : XReg) (s : State) (j : Job) (gr : Group) (i : Fin 128),
  let n := if b = 0 then 1 else BitVec.ofNat 8 ((s.core.rx b).toNat % 256)
  s.core.job = some j → s.groups.toList.getD j.slot none = some gr → gr.cosched = true →
  i ∈ gr.placed ++ gr.ended → (s.core.rx a).toNat = i.val →
  (∀ h ∈ s.core.holders, h.2.phase = .waiting → remoteTarget s.cur h.2.instr ≠ some ((i.val : Int), f)) →
    let sent := fun (i' : Instr) => Gives i' s fun t =>
      t.signals = s.signals ++ [⟨i, j.slot, f, n, s.cur⟩] ∧ { t with signals := s.signals, cores := s.cores } = s ∧
      WordBut s { t with signals := s.signals } id
    sent (.sigNf f a b) ∧
    (s.core.inFlight = [] → s.holding s.cur (fun _ => true) = false →
      (∀ h ∈ s.core.holders, h.2.performed = true ∨ s.touchesGlobal s.core h.2 = false) → sent (.sigRemote f a b))

/-- R306, R308, R310: the S-slot barrier words that their home performs at once, with no decrement of the core on its way
there: initialisation, an arrival that does not fault, a wait on a generation already passed, an expectation of
transfers; a count of zero is no operation. That
the word's bundle issues in the home's own step is the model's reading (log entry 81). -/
def Obligations.BarrierWordsComplete : Prop := ∀ (a b : XReg) (s : State) (h : BitVec 24) (m : Barrier) (j : Job)
    (g : Group),
  let v := (s.core.rx b).toNat
  let e := v % 4096
  let n := (s.core.rx b).toInt
  let behind := (m.gen + 16 - v % 16) % 16
  Canonical s → s.core.barWait = .idle → (s.core.rx a).toNat = h.toNat → s.handleOk h = true → s.barrier h = m →
  (∀ d ∈ s.decrements, d.core = s.cur → handleHome d.handle ≠ handleHome h) →
  s.core.job = some j → s.groups.toList.getD j.slot none = some g →
    (m.state = 0 → e ≠ 0 → bits v 31 12 = 0 → actionOk g (v / 2 ^ 32) = true → (g.cosched = true ∨ e = 1) →
      ∃ t, Sys2Proof.Machine.exec (.barInit a b) s = .next t ∧ BarrierWord s t h { m with
        expect := e, pending := e, action := BitVec.ofNat 32 (v / 2 ^ 32), inb := 0, outb := 0, waiters := 0, state := 1 }) ∧
    (m.state = 1 → behind = 0 → m.pending ≠ 0 →
      let m' := { m with pending := m.pending - 1, state := if m.pending = 1 ∧ m.inb = 0 ∧ m.outb = 0 then 2 else 1 }
      (∃ t, Sys2Proof.Machine.exec (.barArriveNf a b) s = .next t ∧ BarrierWord s t h m') ∧
      (s.core.inFlight = [] → s.holding s.cur (fun _ => true) = false →
        (∀ x ∈ s.core.holders, x.2.performed = true ∨ s.touchesGlobal s.core x.2 = false) →
        ∃ t, Sys2Proof.Machine.exec (.barArrive a b) s = .next t ∧ BarrierWord s t h m')) ∧
    (m.state = 1 → 1 ≤ behind → behind ≤ 8 →
      ∃ t, Sys2Proof.Machine.exec (.barWait a b) s = .next t ∧ BarrierWord s t h m) ∧
    (m.state = 1 → 1 ≤ n → n ≤ 8388607 → m.inb + n ≤ 8388607 →
      ∃ t, Sys2Proof.Machine.exec (.barXin a b) s = .next t ∧ BarrierWord s t h { m with
        inb := m.inb + n, state := if m.pending = 0 ∧ m.inb + n = 0 ∧ m.outb = 0 then 2 else 1 }) ∧
    (m.state = 1 → 1 ≤ n → n ≤ 8388607 → m.outb + n ≤ 8388607 →
      ∃ t, Sys2Proof.Machine.exec (.barXout a b) s = .next t ∧ BarrierWord s t h { m with
        outb := m.outb + n, state := if m.pending = 0 ∧ m.inb = 0 ∧ m.outb + n = 0 then 2 else 1 }) ∧
    (n = 0 → (∃ t, Sys2Proof.Machine.exec (.barXin a b) s = .next t ∧ RegWord s t 0 0 0) ∧
      ∃ t, Sys2Proof.Machine.exec (.barXout a b) s = .next t ∧ RegWord s t 0 0 0)

/-- R309: the completion of a barrier with no operation held and no action: the generation and the phase advance, the
arrivals are expected again. R258, R306: a copy's decrement that arrives after the earlier ones of its core is counted
once and goes. -/
def Obligations.BarrierCompletionsAndDecrements : Prop := ∀ (h : BitVec 24) (k : Nat) (s : State) (m : Barrier) (j : Job)
    (d : Decrement),
  Canonical s → s.barrier h = m → s.unended (handleHome h) = some j → j.declares h = true →
  s.frozenAt (handleHome h) = false →
    (m.state = 2 → s.heldFor h = [] → bits m.action.toNat 31 30 = 0 → Gives (.barrierCompletion h) s fun t =>
      t.barrier h = { m with
        gen := (m.gen + 1) % 16, phase := (m.phase + 1) % 256, pending := m.expect, state := 1, waiters := 0 } ∧
      t.mem = s.mem ∧ ∀ i : Fin 128, (t.coreAt i).x = (s.coreAt i).x ∧ (t.coreAt i).pc = (s.coreAt i).pc) ∧
    (s.decrements[k]? = some d → (∀ e ∈ s.decrements.take k, e.core ≠ d.core) → d.handle = h → j.slot = d.slot →
      m.state = 1 → (d.outbound = false → 0 < m.inb) → (d.outbound = true → 0 < m.outb) →
      Gives (.transferDecrement k) s fun t =>
        let inb := if d.outbound then m.inb else m.inb - 1
        let outb := if d.outbound then m.outb - 1 else m.outb
        t.decrements = s.decrements.eraseIdx k ∧ t.mem = s.mem ∧
        t.barrier h = { m with
          inb := inb, outb := outb, state := if m.pending = 0 ∧ inb = 0 ∧ outb = 0 then 2 else 1 })

/-- R290, R300: the event words: `ev.set` sets bits of the group's own SET mask, `ev.clr` clears bits that nothing still
needs, `ev.wait` completes when every bit is set; PENDING records of the context are tested at each change. -/
def Obligations.EventWords : Prop := ∀ (a : XReg) (q : BitVec 2) (s : State) (k : Fin 16),
  let m : BitVec 256 := (s.core.rx a).zeroExtend 256 <<< (64 * q.toNat)
  let id := s.curCtx
  let x := s.ctxs[k]
  let changes := fun (t : State) (ev : BitVec 256) =>
    t.ctxs[k] = { x with ev := ev } ∧ (∀ i : Fin 16, i ≠ k → t.ctxs[i] = s.ctxs[i]) ∧
      t.pool = (readyPool id ev s.readyCount s.pool).2 ∧ t.mem = s.mem ∧
      WordBut s { t with ctxs := s.ctxs, pool := s.pool, readyCount := s.readyCount } fun c => c
  s.slotOf id = some k → m ≠ 0 →
    (m &&& ~~~(ownSet s) = 0 → Gives (.evSet a q) s fun t => changes t (x.ev ||| m)) ∧
    (m &&& ~~~(ownSet s ||| eventBits (s.doneBit id false)) = 0 → m &&& eventBits (s.doneBit id true) = 0 →
      (∀ r ∈ s.otherRecords id s.core.jobSlot, m &&& r.1.set = 0 ∧ (r.2 = true → m &&& r.1.wait = 0)) →
      (∀ w ∈ x.evWaits, m &&& w.2 = 0) → Gives (.evClr a q) s fun t => changes t (x.ev &&& ~~~m)) ∧
    (x.ev &&& m = m → Gives (.evWait a q) s fun t =>
      t.ctxs[k] = { x with evWaits := x.evWaits.filter fun w => w.1 ≠ s.cur } ∧
      WordBut s { t with ctxs := s.ctxs } fun c => c)

/-- R286, R287, R297, R298: `launch` of a record that is in order: its parameter block is copied and the record enters
the pending pool, or the context's spill queue, at a depth one more than its group's. -/
def Obligations.LaunchSubmitsTheChild : Prop := ∀ (a : XReg) (s u1 u2 u3 u4 v : State) (lo hi desc k : Nat) (j : Job)
    (x : Context) (c : Fin 16),
  let ea := s.core.rx a
  let b := lo + hi * 2 ^ 512
  let r := parseLaunch b
  let lidx : BitVec 7 := BitVec.ofNat 7 u3.cur.val
  let rec_ : PoolRec := {
    ctx := j.ctx, record := r, depth := min (((u3.group j.slot).map (·.src.depth)).getD 0 + 1) 255
    copy := some (lidx, k), desc := BitVec.ofNat 57 desc, ready := none, reserve := false, pick := none }
  launchRead ea 64 s = .ok (lo, u1) → launchRead (ea + 64) 64 u1 = .ok (hi, u2) → u2.core.job = some j →
  u2.slotOf u2.curCtx = some c → u2.ctxs[c] = x → kernelLookup j.ctx r.khandle u2 = .ok (some desc, u3) →
  launchRefusal b u3.ncore x.cores true = none →
  (List.range 64).find? (fun k => !x.copies.contains (lidx, k)) = some k → (u3.submit rec_).isSome = true →
  copyParams j.ctx r.param.toNat (copyVa x.image lidx k) (List.range r.pblen) u3 = .ok ((), u4) →
  (u4.modCtx j.ctx fun x => { x with copies := x.copies ++ [(lidx, k)] }).submit rec_ = some v →
    Gives (.childLaunch a) s (fun t => t = v.modCore Core.advance) ∧
    ∀ y n, (u4.modCtx j.ctx fun x => { x with copies := x.copies ++ [(lidx, k)] }) = y →
      (2 ≤ rec_.depth ∨ (y.ctxOf j.ctx).spill = []) → (y.pool.filter fun r => !r.reserve).length = n → n < 480 →
      v.pool = (readyPool j.ctx (y.ctxOf j.ctx).ev y.readyCount (y.pool ++ [rec_])).2

/-- R280, R281: `lsq.next` takes the next tile of the slice in walk order, or answers 0 when none is left; `lsq.info`
reads the job's items. -/
def Obligations.LoopSequencerWords : Prop := ∀ (d : XReg) (s : State) (j : Job), s.core.job = some j →
  (j.left = 0 → Gives (.lsqNext d) s fun t => RegWord s t d 0 0) ∧
  (j.left ≠ 0 → Gives (.lsqNext d) s fun t =>
    OnlyCore s t ∧ WroteX s.core t.core d 1 ∧ t.core.pc = nextAddr s.core ∧
    t.core.job = some { j with
      left := j.left - 1
      nextWalk := (tileFrom j.walk j.sliceLo j.sliceHi (j.nextWalk + 1)).getD j.nextWalk } ∧
    t.core.sr = { (nextSr s.core) with lix := setLix s.core.sr.lix j.perm (walkCoords j.walk j.nextWalk) } ∧
    { (coreBesideS t.core) with job := s.core.job } = coreBesideS s.core) ∧
  let reads := fun (item : BitVec 7) (v : DWord) => Gives (.lsqInfo d item) s fun t => RegWord s t d v 0
  reads 0 (BitVec.ofNat 64 j.tiles) ∧ reads 1 (BitVec.ofNat 64 j.left) ∧ reads 2 j.param ∧
  reads 3 (j.khandle.zeroExtend 64) ∧ reads 4 (BitVec.ofNat 64 (j.j + j.p * 2 ^ 32)) ∧
  reads 5 (BitVec.ofNat 64 j.sliceLo) ∧ reads 6 (BitVec.ofNat 64 j.sliceHi) ∧
  ∀ k < 4, reads (BitVec.ofNat 7 (8 + k)) (BitVec.ofNat 64 (j.window k).1) ∧
    reads (BitVec.ofNat 7 (12 + k)) (BitVec.ofNat 64 (j.window k).2)

/-- R267, R282, R283, R284, R411: the words that load layout records, B descriptors and generator registers; an image in
XS is its 64 bytes there, a shape record on a plain page its 64 bytes in memory. -/
def Obligations.RecordWords : Prop := ∀ (n : BitVec 3) (a b : XReg) (s : State),
  let ea := s.core.rx a
  let at_ := ea.toNat % 2 ^ 32
  (ea.toNat / 2 ^ 32 = 2 ^ 31 → ea.toNat % 64 = 0 → XsAllows s at_ 64 → Unblocked s [⟨.xs, at_, at_ + 64, false⟩] →
    loadWord ea 64 s = .ok (readLE s.core.xs at_ 64, s)) ∧
  (∀ v u, loadWord ea 64 s = .ok (v, u) →
    (lyReserved (BitVec.ofNat 512 v) = false → Gives (.lyset n a) s fun t =>
      WordBut u t (fun c => { c with ly := u.core.ly }) ∧ t.core.ly = u.core.ly.set n.toFin (BitVec.ofNat 512 v)) ∧
    (gnOk (BitVec.ofNat 512 v) = true → Gives (.gnset n a) s fun t =>
      WordBut u t (fun c => { c with gn := u.core.gn }) ∧ t.core.gn = u.core.gn.set n.toFin (BitVec.ofNat 512 v))) ∧
  Gives (.bdset n a) s (fun t =>
    WordBut s t (fun c => { c with bd := s.core.bd }) ∧
    t.core.bd = s.core.bd.set n.toFin (ea &&& 0x03F0FF80FFFFFFFF)) ∧
  ∀ (c : Fin 16) (j : Job) r u pm w,
    let ra := (s.ctxs[c]).shapes.toNat + 64 * ea.toNat
    s.slotOf s.curCtx = some c → s.core.job = some j → ea.toNat < (s.ctxs[c]).shapen →
    (∀ e, ra < 2 ^ 57 → ra % 64 = 0 → Unblocked s [⟨.glob, ra, ra + 64, false⟩] → PlainPage s ra e →
      readShape (BitVec.ofNat 64 ra) s = .ok (readLE s.mem (leafPa e.leaf + (ra - e.va.toNat)) 64, s)) ∧
    (readShape (BitVec.ofNat 64 ra) s = .ok (r, u) → shReserved r = false → shFmt r ≤ 10 →
    (if shMode r = 1 then loadWord (BitVec.ofNat 64 (j.param.toNat + shPoff r)) 8 u = .ok (pm, w)
      else pm = 0 ∧ w = u) →
    Gives (.lyseth n a b) s fun t =>
      WordBut w t (fun c => { c with ly := w.core.ly }) ∧
      t.core.ly = w.core.ly.set n.toFin
        (shapeRecord r ((shBase r pm w.core.sr.tag w.core.sr.wbase + (w.core.rx b).toNat) % 2 ^ 64)))

/-- R342, R343, R344: `pg.cnt` counts at a leaf of no aperture that asks for it, cached or found by a walk, at the line's
home, and else has no effect on the counters; `pg.hint` gives Sump a region of a managed range; `tlb.inv` of a privileged
context drops the cached leaves and table entries in its scope, `tlb.inv.page` of an address without the global form
faults PAGE, and another context's traps PRIV. That pg.cnt may cache the leaf is the model's reading (log entry 26). -/
def Obligations.PageWords : Prop := ∀ (a b : XReg) (s : State) (c : Fin 16),
  let va := (s.core.rx a).toNat
  let n := (s.core.rx b).toNat
  let id := s.curCtx
  (2 ^ 57 ≤ va → Gives (.pgCnt a b) s fun t => RegWord s t 0 0 0) ∧
  (∀ e, va < 2 ^ 57 → s.tlb.find? (fun e => e.covers id va) = some e →
    (e.leaf.getLsbD 11 = false → Gives (.pgCnt a b) s fun t => RegWord s t 0 0 0) ∧
    (e.leaf.getLsbD 11 = true → leafAperture e.leaf = false → Gives (.pgCnt a b) s fun t =>
      let home := if e.leaf.getLsbD 10 then groupOf (leafPa e.leaf) else (leafPa e.leaf + (va - e.va.toNat)) / 64 * 64
      t = (s.countAccess e.ctx va home (leafTier e.leaf) (min n 0xFFFFFFFF)).modCore Core.advance)) ∧
  (va < 2 ^ 57 → s.tlb.find? (fun e => e.covers id va) = none →
    ((∀ e, s.walk id va ≠ .leaf e) → Gives (.pgCnt a b) s fun t => t = (s.cacheTables id va).modCore Core.advance) ∧
    ∀ e, s.walk id va = .leaf e → leafAperture e.used.leaf = false → Gives (.pgCnt a b) s fun t =>
      let leaf := e.used.leaf
      let u := (s.cacheTables id va).cache e
      let home := if leaf.getLsbD 10 then groupOf (leafPa leaf) else (leafPa leaf + (va - e.va.toNat)) / 64 * 64
      t = (if leaf.getLsbD 11 then u.countAccess e.ctx va home (leafTier leaf) (min n 0xFFFFFFFF) else u).modCore
        Core.advance) ∧
  (1 ≤ n → n ≤ 2 ^ 30 → va / 65536 = (va + n - 1) / 65536 →
    let hinted := fun (i : Instr) (up : Bool) => Gives i s fun t =>
      t.hints = (if s.managed id (va / 65536) ∧ s.hints.length < 64 then s.hints ++ [(id, va / 65536, up)] else s.hints) ∧
      WordBut s { t with hints := s.hints } fun c => c
    hinted (.pgHintUp a b) true ∧ hinted (.pgHintDown a b) false) ∧
  (s.slotOf id = some c → (s.ctxs[c]).priv = true → s.core.posted = [] →
    let drops := fun (i : Instr) (x : InvScope) => s.usersOf x = [] → Gives i s fun t =>
      t.tlb = s.tlb.filter (fun e => !x.has e) ∧ t.tables = s.tables.filter (fun e => !x.hasTable e) ∧
      WordBut s { t with tlb := s.tlb, tables := s.tables } fun c => c
    (va < 2 ^ 57 → drops (.tlbInvPage a) (.page id va)) ∧ drops .tlbInvCtx (.ctx id) ∧ drops .tlbInvAll .all) ∧
  (s.slotOf id = some c → (s.ctxs[c]).priv = true → s.core.posted = [] → CanTrap s → 2 ^ 57 ≤ va →
    Gives (.tlbInvPage a) s fun t => TookTrap s t 5 (BitVec.ofNat 64 (va % 2 ^ 57))) ∧
  (s.slotOf id = some c → (s.ctxs[c]).priv = false → CanTrap s →
    Gives (.tlbInvPage a) s (fun t => TookTrap s t 3 (BitVec.ofNat 64 (0xDC000002 + a.toNat * 65536))) ∧
    Gives .tlbInvCtx s (fun t => TookTrap s t 3 0xDC000012) ∧
    Gives .tlbInvAll s (fun t => TookTrap s t 3 0xDC000022))

/-- R383 to R388, R390, R391, R395 to R398: the words of the microbatch scheduler, with the arrivals it refuses and the B
arrival that comes before its F step has retired, and its evaluation: which row of the policy acts, what each action does
to the stage, the launch record of a pick with its version and that version's base, and what a retirement makes of its
record. `mb.pol` loads a policy block that is in order and binds Weir to the context. The order of arrivals and
evaluations is the model's reading (log entries 62 and 63). -/
def Obligations.WeirWords : Prop :=
  (∀ (d a : XReg) (st : BitVec 2) (s : State),
  let id := s.curCtx
  let k := st.toNat
  let x := s.stage k
  let tag := (s.core.rx a).toNat
  let src := FSource.core (BitVec.ofNat 7 s.cur.val)
  let arrives := fun (i : Instr) (x' : WeirStage) => Gives i s fun t =>
    t = (State.weirEvent ({ s with weir := { s.weir with clock := s.weir.clock + 1 } }.modStage k fun _ => x')).modCore
      Core.advance
  let refused := fun (i : Instr) (info : DWord) => Gives i s fun t => TookTrap s t 17 info
  (s.weir.ctx ≠ some id → CanTrap s → refused (.mbPostF a st) 21 ∧ refused (.mbPostB a st) 21 ∧ refused (.mbDone st) 21) ∧
  (s.weir.ctx = some id → x.valid = false → CanTrap s →
    refused (.mbPostF a st) 19 ∧ refused (.mbPostB a st) 19 ∧ refused (.mbDone st) 19) ∧
  (s.weir.ctx = some id → x.valid = true →
  (s.core.inFlight = [] → s.holding s.cur (fun _ => true) = false →
    (∀ h ∈ s.core.holders, h.2.performed = true ∨ s.touchesGlobal s.core h.2 = false) → tag < 65536 →
    ((∀ r ∈ x.recs, r.tag ≠ BitVec.ofNat 16 tag) → (x.fsrc = none ∨ x.fsrc = some src) → x.recs.length < 64 →
      arrives (.mbPostF a st) { x with
        recs := x.recs ++ [⟨BitVec.ofNat 16 tag, x.nextAsn, .arrivedF, false, none, false, 0⟩]
        nextAsn := x.nextAsn + 1, fsrc := some src }) ∧
    (∀ r, x.recs.find? (fun r => r.tag = BitVec.ofNat 16 tag) = some r →
      (r.state = .stashed → arrives (.mbPostB a st)
        (x.modRec r.asn fun r => { r with state := .arrivedB, since := s.weir.clock })) ∧
      (r.state = .arrivedF ∨ r.state = .fRunning → r.bpend = false → arrives (.mbPostB a st)
        (x.modRec r.asn fun r => { r with bpend := true, since := s.weir.clock })) ∧
      (CanTrap s → refused (.mbPostF a st) 19 ∧
        (r.state ≠ .stashed → ¬((r.state = .arrivedF ∨ r.state = .fRunning) ∧ r.bpend = false) →
          refused (.mbPostB a st) 19))) ∧
    ((∀ r ∈ x.recs, r.tag ≠ BitVec.ofNat 16 tag) → CanTrap s → refused (.mbPostB a st) 19 ∧
      (∀ f, x.fsrc = some f → f ≠ src → refused (.mbPostF a st) 19))) ∧
  (65536 ≤ tag → CanTrap s → refused (.mbPostF a st) 19 ∧ refused (.mbPostB a st) 19) ∧
  (x.marker = none → Gives (.mbDone st) s fun t =>
    t = (State.applyMarkers 4 (s.modStage k fun x => { x with marker := some x.nextAsn })).modCore Core.advance) ∧
  (∀ (j : Job) (p : WeirPick), s.core.job = some j → ((s.group j.slot).bind (·.src.pick)) = some p → p.step = 2 →
    j.j = 0 →
    let y := s.stage p.stage.toNat
    Gives (.mbVerCur d) s (fun t => RegWord s t d (y.slotVa ((y.slotServing p.asn).getD 0)) 0) ∧
    (∀ r sl, y.reserved = some (r, sl) → Gives (.mbVerNew d) s fun t => RegWord s t d (y.slotVa r) 0) ∧
    (∀ r, y.reserved = none → (List.range 8).find? (fun r => !y.inUse r) = some r → Gives (.mbVerNew d) s fun t =>
      t.weir = (s.modStage p.stage.toNat fun y =>
        { y with reserved := some (r, j.slot), slots := y.slots.set r none }).weir ∧
      RegWord s { t with weir := s.weir } d (y.slotVa r) 0)))) ∧
  (∀ (a : XReg) (s u : State) (c : Fin 16) (lines : List Nat),
  let ea := s.core.rx a
  let id := s.curCtx
  let b := lines.foldr (fun x n => x + 2 ^ 512 * n) 0
  let row := fun k => bits b (64 * k + 63) (64 * k)
  let sd := fun k => bits b (2048 + 512 * k + 511) (2048 + 512 * k)
  s.slotOf id = some c → (s.ctxs[c]).priv = true →
  (s.weir.ctx = none ∨ (s.weir.ctx = some id ∧ ∀ st ∈ s.weir.stages, st.recs = [])) →
  mapM' (fun k => loadWord (ea + BitVec.ofNat 64 (64 * k)) 64) (List.range 8) s = .ok (lines, u) →
  (∀ k < 32, bitN (row k) 0 = true → rowOk (row k) = true) →
  (∀ k < 4, bitN (sdFlags (sd k)) 0 = true → sdOk (sd k) s.ncore (s.ctxs[c]).cores = true) →
    Gives (.mbPol a) s fun t =>
      t = (State.weirEvent { u with weir := { u.weir with
        ctx := some id, rows := (List.range 32).map fun k => BitVec.ofNat 64 (row k)
        stages := (List.range 4).map fun k => freshStage (sd k), held := [] } }).modCore Core.advance) ∧
  (∀ (s : State) (row : DWord) (rows : List DWord),
  let v := row.toNat
  let k := bits v 2 1
  let x := s.stage k
  let lag := bits x.sd.toNat 122 120
  let inState := fun y : RecState => x.recs.filter fun r => r.state = y
  let queue := fun q : Nat => inState (if q = 0 then .arrivedF else if q = 1 then .arrivedB else .wPending)
  let first := fun (key : WeirRec → Nat) (rs : List WeirRec) (r : WeirRec) => r ∈ rs ∧ ∀ q ∈ rs, q ≠ r → key r < key q
  let holds := x.valid = true ∧ x.halt = false ∧ bits v 30 24 ≤ x.infl ∧ x.infl ≤ bits v 38 32 ∧
    (bits v 17 16 = 1 → 0 < x.warm) ∧ (bits v 17 16 = 2 → x.warm = 0) ∧
    (∀ q < 3, (bitN v (8 + q) = true → queue q ≠ []) ∧ (bitN v (12 + q) = true → queue q = [])) ∧
    (bitN v 7 = true → x.picked = 0)
  let act := bits v 6 4
  let changed := fun f : WeirStage → WeirStage =>
    { s with weir := { s.weir with stages := s.weir.stages.modify k f } }
  let picks := fun (step : Nat) (r : WeirRec) (f : WeirStage → WeirStage) =>
    let u := changed fun y => { f y with
      recs := y.recs.map fun q => if q.asn = r.asn then r else q, picked := y.picked + 1 }
    s.scanRows (row :: rows) = some (State.submitHeld (s.weir.held.length + 1)
      { u with weir := { u.weir with held := s.weir.held ++ [pickRecord (s.weir.ctx.getD 0) x k step r] } })
  let goesOn := s.scanRows (row :: rows) = s.scanRows rows
  s.scanRows [] = none ∧ (bitN v 0 = false ∨ ¬holds → goesOn) ∧
  (bitN v 0 = true → holds →
    (act = 0 → s.scanRows (row :: rows) = none) ∧
    (act = 1 → (queue 0 = [] → goesOn) ∧ ∀ r, first WeirRec.asn (queue 0) r →
      (r.asn - lag ≠ x.head → goesOn) ∧
      (r.asn - lag = x.head → picks 0 { r with state := .fRunning, held := some x.head, warmed := decide (0 < x.warm) }
        fun y => { y with infl := y.infl + 1, warm := y.warm - 1 })) ∧
    (act = 2 → (queue 1 = [] → goesOn) ∧ ∀ r, first WeirRec.since (queue 1) r →
      (∀ q ∈ x.recs, q.asn = r.asn → q = r) → picks 1 { r with state := .bRunning } id) ∧
    (act = 3 → (x.recs = [] → goesOn) ∧ ∀ r, first WeirRec.asn x.recs r →
      (r.state ≠ .wPending → goesOn) ∧
      (r.state = .wPending → bits x.sd.toNat 95 64 = 0 →
        s.scanRows (row :: rows) = some (changed fun y => y.publish r.asn)) ∧
      (r.state = .wPending → bits x.sd.toNat 95 64 ≠ 0 → picks 2 { r with state := .wRunning } id)) ∧
    (4 ≤ act → (queue 0 = [] → goesOn) ∧ ∀ r, first WeirRec.asn (queue 0) r →
      if x.head + 1 ≤ x.published ∧ x.head < r.asn - lag then
        s.scanRows (row :: rows) = some (changed fun y => { y with head := y.head + 1 })
      else goesOn)) ∧
  ∀ n, (s.scanRows s.weir.rows = none → State.evalRounds (n + 1) s = s) ∧
    ∀ t, s.scanRows s.weir.rows = some t → State.evalRounds (n + 1) s = State.evalRounds n t) ∧
  ∀ (s : State) (id : CtxId) (x : WeirStage) (k step j lo hi : Nat) (r : WeirRec) (p : WeirPick),
    let serves := fun (v j lo hi : Nat) => x.slots[j]? = some (some (lo, hi)) ∧ lo ≤ v ∧ v ≤ hi ∧
      ∀ i < j, ∀ l h, x.slots[i]? = some (some (l, h)) → v < l ∨ h < v
    let d := x.sd.toNat
    (step < 3 → serves (r.held.getD 0) j lo hi →
      let y := pickRecord id x k step r
      y.ctx = id ∧ y.depth = 0 ∧ y.record = {
        khandle := BitVec.ofNat 32 (bits d (32 * step + 31) (32 * step)), gprio := BitVec.ofNat 8 (bits d 103 96)
        phb := bitN d 105, pblen := bits d 335 320, param := BitVec.ofNat 64 (bits d 319 256)
        part := BitVec.ofNat 128 (bits d 255 128), wait := 0, set := 0 } ∧
      y.pick = some {
        stage := BitVec.ofNat 2 k, step := BitVec.ofNat 2 step, tag := r.tag, asn := r.asn
        wver := BitVec.ofNat 64 (r.held.getD 0), wbase := BitVec.ofNat 64 (bits d 447 384 + j * bits d 383 352) }) ∧
    (let y := x.publish r.asn
     y.published = max x.published (r.asn + 1) ∧ y.recs = x.recs.filter (fun q => q.asn ≠ r.asn) ∧
     (∀ i g, x.reserved = some (i, g) → y.slots = x.slots.set i (some (r.asn + 1, r.asn + 1))) ∧
     (x.reserved = none → serves r.asn j lo hi → y.slots = x.slots.set j (some (lo, max hi (r.asn + 1)))) ∧
     { y with slots := x.slots, published := x.published, recs := x.recs, reserved := x.reserved, infl := x.infl } = x ∧
     y.reserved = none ∧ y.infl = x.infl - 1) ∧
    (s.weir.ctx = some id → (∃ q ∈ (s.stage p.stage.toNat).recs, q.asn = p.asn) →
      let event := fun f : WeirStage → WeirStage =>
        let stages := s.weir.stages.modify p.stage.toNat fun y => f { y with picked := y.picked - 1 }
        s.weirRetired id p = State.weirEvent { s with weir := { s.weir with stages := stages } }
      let each := fun (f : WeirRec → WeirRec) (y : WeirStage) =>
        { y with recs := y.recs.map fun q => if q.asn = p.asn then f q else q }
      (p.step = 0 → event (each fun q => { q with
        state := if q.bpend then .arrivedB else .stashed, bpend := false })) ∧
      (p.step = 1 → event (each fun q => { q with state := .wPending })) ∧
      (p.step = 2 → event fun y => y.publish p.asn))

/-- R443, R446, R451: `trc.mark` writes a record where tracing is on and has room, counts it as dropped where there is
none, and changes nothing besides; `dig.rd` and `dig.clr` read and clear the context's digest while its group is the only
one. TIME of a record is a free value (log entry 6). -/
def Obligations.TraceAndDigestWords : Prop := ∀ (d a : XReg) (w : BitVec 2) (s : State) (c : Fin 16),
  let ctl := s.regs.trctl
  let log := let x := s.regs.trbase.toNat % 32; if 6 ≤ x ∧ x ≤ 20 then x else 6
  let at_ := bits s.regs.trbase.toNat 50 12 * 4096 + 32 * (s.regs.trwr.toNat % 2 ^ log)
  (ctl.getLsbD 0 = false ∨ ctl.getLsbD 1 = false → Gives (.trcMark a) s fun t => RegWord s t 0 0 0) ∧
  (ctl.getLsbD 0 = true → ctl.getLsbD 1 = true → 2 ^ log ≤ s.regs.trwr.toNat - s.regs.trrd.toNat →
    Gives (.trcMark a) s fun t => RegWord s { t with regs := s.regs } 0 0 0 ∧ t.regs = { s.regs with
      trctl := BitVec.ofNat 64 (ctl.toNat % 2 ^ 48 + min (ctl.toNat / 2 ^ 48 + 1) 65535 * 2 ^ 48) }) ∧
  (Memory.wf s.mem = true → ctl.getLsbD 0 = true → ctl.getLsbD 1 = true →
    s.regs.trwr.toNat - s.regs.trrd.toNat < 2 ^ log → Gives (.trcMark a) s fun t =>
      WroteBytes s.mem t.mem at_ (leBytes 8 (Config.freeTime s.fresh).toNat ++
        leBytes 8 (1 + s.cur.val * 256 + s.curCtx.toNat * 65536 + s.core.iseq.toNat * 2 ^ 32) ++
        leBytes 8 (s.core.rx a).toNat ++ leBytes 8 s.core.pc.toNat) ∧
      t.regs = { s.regs with trwr := s.regs.trwr + 1 } ∧ t.fresh = s.fresh + 1 ∧
      WordBut s { t with mem := s.mem, regs := s.regs, fresh := s.fresh } fun c => c) ∧
  (s.slotOf s.curCtx = some c → s.otherRecords s.curCtx s.core.jobSlot = [] →
    Gives (.digRd d w) s (fun t =>
      RegWord s t d (BitVec.ofNat 64 (fieldNat 64 w.toNat (s.ctxs[c]).dg.toNat)) 0) ∧
    Gives .digClr s (fun t => t.ctxs = s.ctxs.set c { s.ctxs[c] with dg := 0 } ∧
      WordBut s { t with ctxs := s.ctxs } fun c => c))

/-- R185, R186: the floating-point words of the V slot: each element is rounded once from the exact value, or is a
selection or a bit operation that raises nothing. -/
def Obligations.VectorFloatWords : Prop := ∀ (rl : Bool) (d : VDst) (a b : VSrc) (g : Guard) (s : State),
  let two := fun (major fn : Nat) (i : Instr) (f : FFmt) (op : Nat → Nat → Nat × Flags) => CodedV i rl false major fn ∧
    VecRuns i g d [a, b] s fun v r fl => Elementwise f.width (fun n => op (elemN f.width (v 0) n) (elemN f.width (v 1) n)) r fl
  let one := fun (major fn : Nat) (i : Instr) (f : FFmt) (op : Nat → Nat × Flags) => CodedV i rl true major fn ∧
    VecRuns i g d [a] s fun v r fl => Elementwise f.width (fun n => op (elemN f.width (v 0) n)) r fl
  let fused := fun (major fn : Nat) (i : Instr) (f : FFmt) (np na : Bool) => CodedV i rl false major fn ∧
    VecRuns i g d [a, b, dstSrc d] s fun v r fl =>
    let x := fun (k n : Nat) => decF f (elemN f.width (v k) n)
    Elementwise f.width (fun n =>
      if (x 0 n).isNan || (x 1 n).isNan || (x 2 n).isNan then (f.nanBits, 0)
      else match mulV (x 0 n) (x 1 n) with
        | none => (f.nanBits, flagIV)
        | some p => sumF f [if np then p.neg else p, if na then (x 2 n).neg else x 2 n]) r fl
  let adds := fun (f : FFmt) (x y : Nat) => sumF f [decF f x, decF f y]
  let subs := fun (f : FFmt) (x y : Nat) => sumF f [decF f x, (decF f y).neg]
  let muls := fun (f : FFmt) (x y : Nat) => match mulV (decF f x) (decF f y) with
    | none => (f.nanBits, flagIV)
    | some p => convF f .rne p
  let greater := fun (f : FFmt) (x y : Nat) => (if totalKey f.width x < totalKey f.width y then y else x, (0 : Flags))
  let lesser := fun (f : FFmt) (x y : Nat) => (if totalKey f.width y < totalKey f.width x then y else x, (0 : Flags))
  let half := fun (f : FFmt) => 2 ^ (f.width - 1)
  let clears := fun (f : FFmt) (x : Nat) => (x % half f, (0 : Flags))
  let inverts := fun (f : FFmt) (x : Nat) => (if x < half f then x + half f else x - half f, (0 : Flags))
  two 1 0 (.vaddF32 rl d a b g) .f32 (adds .f32) ∧
  two 1 1 (.vsubF32 rl d a b g) .f32 (subs .f32) ∧
  two 1 2 (.vmulF32 rl d a b g) .f32 (muls .f32) ∧
  two 1 3 (.vmaxF32 rl d a b g) .f32 (greater .f32) ∧
  two 1 4 (.vminF32 rl d a b g) .f32 (lesser .f32) ∧
  one 1 5 (.vabsF32 rl d a g) .f32 (clears .f32) ∧
  one 1 6 (.vnegF32 rl d a g) .f32 (inverts .f32) ∧
  fused 4 0 (.vfmaF32 rl d a b g) .f32 false false ∧
  fused 4 1 (.vfmsF32 rl d a b g) .f32 false true ∧
  fused 4 2 (.vfnmaF32 rl d a b g) .f32 true true ∧
  fused 4 3 (.vfnmsF32 rl d a b g) .f32 true false ∧
  two 2 0 (.vaddBf16 rl d a b g) .bf16 (adds .bf16) ∧
  two 2 1 (.vsubBf16 rl d a b g) .bf16 (subs .bf16) ∧
  two 2 2 (.vmulBf16 rl d a b g) .bf16 (muls .bf16) ∧
  two 2 3 (.vmaxBf16 rl d a b g) .bf16 (greater .bf16) ∧
  two 2 4 (.vminBf16 rl d a b g) .bf16 (lesser .bf16) ∧
  one 2 5 (.vabsBf16 rl d a g) .bf16 (clears .bf16) ∧
  one 2 6 (.vnegBf16 rl d a g) .bf16 (inverts .bf16) ∧
  fused 5 0 (.vfmaBf16 rl d a b g) .bf16 false false ∧
  fused 5 1 (.vfmsBf16 rl d a b g) .bf16 false true ∧
  fused 5 2 (.vfnmaBf16 rl d a b g) .bf16 true true ∧
  fused 5 3 (.vfnmsBf16 rl d a b g) .bf16 true false ∧
  two 3 0 (.vaddF16 rl d a b g) .f16 (adds .f16) ∧
  two 3 1 (.vsubF16 rl d a b g) .f16 (subs .f16) ∧
  two 3 2 (.vmulF16 rl d a b g) .f16 (muls .f16) ∧
  two 3 3 (.vmaxF16 rl d a b g) .f16 (greater .f16) ∧
  two 3 4 (.vminF16 rl d a b g) .f16 (lesser .f16) ∧
  one 3 5 (.vabsF16 rl d a g) .f16 (clears .f16) ∧
  one 3 6 (.vnegF16 rl d a g) .f16 (inverts .f16) ∧
  fused 5 4 (.vfmaF16 rl d a b g) .f16 false false ∧
  fused 5 5 (.vfmsF16 rl d a b g) .f16 false true ∧
  fused 5 6 (.vfnmaF16 rl d a b g) .f16 true true ∧
  fused 5 7 (.vfnmsF16 rl d a b g) .f16 true false

/-- R187, R188, R189, R190: the integer, logic, compare and select words of the V slot. -/
def Obligations.VectorIntegerWords : Prop := ∀ (rl : Bool) (d : VDst) (a b : VSrc) (g : Guard) (s : State),
  let int2 := fun (major fn : Nat) (i : Instr) (w : Nat) (op : Int → Int → Int) =>
    CodedV i rl false major fn ∧ VecRuns i g d [a, b] s fun v r fl => fl = 0 ∧
    ∀ n < 2048 / w, (elemN w r n : Int) = op (signed w (elemN w (v 0) n)) (signed w (elemN w (v 1) n)) % 2 ^ w
  let int1 := fun (major fn : Nat) (i : Instr) (w : Nat) (op : Int → Int) =>
    CodedV i rl true major fn ∧ VecRuns i g d [a] s fun v r fl => fl = 0 ∧
    ∀ n < 2048 / w, (elemN w r n : Int) = op (signed w (elemN w (v 0) n)) % 2 ^ w
  let uns2 := fun (major fn : Nat) (i : Instr) (w : Nat) (op : Nat → Nat → Nat) =>
    CodedV i rl false major fn ∧ VecRuns i g d [a, b] s fun v r fl => fl = 0 ∧
    ∀ n < 2048 / w, elemN w r n = op (elemN w (v 0) n) (elemN w (v 1) n)
  let sat2 := fun (major fn : Nat) (i : Instr) (w : Nat) (op : Int → Int → Int) =>
    CodedV i rl false major fn ∧ VecRuns i g d [a, b] s fun v r fl =>
    let x := fun n => op (signed w (elemN w (v 0) n)) (signed w (elemN w (v 1) n))
    let lo : Int := -2 ^ (w - 1)
    let hi : Int := 2 ^ (w - 1) - 1
    (∀ n < 2048 / w, (elemN w r n : Int) = max lo (min hi (x n)) % 2 ^ w) ∧
      fl = if ∃ n < 2048 / w, x n < lo ∨ hi < x n then flagSAT else 0
  let word2 := fun (major fn : Nat) (i : Instr) (op : Word → Word → Word) =>
    CodedV i rl false major fn ∧ VecRuns i g d [a, b] s fun v r fl => fl = 0 ∧
    Lanes (fun n => op (lane (v 0) n) (lane (v 1) n)) r
  let test := fun (major fn : Nat) (i : Instr) (rel : Word → Word → Prop) =>
    CodedV i rl false major fn ∧ VecRuns i g d [a, b] s fun v r fl => fl = 0 ∧
    ∀ n < 64, (rel (lane (v 0) n) (lane (v 1) n) → lane r n = 0xFFFFFFFF) ∧
      (¬rel (lane (v 0) n) (lane (v 1) n) → lane r n = 0)
  let value := fun (x : Word) => decF .f32 x.toNat
  let isLess := fun (x y : Word) => (value x).lt (value y) = true
  let isEqual := fun (x y : Word) =>
    (value x).isNan = false ∧ (value y).isNan = false ∧ (value x).lt (value y) = false ∧ (value y).lt (value x) = false
  int2 6 0 (.vaddI32 rl d a b g) 32 (· + ·) ∧
  int2 6 1 (.vsubI32 rl d a b g) 32 (· - ·) ∧
  int2 6 2 (.vmulI32 rl d a b g) 32 (· * ·) ∧
  int2 6 3 (.vmulhI32 rl d a b g) 32 (fun x y => x * y / 2 ^ 32) ∧
  int2 6 4 (.vminI32 rl d a b g) 32 min ∧
  int2 6 5 (.vmaxI32 rl d a b g) 32 max ∧
  uns2 6 6 (.vminuI32 rl d a b g) 32 min ∧
  uns2 6 7 (.vmaxuI32 rl d a b g) 32 max ∧
  sat2 6 8 (.vaddsI32 rl d a b g) 32 (· + ·) ∧
  sat2 6 9 (.vsubsI32 rl d a b g) 32 (· - ·) ∧
  int1 6 10 (.vabsI32 rl d a g) 32 (fun x => x.natAbs) ∧
  int1 6 11 (.vnegI32 rl d a g) 32 (fun x => -x) ∧
  int2 7 0 (.vaddI16 rl d a b g) 16 (· + ·) ∧
  int2 7 1 (.vsubI16 rl d a b g) 16 (· - ·) ∧
  int2 7 2 (.vmulI16 rl d a b g) 16 (· * ·) ∧
  int2 7 3 (.vmulhI16 rl d a b g) 16 (fun x y => x * y / 2 ^ 16) ∧
  int2 7 4 (.vminI16 rl d a b g) 16 min ∧
  int2 7 5 (.vmaxI16 rl d a b g) 16 max ∧
  uns2 7 6 (.vminuI16 rl d a b g) 16 min ∧
  uns2 7 7 (.vmaxuI16 rl d a b g) 16 max ∧
  sat2 7 8 (.vaddsI16 rl d a b g) 16 (· + ·) ∧
  sat2 7 9 (.vsubsI16 rl d a b g) 16 (· - ·) ∧
  int1 7 10 (.vabsI16 rl d a g) 16 (fun x => x.natAbs) ∧
  int1 7 11 (.vnegI16 rl d a g) 16 (fun x => -x) ∧
  word2 8 0 (.vand rl d a b g) (· &&& ·) ∧
  word2 8 1 (.vor rl d a b g) (· ||| ·) ∧
  word2 8 2 (.vxor rl d a b g) (· ^^^ ·) ∧
  word2 8 3 (.vandn rl d a b g) (fun x y => x &&& ~~~y) ∧
  word2 8 5 (.vshl rl d a b g) (fun x y => BitVec.ofNat 32 (x.toNat * 2 ^ (y.toNat % 32))) ∧
  word2 8 6 (.vshr rl d a b g) (fun x y => BitVec.ofNat 32 (x.toNat / 2 ^ (y.toNat % 32))) ∧
  word2 8 7 (.vsra rl d a b g) (fun x y => BitVec.ofInt 32 (x.toInt / 2 ^ (y.toNat % 32))) ∧
  CodedV (.vnot rl d a g) rl true 8 4 ∧ VecRuns (.vnot rl d a g) g d [a] s (fun v r fl => fl = 0 ∧ Lanes (fun n => ~~~(lane (v 0) n)) r) ∧
  test 9 0 (.vceqF32 rl d a b g) isEqual ∧
  test 9 1 (.vcneF32 rl d a b g) (fun x y => ¬isEqual x y) ∧
  test 9 2 (.vcltF32 rl d a b g) isLess ∧
  test 9 3 (.vcleF32 rl d a b g) (fun x y => isLess x y ∨ isEqual x y) ∧
  test 9 4 (.vceqI32 rl d a b g) (· = ·) ∧
  test 9 5 (.vcneI32 rl d a b g) (· ≠ ·) ∧
  test 9 6 (.vcltI32 rl d a b g) (fun x y => x.toInt < y.toInt) ∧
  test 9 7 (.vcleI32 rl d a b g) (fun x y => x.toInt ≤ y.toInt) ∧
  test 9 8 (.vcltUi32 rl d a b g) (fun x y => x.toNat < y.toNat) ∧
  test 9 9 (.vcleUi32 rl d a b g) (fun x y => x.toNat ≤ y.toNat) ∧
  CodedV (.vsel rl d a b g) rl false 10 0 ∧ VecRuns (.vsel rl d a b g) g d [a, b, dstSrc d] s (fun v r fl => fl = 0 ∧
    Lanes (fun n => if lane (v 2) n ≠ 0 then lane (v 0) n else lane (v 1) n) r)

/-- R191, R203: the conversions and the exponent helpers of the V slot: a narrowing form writes its part and keeps the
other bytes of its destination, a widening form reads its part and is exact. That the integer zero converts to +0, under
RDN too, is the model's choice (log entry 100). -/
def Obligations.VectorConversionWords : Prop := ∀ (rl : Bool) (d : VDst) (a b : VSrc) (part : BitVec 3) (mode : RMode)
    (g : Guard) (s : State),
  let p := part.toNat
  let narrows := fun (i : Instr) (w : Nat) (op : Nat → Nat × Flags) => VecRuns i g d [a, dstSrc d] s fun v r fl =>
    (∀ k < 2048 / w, elemN w r k =
      if 64 * p ≤ k ∧ k < 64 * p + 64 then (op (elemN 32 (v 0) (k - 64 * p))).1 else elemN w (v 1) k) ∧
    ∀ k : Nat, k ≠ 1 → (fl.getLsbD k = true ↔ ∃ n < 64, (op (elemN 32 (v 0) n)).2.getLsbD k = true)
  let widens := fun (i : Instr) (f : FFmt) => VecRuns i g d [a] s fun v r fl => fl = 0 ∧
    ∀ n < 64, elemN 32 r n = (convF .f32 .rne (decF f (elemN f.width (v 0) (64 * p + n)))).1
  let words := fun (i : Instr) (op : Nat → Nat × Flags) => VecRuns i g d [a] s fun v r fl =>
    Elementwise 32 (fun n => op (elemN 32 (v 0) n)) r fl
  let toFloat := fun (f : FFmt) (x : Nat) => convF f mode (decF .f32 x)
  let toInt := fun (lo hi : Int) (x : Nat) =>
    let y := convI lo hi mode (decF .f32 x)
    ((y.1 % 2 ^ 32).toNat, y.2)
  let clamps := fun (w : Nat) (x : Nat) =>
    let y := signed 32 x
    let z := max (-2 ^ (w - 1)) (min (2 ^ (w - 1) - 1) y)
    ((z % 2 ^ w).toNat, if z = y then (0 : Flags) else flagSAT)
  narrows (.vcvtBf16F32 rl d a part mode g) 16 (toFloat .bf16) ∧
  narrows (.vcvtF16F32 rl d a part mode g) 16 (toFloat .f16) ∧
  narrows (.vcvtE4F32 rl d a part mode g) 8 (toFloat .e4m3) ∧
  narrows (.vcvtE5F32 rl d a part mode g) 8 (toFloat .e5m2) ∧
  narrows (.vcvtF4F32 rl d a part mode g) 4 (toFloat .e2m1) ∧
  narrows (.vcvtI8I32 rl d a part mode g) 8 (clamps 8) ∧
  narrows (.vcvtI16I32 rl d a part mode g) 16 (clamps 16) ∧
  widens (.vcvtF32Bf16 rl d a part mode g) .bf16 ∧
  widens (.vcvtF32F16 rl d a part mode g) .f16 ∧
  widens (.vcvtF32E4 rl d a part mode g) .e4m3 ∧
  widens (.vcvtF32E5 rl d a part mode g) .e5m2 ∧
  widens (.vcvtF32F4 rl d a part mode g) .e2m1 ∧
  words (.vcvtI32F32 rl d a part mode g) (toInt (-2147483648) 2147483647) ∧
  words (.vcvtUi32F32 rl d a part mode g) (toInt 0 4294967295) ∧
  words (.vcvtF32I32 rl d a part mode g) (fun x => convF .f32 mode (valOfInt (signed 32 x))) ∧
  words (.vcvtF32Ui32 rl d a part mode g) (fun x => convF .f32 mode (valOfInt x)) ∧
  words (.vxexp d a g) (fun x => match decF .f32 x with
    | .fin _ m e => (if m = 0 then 0x80000000 else (((Nat.log2 m : Int) + e) % 2 ^ 32).toNat, 0)
    | _ => (0x7FFFFFFF, 0)) ∧
  words (.vxmant d a g) (fun x => match decF .f32 x with
    | .fin t m _ => (if m = 0 then x else (convF .f32 .rne (.fin t m (-(Nat.log2 m : Int)))).1, 0)
    | .inf _ => (x, 0)
    | .nan => (0x7FC00000, 0)) ∧
  VecRuns (.vldexp d a b g) g d [a, b] s fun v r fl => Elementwise 32 (fun n => match decF .f32 (elemN 32 (v 0) n) with
    | .fin t m e => if m = 0 then (elemN 32 (v 0) n, 0) else
        convF .f32 .rne (.fin t m (e + max (-1000) (min 1000 (signed 32 (elemN 32 (v 1) n)))))
    | .inf _ => (elemN 32 (v 0) n, 0)
    | .nan => (0x7FC00000, 0)) r fl

/-- R193, R194: `vquant` gives each block the scale and the elements of its case, `vdeq` decodes each element with its
block's scale. -/
def Obligations.VectorQuantWords : Prop := ∀ (d : VDst) (a : VSrc) (bs : BlkG) (g : Guard) (s : State),
  let G := match bs with | .g16 => 16 | .g32 => 32 | .g64 => 64
  let quants := fun (i : Instr) (f : FFmt) (q : Nat) (nan : Nat) => VecRuns i g d [a] s fun v r fl =>
    let mag := fun n => elemN 32 (v 0) n % 2 ^ 31
    let top := fun (blk m : Nat) => (∃ n < G, mag (G * blk + n) = m) ∧ ∀ n < G, mag (G * blk + n) ≤ m
    let el := fun n => elemN f.width r n
    let slot := fun blk => elemN 16 r (32 + blk)
    (∀ k, 64 * f.width ≤ k → k < 512 → r.getLsbD k = false) ∧ (∀ k, 576 ≤ k → r.getLsbD k = false) ∧
    (∀ blk, 64 / G ≤ blk → blk < 4 → slot blk = 0) ∧
    ∃ fls : Nat → Flags, (∀ b : Nat, b ≠ 1 → (fl.getLsbD b = true ↔ ∃ n < 64, (fls n).getLsbD b = true)) ∧
      ∀ blk < 64 / G, ∀ m, top blk m →
        (0x7F800000 ≤ m → slot blk = 0xFF00 ∧ ∀ n < G, el (G * blk + n) = nan ∧ fls (G * blk + n) = flagIV) ∧
        (m = 0 → slot blk = 0 ∧ ∀ n < G, fls (G * blk + n) = 0 ∧
          el (G * blk + n) = if 2 ^ 31 ≤ elemN 32 (v 0) (G * blk + n) then 2 ^ (f.width - 1) else 0) ∧
        (0 < m → m < 0x7F800000 →
          (∃ x e, decF .f32 m = .fin false x e ∧ slot blk = (leastSc16
            (x * 2 ^ (bitLen q + 80) / q * 2 + if x * 2 ^ (bitLen q + 80) % q = 0 then 0 else 1)
            (e - (bitLen q + 80 : Nat) - 1)).toNat) ∧
          ∀ n < G, ∀ w, divV (decF .f32 (elemN 32 (v 0) (G * blk + n))) (sc16 (BitVec.ofNat 16 (slot blk))) = some w →
            (el (G * blk + n), fls (G * blk + n)) = convF f .sat w)
  let dequants := fun (i : Instr) (f : FFmt) => VecRuns i g d [a] s fun v r fl =>
    Elementwise 32 (fun n => convF .f32 .rne
      (scaleV (decF f (elemN f.width (v 0) n)) (sc16 (BitVec.ofNat 16 (elemN 16 (v 0) (32 + n / G)))))) r fl
  quants (.vquantE4 d a bs g) .e4m3 448 0x7F ∧
  quants (.vquantE5 d a bs g) .e5m2 57344 0x7E ∧
  quants (.vquantF4 d a bs g) .e2m1 6 0 ∧
  dequants (.vdeqE4 d a bs g) .e4m3 ∧
  dequants (.vdeqE5 d a bs g) .e5m2 ∧
  dequants (.vdeqF4 d a bs g) .e2m1

/-- R195, R196, R197, R202: reductions by the pairwise tree, permutes, `vmov` and `vimm`. -/
def Obligations.VectorReductionsAndPermutes : Prop := ∀ (rl : Bool) (d : VDst) (a b : VSrc) (n : BitVec 6) (g : Guard)
    (fmt : BitVec 2) (imm : Half) (g2 : BitVec 2) (s : State),
  let reduces := fun (fn : Nat) (i : Instr) (op : Nat → Nat → Nat × Flags) =>
    CodedV i false true 0xD fn ∧ VecRuns i g d [a] s fun v r fl =>
    ∃ tree : Nat → Nat → Nat × Flags,
      (∀ k < 64, tree 0 k = (elemN 32 (v 0) k, 0)) ∧
      (∀ l < 6, ∀ k < 2 ^ (5 - l), tree (l + 1) k = op (tree l (2 * k)).1 (tree l (2 * k + 1)).1) ∧
      (∀ k < 64, elemN 32 r k = (tree 6 0).1) ∧
      ∀ q : Nat, q ≠ 1 →
        (fl.getLsbD q = true ↔ ∃ l < 6, ∃ k < 2 ^ (5 - l), (tree (l + 1) k).2.getLsbD q = true)
  let quiet1 := fun (i : Instr) (f : VReg → Nat → Word) => VecRuns i g d [a] s fun v r fl => fl = 0 ∧ Lanes (f (v 0)) r
  reduces 0 (.vrsumF32 d a g) (fun x y => sumF .f32 [decF .f32 x, decF .f32 y]) ∧
  reduces 1 (.vrmaxF32 d a g) (fun x y => (if totalKey 32 x < totalKey 32 y then y else x, 0)) ∧
  reduces 2 (.vrminF32 d a g) (fun x y => (if totalKey 32 y < totalKey 32 x then y else x, 0)) ∧
  reduces 3 (.vrsumI32 d a g) (fun x y => ((x + y) % 2 ^ 32, 0)) ∧
  reduces 4 (.vrmaxI32 d a g) (fun x y => (if signed 32 x < signed 32 y then y else x, 0)) ∧
  reduces 5 (.vrminI32 d a g) (fun x y => (if signed 32 y < signed 32 x then y else x, 0)) ∧
  CodedV (.vperm rl d a b g) rl false 0xE 0 ∧ VecRuns (.vperm rl d a b g) g d [a, b] s (fun v r fl => fl = 0 ∧
    Lanes (fun k => lane (v 0) ((lane (v 1) k).toNat % 64)) r) ∧
  CodedV (.vbcast rl d a n g) rl false 0xE 1 ∧ quiet1 (.vbcast rl d a n g) (fun v _ => lane v n.toNat) ∧
  CodedV (.vext rl d a n g) rl false 0xE 2 ∧ quiet1 (.vext rl d a n g) (fun v k => if k + n.toNat < 64 then lane v (k + n.toNat) else 0) ∧
  CodedV (.vins rl d a n g) rl false 0xE 3 ∧ VecRuns (.vins rl d a n g) g d [a, dstSrc d] s (fun v r fl => fl = 0 ∧
    Lanes (fun k => if k = n.toNat then lane (v 0) 0 else lane (v 1) k) r) ∧
  VecRuns (.vmov d a g) g d [a] s (fun v r fl => fl = 0 ∧ r = v 0) ∧
  VecRuns (.vimm fmt d imm g2) (0#2 ++ g2) d [] s (fun _ r fl => fl = 0 ∧
    ∀ k < 128, elemN 16 r k = imm.toNat)

/-- R63, R137, R178, R179, R180, R204, R218: where a V word's sources come from and where its result goes: the views,
the operand file, the latch, a popped entry in every lane; rows of the URS and of an accumulator tile. -/
def Obligations.VectorPlaces : Prop := ∀ (v : VecState) (pops : List (Nat × DWord)) (d : VDst) (r : VReg) (k : BitVec 4),
  let row := fun (u : VecState) (n : Nat) => sget 0 u.urs n
  let w := v.put d r
  let at_ := (v.vview.toNat + k.toNat) % 256
  v.src pops (.v k) = row v at_ ∧ v.src pops (.o k) = v.o[k.toFin] ∧ v.src pops .lrl = v.lrl ∧ v.src pops .zero = 0 ∧
  (∀ n < 64, lane (v.src pops .laneid) n = BitVec.ofNat 32 n) ∧
  (∀ q : BitVec 2, ∀ p, pops.find? (fun p => p.1 = 8 + q.toNat) = some p → ∀ n < 64,
    lane (v.src pops (.q q)) n = BitVec.ofNat 32 p.2.toNat) ∧
  w.lrl = r ∧ { w with urs := v.urs, o := v.o, lrl := v.lrl } = v ∧
  (∀ n : Fin 16, w.o[n] = if d = .o (BitVec.ofFin n) then r else v.o[n]) ∧
  (sortedFrom 0 0 v.urs = true → sortedFrom 0 0 w.urs = true ∧
    ∀ n, row w n = if ∃ j, d = .v j ∧ n = (v.vview.toNat + j.toNat) % 256 then r else row v n) ∧
  ∀ (c : Core) (t i t' i' : Nat), sortedFrom 0 0 c.acc = true → i < 64 → i' < 64 →
    (c.setAccRow t i r).accRow t' i' = (if t' = t ∧ i' = i then r else c.accRow t' i') ∧
    sortedFrom 0 0 (c.setAccRow t i r).acc = true

/-- R144, R192, R197, R201: the words on MX registers, views, the conditional-stream buffer and guard pairs. -/
def Obligations.VectorStreamAndGuardWords : Prop := ∀ (d : VDst) (a b : VSrc) (n : BitVec 2) (m g : Guard)
    (mode : GsetMode) (s : State),
  let always := fun (_ : Core) (_ : Cmd) (_ : Nat → VReg) => True
  let none_ := fun (_ : Core) (_ : Cmd) (_ : Nat → VReg) => (0 : Nat)
  let nonzero := fun (v : VReg) => (List.range 64).filter fun k => lane v k ≠ 0
  VecActs (.vamax n a g) g [a] s always (fun c _ v c' fl => fl = 0 ∧ ∃ top : Word,
    c' = { c with vec := { c.vec with mx := c.vec.mx.set n.toFin top } } ∧
    (top = c.vec.mx[n.toFin] ∨ ∃ k < 64, top = lane (v 0) k &&& 0x7FFFFFFF) ∧
    totalKey 32 (c.vec.mx[n.toFin]).toNat ≤ totalKey 32 top.toNat ∧
    ∀ k < 64, totalKey 32 (lane (v 0) k &&& 0x7FFFFFFF).toNat ≤ totalKey 32 top.toNat) ∧
  VecRunsFrom (.vamaxr d n g) g d [] s (fun v => { v with mx := v.mx.set n.toFin 0 }) always none_
    (fun c _ _ r fl => fl = 0 ∧ Lanes (fun _ => c.vec.mx[n.toFin]) r) ∧
  VecActs (.vsetview a g) g [a] s always (fun c _ v c' fl => fl = 0 ∧
    c' = { c with vec := { c.vec with vview := BitVec.ofNat 8 (lane (v 0) 0).toNat } }) ∧
  VecActs (.vsetwview a g) g [a] s always (fun c _ v c' fl => fl = 0 ∧
    c' = { c with vec := { c.vec with wview := BitVec.ofNat 8 (lane (v 0) 0).toNat } }) ∧
  VecRunsFrom (.vgetview d g) g d [] s id always none_ (fun c _ _ r fl => fl = 0 ∧
    Lanes (fun _ => BitVec.ofNat 32 (c.vec.vview.toNat + 256 * c.vec.wview.toNat)) r) ∧
  VecActs (.vcpush a b g) g [a, b] s (fun c _ v => c.vec.cond.length + (nonzero (v 1)).length ≤ 1024)
    (fun c _ v c' fl => fl = 0 ∧
      c' = { c with vec := { c.vec with cond := c.vec.cond ++ (nonzero (v 1)).map (lane (v 0)) } }) ∧
  VecRunsFrom (.vcpop d g) g d [] s (fun v => { v with cond := v.cond.drop 64 }) always none_
    (fun c _ _ r fl => fl = 0 ∧ Lanes (fun k => c.vec.cond.getD k 0) r) ∧
  VecRunsFrom (.vccnt d g) g d [] s id always none_ (fun c _ _ r fl => fl = 0 ∧
    Lanes (fun _ => BitVec.ofNat 32 c.vec.cond.length) r) ∧
  VecActs (.vgset mode m a g) g [a] s (fun c _ _ => (c.pair m).isOpen = true) (fun c _ v c' fl => fl = 0 ∧
    { c' with guards := c.guards } = c ∧ (c'.pair m).isOpen = false ∧
    c'.guardVal m = (match mode with
      | .any => decide (nonzero (v 0) ≠ [])
      | .all => decide ((nonzero (v 0)).length = 64)
      | .lane0 => decide (lane (v 0) 0 ≠ 0)) ∧
    c'.guardVal (m ^^^ 1) = !c'.guardVal m ∧ ∀ m' : Guard, m'.toNat / 2 ≠ m.toNat / 2 → c'.pair m' = c.pair m')

/-- R104, R198, R199, R200, R204, R230: the vector accesses to XS and to accumulator rows: the lanes loaded, the bytes
stored, and what a read loses to bank conflicts. That the 64 lanes of a word are one read of the address generator is the
model's choice (log entry 69). -/
def Obligations.VectorMemoryWords : Prop := ∀ (rl : Bool) (d : VDst) (a b : VSrc) (w : BitVec 2) (n : BitVec 3)
    (k row : BitVec 6) (t : BitVec 3) (g : Guard) (s : State),
  let ly := fun (x : Cmd) => x.snap.ly[n.toFin]
  let flat := fun (x : Cmd) (size : Nat) => lyBase (ly x) + size * k.toNat
  let flatOk := fun (size : Nat) (c : Core) (x : Cmd) (_ : Nat → VReg) =>
    lySpace (ly x) = 0 ∧ flat x size % 4 = 0 ∧ flat x size + size ≤ c.barBase
  let strided := fun (x : Cmd) (i : Nat) => (lyBase (ly x) + k.toNat * lyStride (ly x) 1 + i * lyStride (ly x) 0 : Int)
  let element := fun (x : Cmd) (idx : VReg) (i : Nat) =>
    let j := (lane idx i).toNat
    let E := lyExt (ly x)
    (lyBase (ly x) + ((j % E 0 : Nat) : Int) * lyStride (ly x) 0 + ((j / E 0 % E 1 : Nat) : Int) * lyStride (ly x) 1 +
      ((j / (E 0 * E 1) % E 2 : Nat) : Int) * lyStride (ly x) 2 + ((j / (E 0 * E 1 * E 2) : Nat) : Int) * lyStride (ly x) 3 : Int)
  let fits := fun (c : Core) (x : Cmd) (f : Nat → Int) =>
    lySpace (ly x) = 0 ∧ ∀ i < 64, 0 ≤ f i ∧ f i % 4 = 0 ∧ f i + 4 ≤ c.barBase
  let inside := fun (x : Cmd) (idx : VReg) => ∀ i < 64, (lane idx i).toNat < lyCount (ly x)
  let none_ := fun (_ : Core) (_ : Cmd) (_ : Nat → VReg) => (0 : Nat)
  let lost := fun (f : Nat → Int) => lostCycles ((List.range 64).map fun i => (f i).toNat)
  let loads := fun (c : Core) (f : Nat → Int) (r : VReg) (fl : Flags) =>
    fl = 0 ∧ ∀ i < 64, elemN 32 r i = readLE c.xs (f i).toNat 4
  let stores := fun (c c' : Core) (f : Nat → Int) (v : VReg) (fl : Flags) =>
    let at_ := fun (i p : Nat) => (f i).toNat ≤ p ∧ p < (f i).toNat + 4
    fl = 0 ∧ { c' with xs := c.xs } = c ∧ ∀ p,
      (∀ i < 64, at_ i p → (∀ j < 64, i < j → ¬at_ j p) →
        (readByte c'.xs p).toNat = (lane v i).toNat / 256 ^ (p - (f i).toNat) % 256) ∧
      ((∀ i < 64, ¬at_ i p) → readByte c'.xs p = readByte c.xs p)
  VecRunsFrom (.vld rl d n k g) g d [] s id (flatOk 256) none_
    (fun c x _ r fl => loads c (fun i => (flat x 256 + 4 * i : Nat)) r fl) ∧
  VecActs (.vldW rl w n k g) g [] s (flatOk 1024) (fun c x _ c' fl => fl = 0 ∧
    { c' with vec := c.vec } = c ∧ { c'.vec with urs := c.vec.urs } = c.vec ∧
    (sortedFrom 0 0 c.vec.urs = true → ∀ j, sget 0 c'.vec.urs j =
      if ∃ i < 4, j = (c.vec.wview.toNat + 4 * w.toNat + i) % 256 then
        BitVec.ofNat 2048 (readLE c.xs (flat x 1024 + 256 * ((j + 1024 - c.vec.wview.toNat - 4 * w.toNat) % 256)) 256)
      else sget 0 c.vec.urs j)) ∧
  VecActs (.vst rl n a k g) g [a] s (flatOk 256) (fun c x v c' fl => fl = 0 ∧ { c' with xs := c.xs } = c ∧
    (Memory.wf c.xs = true → WroteBytes c.xs c'.xs (flat x 256) (leBytes 256 (v 0).toNat))) ∧
  VecActs (.vstW rl n w k g) g [] s (flatOk 1024) (fun c x _ c' fl => fl = 0 ∧ { c' with xs := c.xs } = c ∧
    (Memory.wf c.xs = true → WroteBytes c.xs c'.xs (flat x 1024) ((List.range 4).flatMap fun j =>
      leBytes 256 (sget 0 c.vec.urs ((c.vec.wview.toNat + 4 * w.toNat + j) % 256)).toNat))) ∧
  VecRunsFrom (.vlds rl d n k g) g d [] s id (fun c x _ => fits c x (strided x)) (fun _ x _ => lost (strided x))
    (fun c x _ r fl => loads c (strided x) r fl) ∧
  VecActs (.vsts rl n a k g) g [a] s (fun c x _ => fits c x (strided x) ∧ Memory.wf c.xs = true)
    (fun c x v c' fl => stores c c' (strided x) (v 0) fl) ∧
  VecRunsFrom (.vgath rl d n b g) g d [b] s id (fun c x v => inside x (v 0) ∧ fits c x (element x (v 0)))
    (fun _ x v => lost (element x (v 0))) (fun c x v r fl => loads c (element x (v 0)) r fl) ∧
  VecActs (.vscat rl n a b g) g [a, b] s
    (fun c x v => inside x (v 1) ∧ fits c x (element x (v 1)) ∧ Memory.wf c.xs = true)
    (fun c x v c' fl => stores c c' (element x (v 1)) (v 0) fl) ∧
  VecRunsFrom (.vaccRd d t row g) g d [] s id (fun c _ _ => t.toNat < c.acct) none_
    (fun c _ _ r fl => fl = 0 ∧ r = c.accRow t.toNat row.toNat) ∧
  VecActs (.vaccWr t a row g) g [a] s (fun c _ _ => t.toNat < c.acct)
    (fun c _ v c' fl => fl = 0 ∧ c' = c.setAccRow t.toNat row.toNat (v 0))

/-- R230, R433, R434: `vheapm` and `vnormm` on records that pass the checks, row by row; a row's heap is the best K of the
entries of both rows, a row's header its merged normaliser and label logit. The flags of vnormm are those of its
roundings (R36, R38). That the two records' reads of one row are one read, in what they lose to bank conflicts, is the
model's choice (log entry 69). -/
def Obligations.RowRecordMerges : Prop := ∀ (d a b : BitVec 3) (g : Guard) (s : State),
  let rec_ := fun (x : Cmd) (n : BitVec 3) => x.snap.ly[n.toFin]
  let row := fun (r : BitVec 512) (k : Nat) => ((lyBase r : Int) + (k : Int) * lyStride r 1 : Int)
  let ok := fun (ext : Core → BitVec 512 → Nat → Nat) (c : Core) (x : Cmd) (_ : Nat → VReg) =>
    let (D, A, B) := (rec_ x d, rec_ x a, rec_ x b)
    (∀ r ∈ [D, A, B], lySpace r = 0 ∧ lyBase r % 16 = 0 ∧ lyStride r 1 % 16 = 0 ∧ lyExt r 1 = lyExt D 1 ∧
      ∀ k < lyExt D 1, 0 ≤ row r k ∧ row r k + ext c A k ≤ c.barBase) ∧
    ((∃ r ∈ [A, B], lyBase D = lyBase r ∧ lyStride D 1 = lyStride r 1) ∨
      ∀ r ∈ [A, B], ∀ i < lyExt D 1, ∀ j < lyExt D 1,
        row D i + ext c A i ≤ row r j ∨ row r j + ext c A j ≤ row D i)
  let K := fun (m : Mem) (r : BitVec 512) (k : Nat) => readLE m ((row r k).toNat + 12) 4 % 512
  let entries := fun (m : Mem) (p n : Nat) => (List.range n).map fun k =>
    (BitVec.ofNat 32 (readLE m (p + 16 + 8 * k) 4), BitVec.ofNat 32 (readLE m (p + 20 + 8 * k) 4))
  let word := fun (m : Mem) (r : BitVec 512) (k off : Nat) => BitVec.ofNat 32 (readLE m ((row r k).toNat + off) 4)
  let bytes := fun (r : BitVec 512) (k n : Nat) => (List.range n).map ((row r k).toNat + ·)
  let lost := fun (x : Cmd) (ext : Nat → Nat) => ((List.range (lyExt (rec_ x d) 1)).map fun k =>
    lostCycles (bytes (rec_ x a) k (ext k) ++ bytes (rec_ x b) k (ext k))).sum
  let merged := fun (c : Core) (n : Nat) (m : Mem) => { c with
    xs := m, lyconf := BitVec.ofNat 32 (min (c.lyconf.toNat + n) 0xFFFFFFFF)
    perf := if s.regs.pcsel.toNat % 256 = 6 then satAdd c.perf n else c.perf }
  VecActs (.vheapm d a b g) g [] s
    (fun c x v => ok (fun c A k => 16 + 8 * K c.xs A k) c x v ∧ ∀ k < lyExt (rec_ x d) 1,
      K c.xs (rec_ x a) k = K c.xs (rec_ x b) k ∧ 1 ≤ K c.xs (rec_ x a) k ∧ K c.xs (rec_ x a) k ≤ 256)
    (fun c x _ c' fl => fl = 0 ∧ c' = merged c (lost x fun k => 16 + 8 * K c.xs (rec_ x a) k)
      ((List.range (lyExt (rec_ x d) 1)).foldl (mergeHeap (rec_ x d) (rec_ x a) (rec_ x b)) c.xs)) ∧
  VecActs (.vnormm d a b g) g [] s (ok fun _ _ _ => 16)
    (fun c x _ c' fl =>
      let y := (List.range (lyExt (rec_ x d) 1)).foldl (mergeNorm (rec_ x d) (rec_ x a) (rec_ x b)) (c.xs, 0)
      c' = merged c (lost x fun _ => 16) y.1 ∧ fl = y.2) ∧
  ∀ (D A B : BitVec 512) (m : Mem) (f : Flags) (k : Nat), Memory.wf m = true →
    (∃ l : List (Word × Word),
      l.Perm (entries m (row A k).toNat (K m A k) ++ entries m (row B k).toNat (K m A k)) ∧
      (∀ n (h : n + 1 < l.length), ranksAbove l[n + 1] l[n] = false) ∧
      WroteBytes m (mergeHeap D A B m k) ((row D k).toNat + 16)
        ((l.take (K m A k)).flatMap fun e => leBytes 4 e.1.toNat ++ leBytes 4 e.2.toNat)) ∧
    let M := if totalKey 32 (word m A k 0).toNat < totalKey 32 (word m B k 0).toNat then word m B k 0 else word m A k 0
    let v := mulF .f32 (f32V (word m A k 4)) (f32V (expTerm (word m A k 0) M))
    let S := fmaF .f32 false false (f32V (word m B k 4)) (f32V (expTerm (word m B k 0) M)) (decF .f32 v.1)
    let l := if (word m A k 12).getLsbD 31 then ((word m A k 8).toNat, 2 ^ 31)
      else if (word m B k 12).getLsbD 31 then ((word m B k 8).toNat, 2 ^ 31) else (0xFF800000, 0)
    (mergeNorm D A B (m, f) k).2 = f ||| v.2 ||| S.2 ∧
      WroteBytes m (mergeNorm D A B (m, f) k).1 (row D k).toNat
        (leBytes 4 M.toNat ++ leBytes 4 S.1 ++ leBytes 4 l.1 ++ leBytes 4 (K m A k + l.2))

/-- R117, R119, R147, R149, R150, R151, R242: the signals and waits of the engines: an own flag at once, a flag of
another job of a COSCHED group once no earlier global access is outstanding unless it is marked `.nf`, and no earlier
signal of the core to that flag stands in a queue; `msig` waits for every earlier M command. That such a signal is waited
for is the model's reading (log entry 102). -/
def Obligations.EngineSignals : Prop := ∀ (f : BitVec 5) (o : BitVec 7) (g : Guard) (s : State),
  let alone := fun (e : Eng) (c : Core) (x : Cmd) => e = .m → ∀ y ∈ c.mq, x.iseq.toNat ≤ y.iseq.toNat
  let target := fun (c : Core) (i : Fin 128) => ∃ j gr, c.job = some j ∧ s.group j.slot = some gr ∧ gr.cosched = true ∧
    i ∈ gr.placed ++ gr.ended ∧ (i.val : Int) = s.cur.val + signed 7 o.toNat
  let own := fun (e : Eng) (i : Instr) => EngActs e i g s (alone e)
    fun c x u y => u = s.setCore (c.addFlag f 1) ∧ y = finished c e x 0 []
  let sends := fun (e : Eng) (i : Instr) (ok : Core → Cmd → Prop) => ∀ t : Fin 128, EngActs e i g s
    (fun c x => target c t ∧ ok c x ∧ ∀ h ∈ c.holders, earlier h e x.iseq = true → h.2.phase = .waiting →
      remoteTarget s.cur h.2.instr ≠ some ((t.val : Int), f))
    fun c x u y => u = { (s.setCore c) with signals := s.signals ++ [⟨t, c.jobSlot, f, 1, s.cur⟩] } ∧
      y = finished c e x 0 []
  let takes := fun (e : Eng) (i : Instr) => EngActs e i g s (fun c _ => c.flags[f.toFin] ≠ 0)
    fun c x u y => u = s.setCore (c.takeFlag f 1) ∧ y = finished c e x 0 []
  own .v (.vsig f none g) ∧ own .m (.msig f none g) ∧ own .c (.csig f none g) ∧ own .c (.csigNf f none g) ∧
  sends .v (.vsig f (some o) g) (fun c x => Released s c .v x) ∧
  sends .m (.msig f (some o) g) (fun c x => Released s c .m x) ∧
  sends .c (.csig f (some o) g) (fun c x => Released s c .c x) ∧
  sends .c (.csigNf f (some o) g) (fun _ _ => True) ∧
  takes .v (.vwait f g) ∧ takes .m (.mwait f g) ∧ takes .c (.cwait f g)

/-- R218, R220, R221, R237, R238, R239: `mma` with its lease: where its A operand is generated or in XS, every element
of the tile becomes the profile's dot product of its row of A and its column of B over the accumulator, or over +0
with the zero form, and the rows of the other tiles stay; where A is in global memory, each step does so with one group
of K-indices, the first of them alone in the zero form, and the command has executed after the last. The order of the
issue checks is the model's reading (log entry 64). -/
def Obligations.MatrixMultiply : Prop := ∀ (t : BitVec 3) (a : ASrc) (b : BSrc) (prof : BitVec 4) (zf ta tb : Bool)
    (pl : BitVec 4) (g : Guard) (s : State),
  let op := fun (x : Cmd) => mmaOp x.snap a b
  let k := fun x => kOf (op x).fa
  let start := fun (c : Core) (x : Cmd) (p : Profile) =>
    mmaIssue t (op x) ta (s.setCore c) = .ok ((), s.setCore c) ∧
    checkProfile prof (op x).fa (op x).fb pl.toNat (s.setCore c) = .ok (p, s.setCore c) ∧
    ((op x).aGen = false → checkScaling (op x).a (s.setCore c) = .ok ((), s.setCore c)) ∧
    (s.leases[s.curCluster]).holder = some s.cur
  let plain := fun (x : Cmd) =>
    ((op x).aGen = true ∧ gnKind (op x).a ≠ 2 ∨ (op x).aGen = false ∧ lySpace (op x).a = 0 ∧ (op x).fa ≠ 5) ∧
    ((op x).bGen = true → gnKind (op x).gb ≠ 2)
  (∀ p, EngActs .m (.mma t a b prof zf ta tb pl g) g s
    (fun c x => start c x p ∧ plain x ∧ sortedFrom 0 0 c.acc = true)
    fun c x u y =>
      let seed := fun (r : BitVec 512) => effSeed r s.context.seed x.snap.tag s.cur.val
      let cols := mmaCols (op x) c s.fresh (seed (op x).gb) [] tb (if p = .np4 then pl.toNat else 0) (k x)
      ∃ rows : List (List Val), rows.length = 64 ∧ (∀ r ∈ rows, r.length = k x) ∧
        ((op x).aGen = true → rows = genRows (op x).a (seed (op x).a) [] ta (k x)) ∧
        ((op x).aGen = false → ∃ v, mmaRows (op x) ta 0 (k x) [] (s.setCore c) = .ok (rows, v)) ∧
        let w := fun (i j : Nat) => if zf then 0 else lane (c.accRow t.toNat i) j
        let pairs := fun (i j : Nat) => (rows.getD i []).zip (cols.getD j [])
        let dot := fun (i j : Nat) =>
          if (op x).int then dotI p (w i j) ((pairs i j).map fun q => (intOf q.1, intOf q.2)) else dotF p (w i j) (pairs i j)
        (∀ i < 64, ∀ j < 64, lane (u.core.accRow t.toNat i) j = (dot i j).1) ∧
        (∀ t' i, t' ≠ t.toNat → i < 64 → u.core.accRow t' i = c.accRow t' i) ∧
        (∃ f : Flags, y = finished c .m x f [] ∧
          ∀ n : Nat, f.getLsbD n = true ↔ (n = 0 ∨ n = 2 ∨ n = 5) ∧ ∃ i < 64, ∃ j < 64, (dot i j).2.getLsbD n = true) ∧
        { u.core with acc := c.acc, lyconf := c.lyconf, perf := c.perf } = c ∧
        u = { (s.setCore u.core) with leases := leaseAfter s, fresh := s.fresh + 1 }) ∧
  ∀ c n x y u, (CanStart .m (.mma t a b prof zf ta tb pl g) g s c n x ∨
      GoesOn .m (.mma t a b prof zf ta tb pl g) s n x ∧ c = s.core) →
    mmaBody t a b prof zf ta tb pl x (s.setCore c) = .ok (y, u) →
    exec (.mma t a b prof zf ta tb pl g) s = .next (u.setCore (u.core.putCmd .m n { y with inGroup := false })) ∧
    ∀ p, (op x).aGen = false → lySpace (op x).a = 3 → ((op x).bGen = true → gnKind (op x).gb ≠ 2) → x.angles = [] →
      sortedFrom 0 0 c.acc = true → checkProfile prof (op x).fa (op x).fb pl.toNat (s.setCore c) = .ok (p, s.setCore c) →
      let step := x.progress
      let first := step * p.group
      first < k x →
      let m := min p.group (k x - first)
      let seed := effSeed (op x).gb s.context.seed x.snap.tag s.cur.val
      let cols := mmaCols (op x) c s.fresh seed [] tb (if p = .np4 then pl.toNat else 0) (k x)
      ∃ rows v v', mmaRows (op x) ta first m [] v = .ok (rows, v') ∧
        { v with leases := s.leases, fresh := s.fresh } = s.setCore c ∧
        let w := fun (i j : Nat) => if zf = true ∧ step = 0 then 0 else lane (c.accRow t.toNat i) j
        let pairs := fun (i j : Nat) => (rows.getD i []).zip (((cols.getD j []).drop first).take m)
        let dot := fun (i j : Nat) =>
          if (op x).int then dotI p (w i j) ((pairs i j).map fun q => (intOf q.1, intOf q.2)) else dotF p (w i j) (pairs i j)
        (∀ i < 64, ∀ j < 64, lane (u.core.accRow t.toNat i) j = (dot i j).1) ∧
        (∀ t' i, t' ≠ t.toNat → i < 64 → u.core.accRow t' i = c.accRow t' i) ∧
        ∃ f : Flags,
          (∀ n : Nat, f.getLsbD n = true ↔ (n = 0 ∨ n = 2 ∨ n = 5) ∧ ∃ i < 64, ∃ j < 64, (dot i j).2.getLsbD n = true) ∧
          y = if k x ≤ first + p.group then { x with phase := .executed, flags := x.flags ||| f }
            else { x with phase := .stopped, progress := step + 1, flags := x.flags ||| f }

/-- R218, R220, R221, R240, R241: `mzero` clears its tiles; `mrel` ends the lease of its core and, without one, has no
effect. -/
def Obligations.TileAndLeaseWords : Prop := ∀ (mask : BitVec 8) (g : Guard) (s : State),
  EngActs .m (.mzero mask g) g s
    (fun c _ => (∀ t < 8, mask.getLsbD t = true → t < c.acct) ∧ sortedFrom 0 0 c.acc = true)
    (fun c x u y => y = finished c .m x 0 [] ∧ u = s.setCore u.core ∧ { u.core with acc := c.acc } = c ∧
      ∀ t i, i < 64 → u.core.accRow t i = if mask.getLsbD t then 0 else c.accRow t i) ∧
  EngActs .m (.mrel g) g s (fun _ _ => True) fun c x u y => y = finished c .m x 0 [] ∧
    u = { (s.setCore c) with leases := u.leases } ∧
    ∀ k : Fin 32, u.leases[k] =
      if (s.leases[k]).holder = some s.cur then { s.leases[k] with holder := none, started := 0 } else s.leases[k]

/-- R221, R230, R425, R426, R428, R430, R431, R432: the words of the projection unit: `mvp.begin` binds it; what a block's
reads and folds give, `mvp.tile` does, and the block enters every row and its tile is cleared; `mvp.regen` leaves in its
tile, for each class of the block, the quotient of the class's exponential and the row's sum, less 1 at the row's label,
times the row's upstream gradient, and +0 elsewhere; `mvp.end` writes the row records and unbinds; `mvp.end.drop` unbinds.
Each counts under the lease. The bytes of the spill area are free values (log entry 43), and the reads of a row record by
`mvp.regen` are one read (log entry 69). -/
def Obligations.ProjectionWords : Prop :=
  (∀ (a w : BitVec 3) (prof : BitVec 4) (q13 : Bool) (g : Guard) (s : State),
  let q := if q13 then 13 else 12
  let at_ := fun (c : Core) => ((c.qreg q).headD 0).toNat % 2 ^ 32
  let l := s.leases[s.curCluster]
  let counted := fun (c : Core) =>
    { (s.setCore c) with leases := s.leases.set s.curCluster { l with started := l.started + 1 } }
  let desc := fun (c : Core) => BitVec.ofNat 512 (readLE c.xs (at_ c) 64)
  EngActs .m (.mvpBegin a w prof q13 g) g s
    (fun c x => x.popped = [] ∧ c.qreg q ≠ [] ∧ c.proj = none ∧ at_ c + 64 ≤ c.barBase ∧ at_ c % 64 = 0 ∧
      (s.leases[s.curCluster]).holder = some s.cur ∧
      (let s' := counted (poppedCore c [q])
      checkBegin (at_ c) (desc c) (x.snap.ly[a.toFin]) (x.snap.ly[w.toFin]) prof s' = .ok ((), s')))
    fun c x u y =>
      let K := bits (pdField (desc c) 0x14) 8 0
      y = { (finished c .m x 0 []) with popped := [(c.qreg q).headD 0] } ∧
      u = { (s.setCore u.core) with leases := leaseAfter s, fresh := u.fresh } ∧
      { u.core with proj := none, xs := c.xs } = poppedCore c [q] ∧
      (K ≤ 32 → u.core.xs = c.xs ∧ u.fresh = s.fresh) ∧
      ∃ spill, u.core.proj = some {
        lya := x.snap.ly[a.toFin], lyw := x.snap.ly[w.toFin], prof := prof, desc := desc c
        descAddr := BitVec.ofNat 32 (at_ c), next := 0, spill := spill
        seen := [(0x7FC00000, 0xFFFFFFFF)], written := []
        rows := (List.range (bits (pdField (desc c) 0x14) 22 16)).map fun i => {
          heap := List.replicate K (0x7FC00000, 0xFFFFFFFF), m := 0xFF800000, s := 0
          label := BitVec.ofNat 32 (readLE c.xs (pdField (desc c) 0 + 4 * i) 4)
          llog := 0xFF800000, lfound := false } }) ∧
  (∀ (t r : BitVec 3) (q13 : Bool) (g : Guard) (s : State),
  let q := if q13 then 13 else 12
  let l := s.leases[s.curCluster]
  let holds := l.holder = some s.cur
  let counted := fun (c : Core) =>
    { (s.setCore c) with leases := s.leases.set s.curCluster { l with started := l.started + 1 } }
  let sameElse := fun (c : Core) (u : State) =>
    u = { (s.setCore u.core) with leases := leaseAfter s, fresh := u.fresh } ∧
      { u.core with xs := c.xs, proj := c.proj } = c
  EngActs .m (.mvpEndDrop g) g s (fun c _ => holds ∧ c.proj.isSome = true)
    (fun c x u y => y = finished c .m x 0 [] ∧ sameElse c u ∧ u.core.proj = none ∧ u.core.xs = c.xs ∧ u.fresh = s.fresh) ∧
  (∀ p : ProjUnit, EngActs .m (.mvpEnd g) g s
    (fun c _ => holds ∧ c.proj = some p ∧ pdK p.desc ≤ 32 ∧ ∀ r ∈ p.rows, r.heap.length = pdK p.desc)
    fun c x u y => y = finished c .m x 0 [] ∧ sameElse c u ∧ u.core.proj = none ∧
      u.core.xs = (p.rows.zipIdx).foldl (fun m e =>
        writeBytes m (pdField p.desc 4 + e.2 * pdField p.desc 0x18)
          (leBytes 4 e.1.m.toNat ++ leBytes 4 e.1.s.toNat ++ leBytes 4 e.1.llog.toNat ++
            leBytes 4 (pdK p.desc + if e.1.lfound then 2 ^ 31 else 0) ++
            e.1.heap.flatMap fun h => leBytes 4 h.1.toNat ++ leBytes 4 h.2.toNat)) c.xs) ∧
  (∀ p : ProjUnit, ∀ c n x z v y u, CanStart .m (.mvpTile t g) g s c n x → t.toNat < c.acct → c.proj = some p → holds →
    x.popped = [] → 64 * p.next < lyExt p.lyw 1 → blockStart x (counted c) = .ok (z, v) → v.core.proj = some p →
    projBlock true p t.toNat p.next z (tileAct t.toNat) v = .ok (y, u) →
    exec (.mvpTile t g) s = .next (u.setCore (u.core.putCmd .m n { y with inGroup := false }))) ∧
  (∀ (p : ProjUnit) c n x y u, GoesOn .m (.mvpTile t g) s n x → s.core = c → t.toNat < c.acct → c.proj = some p → holds →
    x.popped = [] → 64 * p.next < lyExt p.lyw 1 → projBlock true p t.toNat p.next x (tileAct t.toNat) s = .ok (y, u) →
    exec (.mvpTile t g) s = .next (u.setCore (u.core.putCmd .m n { y with inGroup := false }))) ∧
  (∀ (p : ProjUnit) (w : State), w.core.proj = some p → pdK p.desc ≤ 32 →
    let cols := min 64 (lyExt p.lyw 1 - 64 * p.next)
    let block := fun (i : Nat) => (lanesOf (w.core.accRow t.toNat i)).take cols
    ∃ f u, tileAct t.toNat w = .ok (f, u) ∧ u = w.setCore u.core ∧
      u.core = { (w.core.clearTile t.toNat) with proj := some { p with
        next := p.next + 1
        rows := p.rows.zipIdx.map fun e => e.1.block (pdK p.desc) (pdField p.desc 0x10 + 64 * p.next) (block e.2) } } ∧
      f = if ∃ i < p.rows.length, ∃ v ∈ block i, (f32V v).isNan = true then flagIV else 0) ∧
  (∀ (p : ProjUnit) c n x z v y u, CanStart .m (.mvpRegen t r q13 g) g s c n x → t.toNat < c.acct → c.proj = some p →
    holds → x.popped = [] → c.qreg q ≠ [] →
    regenCheck r { x with popped := [(c.qreg q).headD 0] } (counted (poppedCore c [q])) = .ok (z, v) →
    regenBody t r z v = .ok (y, u) →
    exec (.mvpRegen t r q13 g) s = .next (u.setCore (u.core.putCmd .m n { y with inGroup := false }))) ∧
  ∀ (p : ProjUnit) (z : Cmd) (v w : State) (f : Flags), v.core.proj = some p → lySpace p.lya = 0 → lySpace p.lyw = 0 →
    let b := (z.popped.headD 0).toNat % 2 ^ 32
    let ly := z.snap.ly[r.toFin]
    projSteps p z.table t.toNat b (List.range (stepsOf (lyExt p.lya 0) (kOf (lyFmt p.lya)))) v = .ok (f, w) →
    sortedFrom 0 0 w.core.acc = true →
    let word := fun a : Nat => BitVec.ofNat 32 (readLE w.core.xs a 4)
    let elem := fun (i j : Nat) => match p.rows[i]? with
      | none => ((0 : Word), (0 : Flags))
      | some row =>
        if 64 * b + j < lyExt p.lyw 1 then
          let at_ := ((lyBase ly : Int) + (i : Int) * lyStride ly 1).toNat
          let e := f32V (expTerm (lane (w.core.accRow t.toNat i) j) (word at_))
          let sum := f32V (word (at_ + 4))
          let quot := match divV e sum with
            | none => ((0x7FC00000 : Nat), flagIV)
            | some k => ((convF .f32 .rne k).1, (convF .f32 .rne k).2 |||
                if e.isNan = false ∧ e.isInf true = false ∧ e.isInf false = false ∧ e.isZero = false ∧ sum.isZero = true then
                  flagOF else 0)
          let hit := row.label = BitVec.ofNat 32 (pdField p.desc 0x10 + 64 * b + j)
          let less := sumF .f32 [decF .f32 quot.1, (f32V (if hit then 0x3F800000 else 0)).neg]
          let grad := match mulV (decF .f32 less.1) (f32V (word (pdField p.desc 0x1C + 4 * i))) with
            | none => ((0x7FC00000 : Nat), flagIV)
            | some k => convF .f32 .rne k
          (BitVec.ofNat 32 grad.1, quot.2 ||| less.2 ||| grad.2)
        else (0, 0)
    ∃ (u : State) (fl : Flags), regenBody t r z v = .ok ({ z with phase := .executed, flags := z.flags ||| (f ||| fl) }, u) ∧
      (∀ i < 64, ∀ j < 64, lane (u.core.accRow t.toNat i) j = (elem i j).1) ∧
      (∀ t' i, t' ≠ t.toNat → i < 64 → u.core.accRow t' i = w.core.accRow t' i) ∧
      (∀ n : Nat, fl.getLsbD n = true ↔ (n = 0 ∨ n = 2 ∨ n = 5) ∧ ∃ i < 64, ∃ j < 64, (elem i j).2.getLsbD n = true) ∧
      u = { (w.setCore u.core) with leases := u.leases } ∧
      { u.core with acc := w.core.acc, lyconf := w.core.lyconf, perf := w.core.perf } = w.core)

/-- R22, R103, R230, R245, R247: what the copy engine reads and writes at positions of a record in XS or in global memory:
an element's bits at its address, least byte or nibble first, in XS with the cycles that a read loses to bank conflicts;
where elements are written to one place, the last of them stays, and every other byte is as it was. A 4-bit element
writes its own nibble; a converting write fills bits 7:4 with zeros where it is the last of its line and no position of
the walk has that nibble. In global memory the bytes are those of the cached pages that the addresses lie in: pages that
are uncompressed, count no accesses and lie outside the apertures, read in memory that no reducer still writes. That all
positions of one read count together in what it loses is the model's choice (log entry 69). -/
def Obligations.ElementMoves : Prop := ∀ (iseq : Word) (r : BitVec 512) (conv : Bool) (ps : List Nat)
    (es : List (Nat × Nat)) (s : State),
  let w := fmtWidth (lyFmt r)
  let at_ := fun (p : Nat) => (lyAddr r p).1.toNat
  let on := fun (p a : Nat) => at_ p ≤ a ∧ a < at_ p + w / 8
  (lySpace r = 0 →
    ((∀ p ∈ ps, 0 ≤ (lyAddr r p).1) → ∃ u, readElems r ps s = .ok (ps.map fun p =>
      if w = 4 then (readByte s.core.xs (at_ p)).toNat / (if (lyAddr r p).2 then 16 else 1) % 16
      else readLE s.core.xs (at_ p) (w / 8), u) ∧
      u = s.setCore u.core ∧ { u.core with lyconf := s.core.lyconf, perf := s.core.perf } = s.core ∧
      ∃ as : List Nat, (∀ a, a ∈ as ↔ ∃ p ∈ ps, at_ p ≤ a ∧ a < at_ p + lyElemBytes r) ∧
        u.core.lyconf.toNat = min (s.core.lyconf.toNat + lostCycles as) 0xFFFFFFFF) ∧
    (w ≠ 4 → (∀ e ∈ es, 0 ≤ (lyAddr r e.1).1) → Memory.wf s.core.xs = true →
      ∃ u, writeElems iseq r conv es s = .ok ((), u) ∧
        u = s.setCore u.core ∧ { u.core with xs := s.core.xs, perf := s.core.perf } = s.core ∧
        Memory.wf u.core.xs = true ∧
        ∀ a, (∀ pre p v post, es = pre ++ (p, v) :: post → on p a → (∀ e ∈ post, ¬on e.1 a) →
            (readByte u.core.xs a).toNat = v / 256 ^ (a - at_ p) % 256) ∧
          ((∀ e ∈ es, ¬on e.1 a) → readByte u.core.xs a = readByte s.core.xs a)) ∧
    (w = 4 → (∀ e ∈ es, 0 ≤ (lyAddr r e.1).1 ∧ e.1 < lyCount r) → Memory.wf s.core.xs = true →
      ∃ u, writeElems iseq r conv es s = .ok ((), u) ∧
        u = s.setCore u.core ∧ { u.core with xs := s.core.xs, perf := s.core.perf } = s.core ∧
        Memory.wf u.core.xs = true ∧
        ∀ (a : Nat) (hi : Bool),
          let nibble := fun m : Mem => (readByte m a).toNat / (if hi then 16 else 1) % 16
          let here := fun p : Nat => lyAddr r p = ((a : Int), hi)
          let fills := hi = true ∧ conv = true ∧ ∃ e ∈ es, lyAddr r e.1 = ((a : Int), false) ∧
            (e.1 + 1) % lyExt r 0 = 0 ∧ ∀ k < lyCount r, lyAddr r k ≠ ((a : Int), true)
          (∀ pre p v post, es = pre ++ (p, v) :: post → here p → (∀ e ∈ post, ¬here e.1) → nibble u.core.xs = v % 16) ∧
          (fills → nibble u.core.xs = 0) ∧
          ((∀ e ∈ es, ¬here e.1) → ¬fills → nibble u.core.xs = nibble s.core.xs))) ∧
  (lySpace r = 3 → s.core.tx = none → ∀ leaf : Nat → TlbEntry,
    let pa := fun a : Nat => leafPa (leaf a).leaf + (a - (leaf a).va.toNat)
    let plain := fun as : List Nat => (∀ p ∈ as, 0 ≤ (lyAddr r p).1) ∧
      let covered := fun a : Nat => ∃ p ∈ as, at_ p ≤ a ∧ a < at_ p + lyElemBytes r
      (∀ a, covered a → s.tlb.find? (fun e => e.covers s.curCtx a) = some (leaf a) ∧ leafAperture (leaf a).leaf = false ∧
        (leaf a).leaf.getLsbD 10 = false ∧ (leaf a).leaf.getLsbD 11 = false ∧ s.reducing (pa a) = false) ∧
      ∀ a b, covered a → covered b → a / 64 = b / 64 → leaf a = leaf b
    let written := fun a : Nat => ∃ e ∈ es, at_ e.1 ≤ a ∧ a < at_ e.1 + lyElemBytes r
    let value := fun (a n : Nat) => ((List.range n).map fun k => (readByte s.mem (pa (a + k))).toNat * 256 ^ k).sum
    (plain ps → ∀ vs u, readElems r ps s = .ok (vs, u) → u = { s with tags := u.tags } ∧ vs = ps.map fun p =>
      if w = 4 then (readByte s.mem (pa (at_ p))).toNat / (if (lyAddr r p).2 then 16 else 1) % 16
      else value (at_ p) (w / 8)) ∧
    (plain (es.map (·.1)) → (∀ a, written a → (leaf a).leaf.getLsbD 7 = true) →
      (∀ a b, written a → written b → pa a = pa b → a = b) →
      Memory.wf s.mem = true → ∀ u, writeElems iseq r conv es s = .ok ((), u) →
        u = { (s.setCore u.core) with mem := u.mem, tags := u.tags } ∧ { u.core with perf := s.core.perf } = s.core ∧
        Memory.wf u.mem = true ∧
        (∀ b, (∀ a, written a → pa a ≠ b) → readByte u.mem b = readByte s.mem b) ∧
        (w ≠ 4 → ∀ a pre p v post, es = pre ++ (p, v) :: post → on p a → (∀ e ∈ post, ¬on e.1 a) →
          (readByte u.mem (pa a)).toNat = v / 256 ^ (a - at_ p) % 256) ∧
        (w = 4 → (∀ e ∈ es, e.1 < lyCount r) → ∀ (a : Nat) (hi : Bool), (∃ e ∈ es, at_ e.1 = a) →
          let nibble := fun m : Mem => (readByte m (pa a)).toNat / (if hi then 16 else 1) % 16
          let here := fun p : Nat => lyAddr r p = ((a : Int), hi)
          let fills := hi = true ∧ conv = true ∧ ∃ e ∈ es, lyAddr r e.1 = ((a : Int), false) ∧
            (e.1 + 1) % lyExt r 0 = 0 ∧ ∀ k < lyCount r, lyAddr r k ≠ ((a : Int), true)
          (∀ pre p v post, es = pre ++ (p, v) :: post → here p → (∀ e ∈ post, ¬here e.1) → nibble u.mem = v % 16) ∧
          (fills → nibble u.mem = 0) ∧
          ((∀ e ∈ es, ¬here e.1) → ¬fills → nibble u.mem = nibble s.mem))))

/-- R244 to R258, R260: the data commands of the copy engine: what each checks at issue and once at its start, which
elements its first chunk moves, at which positions and converted how; a chunk is 4,096 bytes of walk output, or 64
image rows; and the bytes of WS that a chunk of `cplane` leaves (R232, R253): each bit of each element in its plane,
each block's scale at each position, and every other byte as it was. The order of checks of one kind is the model's
choice (log entries 97, 98, 111 to 114 and 124 to 126), and so is that `cdrain` converts an integer zero to +0 (log
entry 100). -/
def Obligations.CopyWords : Prop := ∀ (rl : Bool) (d a m t : BitVec 3) (b : Option BarSel) (mode : RMode)
    (int q15 : Bool) (g : Guard) (s : State),
  let D := fun (x : Cmd) => x.snap.ly[d.toFin]
  let A := fun (x : Cmd) => x.snap.ly[a.toFin]
  let I := fun (x : Cmd) => x.snap.ly[m.toFin]
  let B := fun (x : Cmd) => x.snap.bd[d.toFin]
  let all := fun (r : BitVec 512) => List.range (lyCount r)
  let at_ := fun (x : Cmd) => BitVec.ofNat 64 (lyBase (D x))
  let room := fun (x : Cmd) (ps : List Nat) => do
    groupRoom (D x) ps
    startRange (D x) x
  let chunks := fun (x : Cmd) (total : Nat) (down : Bool) (chunk : List Nat → M Unit) =>
    runChunks total (32768 / fmtWidth (lyFmt (D x))) down chunk x
  let puts := fun (x : Cmd) (conv : Bool) (es : List (Nat × Nat)) => writeElems x.iseq (D x) conv es
  let raw := fun (x : Cmd) => do
    checkReserved [D x]
    checkConvDst (D x)
    pure []
  CopyRuns (.ccopy rl d a b g) g s b none
    (fun x => do
      copyIssue (D x) (A x)
      room x (all (A x)))
    (fun x => do
      checkReserved [D x, A x]
      trapIf (decide (fmtWidth (lyFmt (D x)) ≠ fmtWidth (lyFmt (A x)))) .format (at_ x)
      pure [])
    (fun x => chunks x (lyCount (A x)) (copyDown (D x) (A x)) fun ps => do
      let vs ← readElems (A x) ps
      puts x false (ps.zip vs)) ∧
  CopyRuns (.cconv rl d a b mode g) g s b none
    (fun x => do
      let ps := List.range (min (lyCount (A x)) (lyCount (D x)))
      checkRecords (some (D x, ps)) [A x] (convScales (A x))
      trapIf (regionsMeet (D x) (A x) (some ps) (some (all (A x))) || readsMeet (D x) ps (convReads (← getS) (A x))) .overlap 0
      checkCount (D x) (A x)
      room x (all (A x)))
    (fun x => do
      checkReserved [D x, A x]
      trapIf (!convDst (lyFmt (A x)) && lyFmt (A x) != 5) .format (BitVec.ofNat 64 (lyBase (A x)))
      checkConvDst (D x)
      checkDecoded (A x)
      startTable (A x))
    (fun x => chunks x (lyCount (A x)) false fun ps => do
      let vs ← readValues (A x) x.table ps
      puts x true (ps.zip (vs.map (encodeVal (lyFmt (D x)) mode)))) ∧
  CopyRuns (.cgath rl d a b m g) g s b none
    (fun x => do
      indexedIssue (D x) (A x) (I x) (lyCount (D x))
      room x (all (D x)))
    (fun x => readIndices (D x) (A x) (I x) (lyCount (D x)) (lyCount (A x)))
    (fun x => chunks x (lyCount (D x)) false fun ps => do
      let vs ← readElems (A x) (ps.map fun n => x.table.getD n 0)
      puts x false (ps.zip vs)) ∧
  CopyRuns (.cscat rl d a b m g) g s b none
    (fun x => do
      indexedIssue (D x) (A x) (I x) (lyCount (A x))
      room x ((indicesNow (← getCore).xs (I x) (lyCount (A x))).filter fun j => j < lyCount (D x)))
    (fun x => readIndices (D x) (A x) (I x) (lyCount (A x)) (lyCount (D x)))
    (fun x => chunks x (lyCount (A x)) false fun ps => do
      let vs ← readElems (A x) ps
      puts x false ((ps.map fun n => x.table.getD n 0).zip vs)) ∧
  CopyRuns (.cfill rl d b q15 g) g s b (some (if q15 then 15 else 14))
    (fun x => do
      checkRecords (some (D x, all (D x))) [] []
      room x (all (D x)))
    (fun x => do
      checkReserved [D x]
      pure [])
    (fun x => chunks x (lyCount (D x)) false fun ps =>
      puts x false (ps.map fun n => (n, (x.popped.getD 0 0).toNat % 2 ^ fmtWidth (lyFmt (D x))))) ∧
  CopyRuns (.cdrain rl d t b int mode g) g s b none
    (fun x => do
      checkRecords (some (D x, all (D x))) [] []
      trapIf (decide ((← getCore).acct ≤ t.toNat)) .window (t.zeroExtend 64)
      trapIf (decide (64 < lyExt (D x) 0) || decide (64 < lyExt (D x) 1) || decide (lyExt (D x) 2 ≠ 1) ||
        decide (lyExt (D x) 3 ≠ 1)) .window (BitVec.ofInt 64 (lyOrigin (D x)))
      room x (all (D x)))
    raw
    (fun x => do
      let c ← getCore
      let word := fun n => lane (c.accRow t.toNat (n / lyExt (D x) 0)) (n % lyExt (D x) 0)
      chunks x (lyCount (D x)) false fun ps => puts x true (ps.map fun n =>
        (n, encodeVal (lyFmt (D x)) mode (if int then valOfInt (word n).toInt else f32V (word n))))) ∧
  CopyRuns (.cplane rl d a b g) g s b none (fun x => planeIssue (B x) (A x))
    (fun x => do
      planeStart (B x) (A x)
      startTable (A x))
    (fun x => runChunks (bdRows (B x)) 64 false
      (fun ps => planeChunk (B x) (A x) x.table (ps.headD 0) (ps.headD 0 + ps.length)) x) ∧
  ∀ (e : DWord) (r : BitVec 512) (table : List Nat) (lo hi : Nat) (w : State),
    let code := bdFmt e
    let block := blockSize (bdG e)
    let ps := (List.range (lyExt r 1)).flatMap fun p =>
      (List.range (min hi (lyExt r 0) - lo)).map fun i => lo + i + lyExt r 0 * p
    let source := if lySpace r = 3 then planeGlobal e r ps else planeLocal e r table ps
    lo % 64 = 0 → lo < hi → hi ≤ lo + 64 → hi ≤ bdRows e → wsBase ≤ bdAddr e → isMmaFmt code = true →
    lyExt r 2 = 1 → lyExt r 3 = 1 → lyExt r 0 ≤ bdRows e → lyExt r 1 ≤ bdWb e →
    (lySpace r = 0 → (∀ p ∈ ps, 0 ≤ (lyAddr r p).1) → ∃ v, source w = .ok (ps.map fun p =>
      let at_ := (lyAddr r p).1.toNat
      let x := if fmtWidth (lyFmt r) = 4 then (readByte w.core.xs at_).toNat / (if (lyAddr r p).2 then 16 else 1) % 16
        else readLE w.core.xs at_ (fmtWidth (lyFmt r) / 8)
      let group := p / lyExt r 0 * ((lyExt r 0 + block - 1) / block) + p % lyExt r 0 / block
      (p, ((if lyFmt r = 5 then table.getD x 0 else x),
        if block = 0 then 0 else BitVec.ofNat 16 (readLE w.core.xs (lyScaddr r + 2 * group) 2))), v) ∧
      v = w.setCore v.core ∧ { v.core with lyconf := w.core.lyconf, perf := w.core.perf } = w.core) ∧
    ∀ es v, source w = .ok (es, v) → Memory.wf v.core.ws = true →
      ∃ u, planeChunk e r table lo hi w = .ok ((), u) ∧ u = v.setCore u.core ∧
        { u.core with ws := v.core.ws, perf := v.core.perf } = v.core ∧ Memory.wf u.core.ws = true ∧
        let elem := fun (i p : Nat) => if i < lyExt r 0 ∧ p < lyExt r 1 then
          (es.find? fun y => y.1 = i + lyExt r 0 * p).map (·.2) else none
        let element := fun (i p : Nat) => ((elem i p).map (·.1)).getD 0
        let scale := fun (i p : Nat) => ((elem i p).map (·.2)).getD 0
        let width := if code = 5 then 16 else fmtWidth code
        let m := sigPlanes code
        let h := headPlanes code
        let planeBit := fun (q x : Nat) =>
          if h = 0 then x.testBit (width - 1 - q)
          else if q = 0 then decide (x / 2 ^ (m - 1) % 2 ^ (h - 1) ≠ 0)
          else if q < m then x.testBit (m - 1 - q)
          else x.testBit (width - 1 - (q - m))
        let line := bdWb e / 8
        let planes := bdAddr e - wsBase
        let scales := planes + (m + h) * bdRows e * line
        let inPlane := fun (q i j k : Nat) =>
          q < m + h ∧ lo ≤ i ∧ i < hi ∧ j < line ∧ k = planes + (q * bdRows e + i) * line + j
        let inScales := fun (b p k : Nat) => block ≠ 0 ∧ lo ≤ b * block ∧ b * block < hi ∧ p < bdWb e ∧
          scales + 2 * bdWb e * b + 2 * p ≤ k ∧ k < scales + 2 * bdWb e * b + 2 * p + 2
        ∀ k : Nat,
          (∀ q i j, inPlane q i j k →
            ∀ n < 8, (readByte u.core.ws k).getLsbD n = planeBit q (element i (8 * j + n))) ∧
          (∀ b p, inScales b p k → (readByte u.core.ws k).toNat =
            (scale (b * block) p).toNat / 256 ^ (k - (scales + 2 * bdWb e * b + 2 * p)) % 256) ∧
          ((∀ q i j, ¬inPlane q i j k) → (∀ b p, ¬inScales b p k) → readByte u.core.ws k = readByte v.core.ws k)

/-- R258, R259, R260, R261, R263: transaction groups and `cfence`: `ctxb` opens a group and is its first member; `ctxe`
checks every staged line, then applies all of them, sends the deferred decrements and closes it, and has executed once
no decrement of its core is outstanding and no home holds a write of it; `cfence` completes once no earlier C command
and no decrement of its core is outstanding. That `ctxb` is a member of its own group is the model's reading (log entry
48). -/
def Obligations.TransactionWords : Prop := ∀ (g : Guard) (s : State),
  let counted := fun (u : State) => (∀ d ∈ u.decrements, d.core ≠ s.cur) ∧
    ∀ m : Fin 128, ∀ o ∈ (u.coreAt m).barHeld, o.core = s.cur → o.kind ≠ .decIn ∧ o.kind ≠ .decOut
  let applied := fun (u : State) (n : Word) => counted u ∧ u.holding s.cur (· == n) = false
  EngActs .c (.ctxb g) g s (fun _ _ => True) (fun c x u y =>
    u = s.setCore { c with tx := some { lines := [], members := [], decrements := [] } } ∧
    y = { (finished c .c x 0 []) with inGroup := true }) ∧
  (∀ t v c k x, CanStart .c (.ctxe g) g s c k x → c.tx = some t → c.job.isSome = true →
    (∀ y ∈ c.cq, y.inGroup = true → y.iseq = x.iseq) →
    forM' (fun (l : StagedLine) => homeCheck true none (l.va.toNat + l.first) [l.pa.toNat / 64])
      (t.lines.foldr insertStaged []) (s.setCore c) = .ok ((), v) →
    let lines := t.lines.foldr insertStaged []
    let w := v.commit x.iseq t lines
    (w.mem = (lines.foldl (fun s l => s.applyStaged x.iseq l) v).mem ∧ w.tags = v.tags ∧ w.core.tx = none ∧
      w.core.xs = c.xs ∧ w.core.x = c.x ∧ w.core.cq = c.cq ∧
      w.decrements = s.decrements ++ t.decrements.map fun b => ⟨b.1, b.2, c.jobSlot, s.cur⟩) ∧
    (applied w x.iseq → exec (.ctxe g) s = .next (w.setCore (w.core.putCmd .c k
      { x with phase := .executed, inGroup := false }))) ∧
    (¬applied w x.iseq → exec (.ctxe g) s = .next (w.setCore (w.core.putCmd .c k
      { x with phase := .stopped, held := some (x.progress, .waitEngine) })))) ∧
  (∀ m x, GoesOn .c (.ctxe g) s m x → applied s x.iseq → exec (.ctxe g) s = .next (s.setCore (s.core.putCmd .c m
    { x with phase := .executed, inGroup := s.core.tx.isSome }))) ∧
  EngActs .c (.cfence g) g s (fun c x => (∀ y ∈ c.cq, x.iseq.toNat ≤ y.iseq.toNat) ∧ counted s)
    fun c x u y => u = s.setCore c ∧ y = finished c .c x 0 []

/-- R350 to R357: the Culvert words: `csend` sends the walk's elements as one message once its window is open, and
completes once it is acknowledged; `crecv` takes the next FILLED slot and pushes its sequence number, slot and tag;
`crel` gives the oldest HELD slot back and opens the window by one.
R119, R365, R375, R376: the counter words: `carm` sets a watch and tests it at once; `cadd` adds to a counter of its
context, saturating, once it may as a release, `.nf` at once; the watches that are reached add to their flags. -/
def Obligations.CulvertAndCounterWords : Prop :=
  (∀ (ch : BitVec 5) (n : BitVec 3) (q7 : Bool) (g : Guard) (s : State),
  let k : Fin 32 := ⟨(s.context.chBase + ch.toNat) % 32, Nat.mod_lt _ (by decide)⟩
  let e := s.chans[k]
  let named := (s.slotOf s.curCtx).isSome = true ∧ ch.toNat < s.context.chCount ∧ s.cur.val = bits e.ctl.toNat 47 41 ∧
    e.state = 1
  let receives := named ∧ e.ctl.getLsbD 16 = true ∧ e.ctl.getLsbD 17 = false
  let out := fun (o : Outgoing) => (s.portOf o, o)
  let slots := bits e.ctl.toNat 31 24 + 1
  let size := 2 ^ (min (bits e.ctl.toNat 35 32) 12 + 8)
  (EngActs .c (.csend ch n g) g s
    (fun c x => named ∧ e.ctl.getLsbD 16 = false ∧
      checkRecords none [x.snap.ly[n.toFin]] [] (s.setCore c) = .ok ((), s.setCore c) ∧
      lyBytes (x.snap.ly[n.toFin]) ≤ size ∧ lyFmt (x.snap.ly[n.toFin]) ≤ 10 ∧
      (let room := (e.hi - e.lo).toNat
       0 < room ∧ room < 2 ^ 31) ∧ Released s c .c x ∧ lySpace (x.snap.ly[n.toFin]) = 0 ∧
      ∀ p < lyCount (x.snap.ly[n.toFin]), 0 ≤ (lyAddr (x.snap.ly[n.toFin]) p).1)
    fun c x u y =>
      let r := x.snap.ly[n.toFin]
      let w := fmtWidth (lyFmt r)
      ∃ vs v, readElems r (List.range (lyCount r)) (s.setCore c) = .ok (vs, v) ∧
      let bs := leBytes ((vs.length * w + 7) / 8) (packNat w vs)
      y = { x with phase := .stopped, progress := e.lo.toNat + 1, inGroup := c.tx.isSome } ∧
      u = { (s.setCore u.core) with
        chans := s.chans.set k { e with lo := e.lo + 1, unacked := some s.cur }
        outbox := out (.culvert e.peer {
          fromCoord := BitVec.ofNat 22 s.regs.mcoord.toNat, fromCh := BitVec.ofNat 5 k.val, seq := e.lo
          tag := BitVec.ofNat 16 x.snap.tag.toNat, bytes := bs ++ List.replicate (size - bs.length) 0 }) :: s.outbox } ∧
      { u.core with perf := c.perf, lyconf := c.lyconf } = c) ∧
  (∀ m x, GoesOn .c (.csend ch n g) s m x → e.state = 1 → e.lo.toNat = x.progress % 2 ^ 32 → e.unacked = none →
    Gives (.csend ch n g) s fun t => t = s.setCore (s.core.putCmd .c m
      { x with phase := .executed, inGroup := s.core.tx.isSome })) ∧
  (∀ seq tag, EngActs .c (.crecv ch q7 g) g s
    (fun c _ => receives ∧ e.slot (e.lo.toNat % slots) = .filled seq tag ∧ c.qroom (if q7 then 7 else 6) = true)
    fun c x u y =>
      let at_ := e.lo.toNat % slots
      u = { (s.setCore c) with chans := s.chans.set k { e with
        lo := e.lo + 1, slots := sset .empty e.slots at_ .held, heldSlots := e.heldSlots ++ [at_] } } ∧
      y = finished c .c x 0 [(if q7 then 7 else 6,
        BitVec.ofNat 64 (seq.toNat * 2 ^ 32 + at_ * 65536 + tag.toNat))]) ∧
  ∀ at_ rest, EngActs .c (.crel ch g) g s
    (fun c x => receives ∧ e.heldSlots = at_ :: rest ∧ ∀ h ∈ c.holders, earlier h .c x.iseq = true →
      h.2.performed = true ∨ ∀ r ∈ footprint s c h.2, r.space = .glob →
        r.hi ≤ bits e.ring.toNat 56 0 + at_ * size ∨ bits e.ring.toNat 56 0 + (at_ + 1) * size ≤ r.lo)
    fun c x u y => y = finished c .c x 0 [] ∧
      u = { (s.setCore c) with
        chans := s.chans.set k { e with hi := e.hi + 1, slots := sset .empty e.slots at_ .empty, heldSlots := rest }
        outbox := out (.window e.peer (e.hi + 1 + BitVec.ofNat 32 slots)) :: s.outbox }) ∧
  (∀ (q15 : Bool) (g : Guard) (s : State),
  let q := if q15 then 15 else 14
  let head := fun (c : Core) (n : Nat) => (c.qreg n).headD 0
  let known := s.core.job.isSome = true ∧ (s.slotOf s.curCtx).isSome = true
  let adds := fun (i : Instr) (ok : Core → Cmd → Prop) => EngActs .c i g s
    (fun c x => known ∧ x.popped = [] ∧ c.qreg q ≠ [] ∧ ok (poppedCore c [q]) x ∧
      bits (head c q).toNat 15 12 = 0 ∧ bits (head c q).toNat 11 0 < s.context.cnCount)
    fun c x u y => y = { (finished c .c x 0 []) with popped := [head c q] } ∧
      u = (s.setCore (poppedCore c [q])).addCounter s.curCtx (bits (head c q).toNat 11 0) (bits (head c q).toNat 63 16)
  adds (.cadd q15 g) (fun c x => Released s c .c x) ∧ adds (.caddNf q15 g) (fun _ _ => True) ∧
  EngActs .c (.carm g) g s
    (fun c x => known ∧ x.popped = [] ∧ c.qreg 14 ≠ [] ∧ c.qreg 15 ≠ [] ∧ bits (head c 14).toNat 63 21 = 0 ∧
      bits (head c 14).toNat 15 12 = 0 ∧ bits (head c 14).toNat 11 0 < s.context.cnCount ∧ c.watches.length < 16)
    (fun c x u y => y = { (finished c .c x 0 []) with popped := [head c 14, head c 15] } ∧
      u = s.setCore (Core.fire { poppedCore c [14, 15] with watches := c.watches ++
        [⟨BitVec.ofNat 12 (bits (head c 14).toNat 11 0), head c 15, BitVec.ofNat 5 (bits (head c 14).toNat 20 16)⟩] }
        (s.counter s.curCtx))) ∧
  ∀ (id : CtxId) (n k : Nat), sortedFrom 0 0 s.counters = true →
    let t := s.addCounter id n k
    (t.counter id n).toNat = min ((s.counter id n).toNat + k) (2 ^ 64 - 1) ∧
    (∀ m, m ≠ n → t.counter id m = s.counter id m) ∧ t.mem = s.mem ∧
    ∀ i : Fin 128, (∀ j, (s.coreAt i).job = some j → j.ctx ≠ id) → t.coreAt i = s.coreAt i)

/-- R367, R374: the posting words: the descriptor that the queue entry names is copied into its queue pair, which it
binds if it is unbound, and the command stands posted; as a release, or with `.nf` at once. -/
def Obligations.PostingWords : Prop := ∀ (q15 : Bool) (g : Guard) (s : State),
  let q := if q15 then 15 else 14
  let posts := fun (i : Instr) (nf red : Bool) => ∀ n : Nat, EngActs .c i g s
    (fun c x => x.popped = [] ∧ x.failed = false ∧ x.progress = 0 ∧ c.qreg q ≠ [] ∧
      (let a := bits ((c.qreg q).headD 0).toNat 31 0
       a + 64 ≤ c.barBase ∧ a % 64 = 0 ∧
        checkPost a (BitVec.ofNat 512 (readLE c.xs a 64)) red (s.setCore (poppedCore c [q])) =
          .ok (n, s.setCore (poppedCore c [q]))) ∧
      (s.qp n).entries.length < 16 ∧ s.posted < 8192 ∧
      (nf = false → Released s (poppedCore c [q]) .c { x with popped := [(c.qreg q).headD 0] }))
    fun c x u y =>
      let a := bits ((c.qreg q).headD 0).toNat 31 0
      let d := BitVec.ofNat 512 (readLE c.xs a 64)
      let p := s.qp n
      let e : WorkEntry := {
        desc := d, core := s.cur, slot := c.jobSlot, iseq := x.iseq, red := red, state := .waiting, bytes := [] }
      y = { x with
        phase := .posted, progress := 1, inGroup := c.tx.isSome
        popped := [(c.qreg q).headD 0, BitVec.ofNat 64 (readLE c.xs a 8), BitVec.ofNat 64 (readLE c.xs (a + 0x10) 4),
          BitVec.ofNat 64 (readLE c.xs (a + 0x14) 2)] } ∧
      u = (s.setCore (poppedCore c [q])).setQp n (if p.state = 0
        then { p with
          state := 1, peer := BitVec.ofNat 26 (readLE c.xs (a + 0x18) 4)
          pqp := BitVec.ofNat 12 (readLE c.xs (a + 0x16) 2), entries := p.entries ++ [e] }
        else { p with entries := p.entries ++ [e] })
  posts (.cput q15 g) false false ∧ posts (.cputNf q15 g) true false ∧
  posts (.cputred q15 g) false true ∧ posts (.cputredNf q15 g) true true

/-- R400 to R408: the stash words: `cstash` makes an entry in free frames and writes one frame a step, the last of
which makes it RESIDENT; `cfetch` takes a raw entry, copies one frame a step and pushes its length, or pushes 1 for a
DROPPED one; `cdrop` releases an entry; `cpref` prefetches a stage and tag. Where Grotto takes frames and how a
waiting word stands are the model's readings (log entries 24 and 25). -/
def Obligations.StashWords : Prop := ∀ (n : BitVec 3) (slot : BitVec 4) (rc q7 q15 : Bool) (g : Guard) (s : State),
  let key := fun (x : Cmd) => BitVec.ofNat 22 (x.snap.stage.toNat % 4 * 2 ^ 20 + slot.toNat * 2 ^ 16 + x.snap.tag.toNat % 2 ^ 16)
  let ly := fun (x : Cmd) => x.snap.ly[n.toFin]
  let served := s.grottoServes s.curCtx = true
  let mine := fun (e : StashEntry) => e.slot < 128 → e.slot = s.core.jobSlot ∧ e.core = s.cur
  let frames := fun (b : Nat) => (b + 4095) / 4096
  let q := if q7 then 7 else 6
  (∀ fs, EngActs .c (.cstash n slot rc g) g s
    (fun c x => x.progress = 0 ∧ stashIssue (ly x) (s.setCore c) = .ok ((), s.setCore c) ∧ served ∧
      s.grotto.find (key x) = none ∧ lyFmt (ly x) ≤ 10 ∧ s.grotto.entries.length < 4096 ∧
      s.freeFrames (frames (lyBytes (ly x))) = some fs)
    fun c x u y => y = { x with phase := .stopped, progress := 1, inGroup := c.tx.isSome } ∧
      u = { (s.setCore c) with grotto := { s.grotto with entries := s.grotto.entries ++ [{
        key := key x, state := .placing, bytes := lyBytes (ly x), recomputable := rc, slot := c.jobSlot, core := s.cur
        frames := fs, groups := [], wantFrames := false, kept := [] }] } }) ∧
  (∀ m x e vs v, GoesOn .c (.cstash n slot rc g) s m x → x.progress ≠ 0 → s.grotto.find (key x) = some e →
    stashElems (ly x) (chunkPos (ly x) (x.progress - 1)) s = .ok (vs, v) → v.grotto = s.grotto →
    v.core.cq = s.core.cq →
    let last := frames (lyBytes (ly x)) ≤ x.progress
    Gives (.cstash n slot rc g) s fun t =>
      t.mem = writeBytes v.mem (s.grotto.frame (e.frames.getD (x.progress - 1) 0)) (frameBytes (ly x) vs) ∧
      t.grotto = (if last then s.grotto.modify (key x) fun e => { e with state := .resident } else s.grotto) ∧
      (t.core.queue .c)[m]? = some { x with
        phase := if last then .executed else .stopped, progress := if last then x.progress else x.progress + 1
        inGroup := v.core.tx.isSome }) ∧
  (∀ e, EngActs .c (.cfetch n slot q7 g) g s
    (fun c x => x.progress = 0 ∧ x.pushes = [] ∧ served ∧ lyFmt (ly x) ≤ 10 ∧
      checkRecords (some (ly x, List.range (lyCount (ly x)))) [] [] (s.setCore c) = .ok ((), s.setCore c) ∧
      (lySpace (ly x) = 3 → c.tx = none → c.rangeEntries < 16) ∧ c.qroom q = true ∧
      s.grotto.find (key x) = some e ∧ mine e ∧ (e.state = .resident ∨ e.state = .ready ∨ e.state = .dropped))
    fun c x u y =>
      if e.state = .dropped then u = s.setCore c ∧ y = { (finished c .c x 0 []) with pushes := [(q, 1)] }
      else u = { (s.setCore c) with grotto := s.grotto.modify e.key fun e => { e with state := .resident } } ∧
        y = { x with phase := .stopped, progress := 1, pushes := [(q, 0)], inGroup := c.tx.isSome }) ∧
  (∀ m x e u, GoesOn .c (.cfetch n slot q7 g) s m x → x.progress ≠ 0 → x.pushes = [(q, 0)] →
    s.grotto.find (key x) = some e → mine e → e.state = .resident → lyBytes (ly x) = e.bytes →
    (let ps := chunkPos (ly x) (x.progress - 1)
     let bs := readBytes s.mem (s.grotto.frame (e.frames.getD (x.progress - 1) 0)) 4096
     writeElems x.iseq (ly x) false (ps.zip (frameElems (ly x) bs ps.length)) s = .ok ((), u)) →
    let last := frames e.bytes ≤ x.progress
    Gives (.cfetch n slot q7 g) s fun t => t = u.setCore (u.core.putCmd .c m { x with
      phase := if last then .executed else .stopped, progress := if last then x.progress else x.progress + 1
      pushes := [(q, if last then BitVec.ofNat 64 (e.bytes * 2 ^ 32) else 0)], inGroup := u.core.tx.isSome })) ∧
  (∀ e, EngActs .c (.cdrop slot g) g s
    (fun _ x => served ∧ s.grotto.find (key x) = some e ∧ mine e ∧ e.state ≠ .placing ∧ e.state ≠ .prefetching)
    fun c x u y => y = finished c .c x 0 [] ∧ u = (s.setCore c).releaseStash e) ∧
  EngActs .c (.cpref q15 g) g s
    (fun c x => served ∧ x.popped = [] ∧ c.qreg (if q15 then 15 else 14) ≠ [] ∧
      ((c.qreg (if q15 then 15 else 14)).headD 0).toNat < 2 ^ 18)
    (fun c x u y =>
      let p := if q15 then 15 else 14
      let v := ((c.qreg p).headD 0).toNat
      y = { (finished c .c x 0 []) with popped := [(c.qreg p).headD 0] } ∧
      u = (s.setCore (poppedCore c [p])).prefetchTag (v / 65536) (v % 65536))

/-- R81, R85, R86, R361, R365, R366: the mailbox commands, taken when no earlier one waits: CREATE loads a context
record that is in order into the first slot that is FREE or RETIRED; BIND validates it, or is the fatal event of its
failure; LAUNCH submits a record; SETPRIO sets the priority; PREEMPT of a RUNNABLE context saves it at once; RESUME
restores the saved jobs; DESTROY retires a context that does not run. Each completes with status OK; one that its
context's state refuses completes with the status that R86 gives. PREEMPT and DESTROY of a context that runs or drains
begin or change a drain and wait for its end. A row posts and takes its command in one step; the order of CREATE's checks,
what a drain and a RETIRED context leave and what a RESUME lets go on are the model's readings (log entries 21, 30 to 34,
39, 47, 68, 82 and 89). -/
def Obligations.MailboxCommandsComplete : Prop := ∀ (id : CtxId) (arg cookie : DWord) (s : State),
  let u := afterTaking s
  let completes := fun (i : Instr) (v : State) (status : Nat) =>
    RingRoom v → Gives i s fun t => Completed v t status id cookie
  let put := fun (k : Fin 16) (x : Context) => { u with ctxs := u.ctxs.set k x }
  s.mailboxFree = true →
    -- NOCTX
    (s.slotOf id = none → completes (.bind id 0 cookie) u 1 ∧ completes (.hostLaunch id arg cookie) u 1 ∧
      completes (.preempt id 0 cookie) u 1 ∧ completes (.resume id 0 cookie) u 1 ∧ completes (.destroy id 0 cookie) u 1 ∧
      (arg.toNat < 256 → completes (.setprio id arg cookie) u 1)) ∧
    -- CREATE
    (∀ k, s.slotOf id = some k → completes (.create id arg cookie) u 2) ∧
    (s.slotOf id = none → (∀ k : Fin 16, s.ctxs[k].state ≠ .free ∧ s.ctxs[k].state ≠ .retired) →
      completes (.create id arg cookie) u 4) ∧
    (∀ k : Fin 16, s.slotOf id = none → (s.ctxs[k].state = .free ∨ s.ctxs[k].state = .retired) →
      (∀ j : Fin 16, j < k → s.ctxs[j].state ≠ .free ∧ s.ctxs[j].state ≠ .retired) →
      arg.toNat % 256 = 0 → s.inMemory arg.toNat 256 = true →
        let b := readLE s.mem arg.toNat 256
        let x := loadContext b arg.toNat
        (recordOk b id = false → completes (.create id arg cookie) u 3) ∧
        (recordOk b id = true → completes (.create id arg cookie) { u with
          ctxs := u.ctxs.set k { x with dgctl := s.ctxs[k].dgctl }
          qps := s.qps.filter fun p => !(decide (x.qpBase ≤ p.1) && decide (p.1 < x.qpBase + x.qpCount))
          counters := s.counters.filter fun p => !(decide (x.cnBase ≤ p.1) && decide (p.1 < x.cnBase + x.cnCount)) } 0)) ∧
    ∀ k : Fin 16, s.slotOf id = some k →
      let x := s.ctxs[k]
      -- BIND
      (x.state ≠ .loaded → completes (.bind id 0 cookie) u 3) ∧
      (x.state = .loaded → u.validated x = true → ∀ v, u.loadSmap id = some v →
        completes (.bind id 0 cookie) (v.modCtx id fun x => { x with state := .runnable }) 0) ∧
      (let failed := fun code : Nat =>
        completes (.bind id 0 cookie) (put k { x with state := .error, status := BitVec.ofNat 16 (code + 0x7F * 256) }) 0
       (x.state = .loaded → u.validated x = false → failed 0x80) ∧
       (x.state = .loaded → u.validated x = true → u.loadSmap id = none → failed 0x82)) ∧
      -- LAUNCH
      ((x.state = .loaded ∨ x.state = .error) → completes (.hostLaunch id arg cookie) u 3) ∧
      (x.state ≠ .loaded → x.state ≠ .error → arg.toNat % 64 = 0 → ∀ b desc v,
        hostRecord id arg.toNat (u.clearPath .mailbox) = .ok ((b, some desc), v) →
        launchRefusal b v.ncore (v.ctxOf id).cores false = none →
          let r : PoolRec := {
            ctx := id, record := parseLaunch b, depth := 0, copy := none, desc := BitVec.ofNat 57 desc, ready := none
            reserve := false, pick := none }
          (v.submit r = none → completes (.hostLaunch id arg cookie) v 4) ∧
          ∀ w, v.submit r = some w → completes (.hostLaunch id arg cookie) w 0) ∧
      -- SETPRIO
      (x.state ≠ .error → arg.toNat < 256 →
        completes (.setprio id arg cookie) (put k { x with prio := BitVec.ofNat 8 arg.toNat }) 0) ∧
      (256 ≤ arg.toNat ∨ x.state = .error → completes (.setprio id arg cookie) u 3) ∧
      -- PREEMPT
      (x.state = .runnable → completes (.preempt id 0 cookie) (put k { x with state := .saved }) 0) ∧
      ((x.state = .saved ∨ x.state = .trapped) → completes (.preempt id 0 cookie) u 0) ∧
      ((x.state = .loaded ∨ x.state = .error) → completes (.preempt id 0 cookie) u 3) ∧
      -- PREEMPT and DESTROY of a context that runs or drains
      ((x.state = .running ∨ x.state = .faultWait) →
        exec (.preempt id 0 cookie) s = .next (((u.startDrain id .save).dispatchAll).awaitDrain .preempt id cookie) ∧
        exec (.destroy id 0 cookie) s = .next (((u.startDrain id .destroy).dispatchAll).awaitDrain .destroy id cookie)) ∧
      (x.state = .draining →
        exec (.preempt id 0 cookie) s = .next (u.awaitDrain .preempt id cookie) ∧
        exec (.destroy id 0 cookie) s = .next ((put k { x with drain := .destroy }).awaitDrain .destroy id cookie)) ∧
      (∀ why : DrainReason,
        let v := u.startDrain id why
        v.ctxs[k].state = .draining ∧ v.ctxs[k].drain = why ∧ v.mem = s.mem ∧
        ∀ i : Fin 128, (i ∈ v.ctxs[k].awaiting ↔ ∃ j, (s.coreAt i).job = some j ∧ j.ctx = id) ∧
          ∀ j, (s.coreAt i).job = some j → (v.coreAt i).job = some { j with stopping := j.stopping || decide (j.ctx = id) }) ∧
      (∀ (op : MbOp) (v : State), v.slotOf id = some k → v.ctxs[k].state = .draining →
        (∀ m : Fin 16, v.ctxs[m].state = .draining → v.ctxs[m].awaiting ≠ []) →
        v.awaitDrain op id cookie = { v with mailbox := { v.mailbox with busy := some (op, id, 0, cookie) } }) ∧
      -- RESUME
      (x.state ≠ .saved → x.state ≠ .trapped → completes (.resume id 0 cookie) u 3) ∧
      ((x.state = .saved ∨ x.state = .trapped) → ∀ v w cs, u.loadSmap id = some v →
        v.loadImages id x.saved = .ok (w, cs) →
          let w := cs.foldl (fun t p => t.placeCore p.1 p.2) w
          let w := w.modCtx id fun x => { x with
            saved := [], quiet := false, state := if w.unretired id then .running else .runnable }
          let w := (State.heldSignals w.signals.length 0 w).fireWatches id
          let w := if x.replayRecorded then w.performReplay id else w
          completes (.resume id 0 cookie) (((w.retryPkg id fun _ _ mig => mig).refreshWait id).dispatchAll) 0) ∧
      -- DESTROY
      (x.state ≠ .running → x.state ≠ .faultWait → x.state ≠ .draining →
        completes (.destroy id 0 cookie) (u.retireCtx id) 0)

/-- R287 to R298, R388, R444, R450: GROUP_SELECT puts a READY record of greatest key into the first free slot;
GROUP_RETIRE frees what a DRAINING group holds, sets its events and, where its context counts digests, adds its digest;
WEIR_HELD_SUBMIT submits the oldest held pick. ECC_UNCORRECTABLE is the fatal event of a context (R19, R87). -/
def Obligations.GroupEventsComplete : Prop := ∀ (slot : Nat) (id : CtxId) (lidx : BitVec 7) (s : State),
  (∀ k, s.groups.toList.findIdx? Option.isNone = some k → (∃ r ∈ s.pool, s.selectable r = true) →
    ∃ r ∈ s.pool, s.selectable r = true ∧
      (∀ q ∈ s.pool, s.selectable q = true →
        let key := fun (a : PoolRec) => (s.ctxOf a.ctx).prio.toNat * 256 + a.record.gprio.toNat
        key q < key r ∨ (key q = key r ∧ r.ready.getD 0 ≤ q.ready.getD 0)) ∧
      let g : Group := {
        ctx := r.ctx, src := r, state := .dispatching, seqno := s.selectCount + 1, registered := false, cosched := false
        reads := [], nbar := 0, jobs := [], outs := [], given := [], placed := [], ended := [] }
      let u := { s with pool := s.pool.erase r, selectCount := s.selectCount + 1, groups := s.groups.setIfInBounds k (some g) }
      let v := State.refill 544 (u.traceGroup 5 k r)
      exec .groupSelect s = .next (State.submitHeld v.weir.held.length v).dispatchAll) ∧
  (∀ g, s.group slot = some g → g.state = .draining → (s.ctxOf g.ctx).state ≠ .error → g.src.pick = none →
    let done := fun (u : State) =>
      ((((u.traceGroup 6 slot g.src).freeGroup slot g).stashRetired slot).setEvents g.ctx g.src.record.set
        |>.qui g.ctx).dispatchAll
    ((s.ctxOf g.ctx).dgctl.getLsbD 0 = false → exec (.groupRetire slot) s = .next (done s)) ∧
    ∀ h u, (s.ctxOf g.ctx).dgctl.getLsbD 0 = true →
      groupDigest g ((s.ctxOf g.ctx).liveOuts.filter fun o => o.slot = slot) s = .ok (h, u) →
      exec (.groupRetire slot) s = .next (done (u.modCtx g.ctx fun x => { x with dg := x.dg + BitVec.ofNat 256 h }))) ∧
  (∀ r rest t, s.weir.held = r :: rest → s.submit r = some t →
    exec .weirHeldSubmit s = .next (State.submitHeld rest.length { t with weir := { t.weir with held := rest } })) ∧
  ∀ k : Fin 16, s.slotOf id = some k → s.ctxs[k].state ≠ .error →
    exec (.eccUncorrectable id lidx) s = .next { s with ctxs := s.ctxs.set k { s.ctxs[k] with
      state := .error, status := BitVec.ofNat 16 (21 + lidx.toNat * 2 ^ 8) } }

/-- R39, R92, R137, R141, R146, R147, R152, R221, R222, R258: the events of a core's engines: COMMAND_COMPLETE ORs a
command's flags, pushes its entries, sends its barrier count and takes it from its queue; DISCARD takes a command
whose guard is false, without effect; TRAP_ENTRY enters the handler; SIGNAL_ARRIVAL adds to a flag; LEASE_GRANT gives
a free array to the winner; RELOCATION_TAKE lets the lowest-positioned idle sibling take the offer of the highest
priority. What an engine last found of the C queue's heads is forgotten where something they could wait for has ended.
Which commands a sibling may take and when a core may be cut are the model's readings (log entries 90 and 101). -/
def Obligations.CoreEventsComplete : Prop := ∀ (n k : Nat) (e : Eng) (s : State),
  let i := coreIx n
  let c := s.coreAt i
  let q := c.queue e
  let forgotten := fun (e : Eng) (q : List Cmd) => if e = .c then q.map fun x => { x with held := none } else q
  (∀ x, q.zipIdx.find? (fun p => p.1.phase = .executed ∧ !s.holding i (· == p.1.iseq) ∧ decrementsInOrder q p.2 p.1) =
      some (x, k) → x.inGroup = false →
    Gives (.commandComplete n e) s fun t =>
      OnlyCoreAt i s t ∧ (t.coreAt i).queue e = forgotten e (q.eraseIdx k) ∧ (t.coreAt i).x = c.x ∧ (t.coreAt i).pc = c.pc ∧
      (t.coreAt i).sr = { c.sr with aflags := c.sr.aflags ||| x.flags.zeroExtend 64 } ∧
      (∀ m < 16, (t.coreAt i).qreg m = c.qreg m ++ (x.pushes.filter fun p => p.1 = m).map (·.2)) ∧
      t.decrements = s.decrements ++ x.barrier.toList.map fun b => ⟨b.1, b.2, c.jobSlot, i⟩) ∧
  (∀ x g, q[c.nextIx e]? = some x → instrGuard x.instr = some g → x.phase = .waiting → x.consumed = false →
    s.mayExecute i e x = true → (c.pair g).isOpen = false → c.guardVal g = false →
    exec (.discard n e) s = .next (s.setCoreAt i { (c.setQueue e (q.eraseIdx (c.nextIx e))) with
      cq := forgotten .c ((c.setQueue e (q.eraseIdx (c.nextIx e))).queue .c) })) ∧
  (∀ (w : Option Eng) (cause : Cause) (info : DWord) (iseq : Word),
    c.pendingTrap = some (w, cause, info, iseq) → s.canCut i = true → c.sr.active = false → c.sr.tvec ≠ 0 →
    c.debug ≠ .stepping → cause ≠ .ecc →
    Gives (.trapEntry n) s fun t =>
      let r := c.sr
      (t.coreAt i).pc = r.tvec ∧ (t.coreAt i).pendingTrap = none ∧ (t.coreAt i).x = c.x ∧
      (t.coreAt i).vq = [] ∧ (t.coreAt i).mq = [] ∧ (t.coreAt i).cq = [] ∧
      (t.coreAt i).sr = { r with
        tpc := c.trapPc, tcause := BitVec.ofNat 64 (2 ^ 63 + cause.code), tinfo := info
        tqueue := BitVec.ofNat 64 (queueCode w), tseq := iseq.zeroExtend 64
        sloopst := r.loopst, sl0s := r.l0s, sl0e := r.l0e, sl0c := r.l0c, sl1s := r.l1s, sl1e := r.l1e, sl1c := r.l1c
        saflags := aflagsAtCut c
        loopst := 0, aflags := 0 }) ∧
  (∀ x : Signal, s.signals[k]? = some x →
    (∀ y ∈ s.signals.take k, ¬(y.sender = x.sender ∧ y.target = x.target ∧ y.flag = x.flag)) →
    (∃ j, (s.coreAt x.target).job = some j ∧ j.slot = x.slot ∧ j.ended = false) → s.frozenAt x.target = false →
    let d := s.coreAt x.target
    (∀ h ∈ d.heldFlags, h.1 ≠ x.flag) → (d.flags[x.flag.toFin]).toNat + x.amount.toNat ≤ 255 →
    exec (.signalArrival k) s = .next (State.setCoreAt { s with signals := s.signals.eraseIdx k } x.target
      { d with flags := d.flags.set x.flag.toFin (d.flags[x.flag.toFin] + x.amount) })) ∧
  (∀ w, ∀ h : k < 32,
    let l := s.leases[k]
    let asks := (List.finRange 128).filter fun i => decide (i.val < s.ncore ∧ s.clusterOf i.val = k) && s.requestsLease i
    l.holder = none → s.leaseWinner l.lastPos asks = some w →
    exec (.leaseGrant k) s = .next { s with
      leases := s.leases.set k { holder := some w, lastPos := s.position w, started := 0, len := s.headLrun w } }) ∧
  (let o := coreIx k
   let siblings := (List.finRange 128).filter fun i => s.enabled i && s.clusterOf i.val == s.clusterOf (coreIx n).val
   let offer := fun (i : Fin 128) => i ∈ siblings ∧ s.offers i e = true
   let free := fun (m : Fin 128) => m ∈ siblings ∧ m ≠ i ∧ s.idleEngine m e = true
   ∀ m y, e ≠ .m → offer i → (∀ x, offer x → s.prioOf x ≤ s.prioOf i ∧ (s.prioOf x = s.prioOf i → i ≤ x)) →
    free o → (∀ x, free x → o ≤ x) → c.nextOffer e = some (m, y) → s.regs.pcsel.toNat % 256 ≠ 7 →
    let q' := q.map fun x => if x.iseq = y.iseq then { x with relocated := true } else x
    exec (.relocationTake n e k) s = .next (s.setCoreAt i (match e with
      | .c => { c with cq := q', takenC := some (o, y.iseq) }
      | _ => { c with vq := q', takenV := some (o, y.iseq) })))

/-- R99, R100, R105, R221, R292, R295, R296, R299, R310, R337: the events of a job. JOB_START_COMPLETE leaves what R105
says is zero: the declared bytes of XS, but for the barrier storage that the start has already set, and of WS, the
declared tiles, the vector engine's registers, LYCONF and the record registers; the job leaves STARTING, its group is
RUNNING once no job of it starts, and nothing else changes. What the X and special registers hold then, the spec does not
say here (log entry 55). JOB_ENDED gives up the core and the lease, and counts the core among those of its group that have
ended. CORE_ACKNOWLEDGE frees the core and tells the collector; in a drain that keeps the job it first writes the image,
once no home holds a write of it. When a core may be cut and the order of cut, image and acknowledgement are the model's
readings (log entries 35 and 101); the image's areas without a stated layout hold free values (log entries 36 and 37). -/
def Obligations.JobEventsComplete : Prop := ∀ (n : Nat) (s : State) (j : Job),
  let i := coreIx n
  let c := s.coreAt i
  c.job = some j →
  (j.starting = true → Memory.wf c.xs = true → Memory.wf c.ws = true → sortedFrom 0 0 c.acc = true →
    Gives (.jobStartComplete n) s fun t =>
    let d := t.coreAt i
    d.job = some { j with starting := false } ∧
      (∀ a, readByte d.xs a = if a < j.xsb - 16 * j.nbar then 0 else readByte c.xs a) ∧
      (∀ a, readByte d.ws a = if a < j.wsb then 0 else readByte c.ws a) ∧
      (∀ tile row, row < 64 → d.accRow tile row = if tile < j.acct then 0 else c.accRow tile row) ∧
      (∀ r < 256, sget 0 d.vec.urs r = 0) ∧ (∀ r : Fin 16, d.vec.o[r] = 0) ∧ d.vec.lrl = 0 ∧ (∀ r : Fin 4, d.vec.mx[r] = 0) ∧
      d.vec.vview = 0 ∧ d.vec.wview = 0 ∧ d.vec.cond = [] ∧ d.lyconf = 0 ∧
      (∀ r : Fin 8, d.ly[r] = 0 ∧ d.bd[r] = 0 ∧ d.gn[r] = 0) ∧
      { d with
        job := c.job, xs := c.xs, ws := c.ws, acc := c.acc, vec := c.vec, lyconf := c.lyconf, ly := c.ly, bd := c.bd
        gn := c.gn } = c ∧
      (∀ m : Fin 128, m ≠ i → t.coreAt m = s.coreAt m) ∧ { t with cores := s.cores, groups := s.groups } = s ∧
      (t.groups = s.groups ∨ ∃ g, s.group j.slot = some g ∧ g.state = .dispatching ∧
        t.groups = s.groups.setIfInBounds j.slot (some { g with state := .running }))) ∧
  (∀ g, c.drained = true → j.starting = false → j.stopping = false → j.escalated = false → s.frozenAt i = false →
    c.barHeld = [] → s.group j.slot = some g →
    ∃ w : State, exec (.jobEnded n) s = .next w.dispatchAll ∧ (w.coreAt i).job = none ∧ w.mem = s.mem ∧
      (∀ l ∈ w.leases.toList, l.holder ≠ some i) ∧
      w.group j.slot = some { g with
        ended := g.ended ++ [i]
        state := if ∀ m : Fin 128, g.src.record.part.getLsbD m.val = true → m ∈ g.ended ∨ m = i then .draining
          else g.state } ∧
      ∀ m : Fin 128, m ≠ i → w.coreAt m = s.coreAt m) ∧
  (∀ (k : Fin 16) (u : State), s.slotOf j.ctx = some k → s.ctxs[k].state = .draining → i ∈ s.ctxs[k].awaiting →
    s.canCut i = true → c.pendingTrap = none → (s.cut i .stop).barriersQuiet j.ctx = true →
    let a := fun (v : State) (saved : List (Fin 128 × Core)) => { v with ctxs := v.ctxs.set k { v.ctxs[k] with
      awaiting := v.ctxs[k].awaiting.filter fun m => m ≠ i, saved := saved } }
    let cut := s.cut i .stop
    (s.ctxs[k].drain = .destroy → exec (.coreAcknowledge n) s =
      .next (State.settleDrains ((a cut (cut.ctxs[k].saved ++
        [(i, { cut.coreAt i with job := some { j with preempted := true, stopping := false } })])).setCoreAt i
          (cut.coreAt i).vacate))) ∧
    let held := fun v : State => v.pageHolds j.ctx (v.imageBase j.ctx i) (v.imageBase j.ctx i + 0x400000)
    (s.ctxs[k].drain ≠ .destroy → held cut = false → saveImage i { cut with cur := i } = .ok ((), u) → held u = false →
      u.slotOf j.ctx = some k → (u.coreAt i).job = some j →
      exec (.coreAcknowledge n) s = .next (State.settleDrains (State.setCoreAt { (a u (u.ctxs[k].saved ++
        [(i, { u.coreAt i with job := some { j with preempted := true, stopping := false } })])) with cur := s.cur } i
        (u.coreAt i).vacate))))

/-- R437 to R445, R449: the debugger's events: DBG_STOP asks a running core to stop, DEBUG_STOP_ENTERED is its stop once it
is quiet, DBG_GO and DBG_STEP let a stopped core run on or issue one bundle; DEBUG_WRITE sets the control register at
any time and an X register of a stopped core, through the open aperture; FREEZE and UNFREEZE (R449); TRACE_SAMPLE with
sampling off writes nothing. The model's readings are when a context's stop is entered and how STEP leaves its mark (log
entry 40), that a write through the aperture needs the open window and does nothing while frozen and that FREEZE needs the
window too (log entries 8 and 15), and which class a sample shows (log entry 42, the model's choice). -/
def Obligations.DebugEventsComplete : Prop := ∀ (n : Nat) (v : DWord) (s : State),
  let i := coreIx n
  let c := s.coreAt i
  (s.enabled i = true → c.debug = .running → c.dbgStopCtx = false → Gives (.dbgStop n) s fun t =>
    (t.coreAt i).debug = .stopping 1 ∧ (t.coreAt i).x = c.x ∧ (t.coreAt i).pc = c.pc ∧ (t.coreAt i).sr = c.sr ∧
    t.mem = s.mem) ∧
  (∀ r, s.enabled i = true → c.debug = .stopping r → s.debugQuiet i = true → c.dbgCtx = false →
    Gives (.debugStopEntered n) s fun t =>
      t.coreAt i = { c with debug := .stopped r, stepTo := none } ∧ ∀ m : Fin 128, m ≠ i → t.coreAt m = s.coreAt m) ∧
  (∀ r, c.debug = .stopped r →
    (c.dbgCtx = false → exec (.dbgGo n) s = .next (s.setCoreAt i { c with debug := .running, stepTo := none })) ∧
    exec (.dbgStep n) s = .next (s.setCoreAt i { c with debug := .stepping, stepTo := none, dbgCtx := false })) ∧
  (s.frozen = false → s.windowOpen = true → s.enabled i = true →
    (exec (.debugWrite n 0x3FF000 v) s =
      .next (s.setCoreAt i { c with dbgArm := v.getLsbD 0, dbgStopCtx := v.getLsbD 1 })) ∧
    ∀ (r : BitVec 4) (x : XReg), c.debug = .stopped r →
      exec (.debugWrite n (BitVec.ofNat 22 (0x40 + 8 * x.toNat)) v) s =
        .next (s.setCoreAt i (if x = 0 then c else { c with x := c.x.set x.toFin v }))) ∧
  (s.windowOpen = true → exec .freeze s = .next { s with frozen := true }) ∧
  (s.windowOpen = false → exec .freeze s = .next s) ∧ exec .unfreeze s = .next { s with frozen := false } ∧
  (s.regs.trctl.toNat / 2 ^ 32 % 2 ^ 5 = 0 → exec .traceSample s = .next s) ∧
  ∀ j, (∀ m : Fin 128, (s.coreAt m).job = if m = i then some j else none) → s.regs.trctl.toNat / 2 ^ 32 % 2 ^ 5 ≠ 0 →
    exec .traceSample s = .next (s.trace 2 i.val j.ctx c.iseq (s.samplePayload i) c.pc)

/-- R87, R322 to R327, R330 to R332, R337, R344, R345, R363, R401: the page events: FAULT_BUFFER_WRITE writes the oldest
waiting entry; REPLAY and REPLAY_ABORT are recorded for a saved context, of which only a waiting LAUNCH goes on, and
for a live one let the stopped paths whose entries are written go on or fault; the TLBINV writes drop the cached
entries of their scope; PROMOTION and DEMOTION enter a page into the in-flight table, SUMP_MOVE_COMPLETE moves it;
Grotto's moves end. What a replayed path reports again and what becomes of a moved page's old place are the model's
readings (log entries 24, 25, 27 to 29 and 39). -/
def Obligations.PageEventsComplete : Prop := ∀ (id : CtxId) (va : BitVec 57) (key : BitVec 22) (n : Nat) (s : State),
  (∀ e rest, Memory.wf s.mem = true → s.faults = e :: rest → s.fbReady = true →
    let r := s.regs
    Gives .faultBufferWrite s fun t =>
      WroteBytes s.mem t.mem (bits r.fbbase.toNat 50 12 * 4096 + 32 * (r.fbwr.toNat % 2 ^ ringLog (r.fbctl.toNat % 32) 16))
        (leBytes 8 e.w0.toNat ++ leBytes 8 e.w1.toNat ++ leBytes 8 e.w2.toNat ++ leBytes 8 r.fbwr.toNat) ∧
      { t with mem := s.mem } = { s with faults := rest, regs := { r with fbwr := r.fbwr + 1 } }) ∧
  (∀ k : Fin 16, s.slotOf id = some k →
    let x := s.ctxs[k]
    let put := fun (y : Context) => { s with ctxs := s.ctxs.set k y }
    let launch := fun (ok : BitVec 57 → Bool → Bool) (p : PkgPath) (va : BitVec 57) (mig : Bool) =>
      decide (p = .mailbox) && ok va mig
    ((x.state = .saved ∨ x.state = .trapped) →
      let u := put { x with replayRecorded := true }
      let ok := fun (va : BitVec 57) (mig : Bool) => !mig && !s.entryWaits id va.toNat 0
      exec (.replay id) s = .next (u.retryPkg id (launch ok)) ∧
      exec (.replayAbort id) s = .next (u.abortPkg id (launch ok)) ∧
      ((∀ e ∈ s.paths, e.2.1 = id → e.1 ≠ .mailbox) →
        u.retryPkg id (launch ok) = u ∧ u.abortPkg id (launch ok) = u)) ∧
    (x.state = .error → exec (.replay id) s = .next (s.retryPkg id (launch fun _ mig => !mig)) ∧
      exec (.replayAbort id) s = .next (s.abortPkg id (launch fun _ mig => !mig))) ∧
    (x.state ≠ .saved → x.state ≠ .trapped → x.state ≠ .error →
      (let u := put { x with outstanding := [], replayRecorded := false }
       let v := (u.coresOf id).foldl (fun v i => v.replayCore id i) u
       let w := (v.ctxOf id).saved.foldl (fun v p =>
        let r := v.replayPaths id p.1 p.2
        r.1.setSaved id p.1 r.2) v
       exec (.replay id) s = .next ((w.retryPkg id fun p va mig => w.replayed p id va mig).refreshWait id)) ∧
      (let u := (put { x with outstanding := [] }).abortPkg id fun p va mig => s.replayed p id va mig
       let v := (u.coresOf id).foldl (fun v i => v.setCoreAt i ((v.coreAt i).abortPaths (s.gone id))) u
       exec (.replayAbort id) s = .next ((v.modCtx id fun x => { x with saved := x.saved.map fun p =>
        (p.1, ((p.2.unpark fun b => b == .stop).abortPaths (s.gone id)).park .stop) }).refreshWait id)))) ∧
  (∀ (i : Fin 128) (p : PathStop) (e : TlbEntry),
    let c := s.coreAt i
    c.sStop = some p → p.migrating = false → c.mStop = none → c.cStop = none →
    (s.entryWaits id p.va.toNat p.acc = true →
      s.replayCore id i = s.setCoreAt i c ∧ c.abortPaths (s.gone id) = c) ∧
    (s.entryWaits id p.va.toNat p.acc = false →
      (s.walk id p.va.toNat = .leaf e → s.replayCore id i = s.setCoreAt i { c with sStop := none }) ∧
      (c.pendingTrap = none → c.abortPaths (s.gone id) = { c with
        sStop := none, pendingTrap := some (none, .page, pageInfo p.va.toNat 0 (p.acc == 1), p.iseq) }))) ∧
  (let drops := fun (i : Instr) (x : InvScope) => s.usersOf x = [] → s.tlbinvBusy = false → s.regs.tlbinvNext = [] →
    exec i s = .next { s with
      tlb := s.tlb.filter fun e => !x.has e, tables := s.tables.filter fun e => !x.hasTable e
      regs := { s.regs with tlbinvWait := [], tlbinvNext := [] } }
   drops (.hostTlbinvPage va id) (.page id va.toNat) ∧ drops (.hostTlbinvCtx id) (.ctx id) ∧ drops .hostTlbinvAll .all) ∧
  (∀ (e : TlbEntry) (up : Bool), s.sumpPage id va.toNat = some e → inHbm e = !up → s.moveRoom = true →
    s.pageStaged (leafPa e.leaf) = false →
    (s.hinted id (va.toNat / 65536) up = true ∨
      (let low := bits s.regs.smark.toNat 31 0
       let high := bits s.regs.smark.toNat 63 32
       if up then high ≤ s.freeHbm
       else (s.freeHbm < low ∨ (s.demoting = true ∧ s.freeHbm < high)) ∧ s.leastCount id (va.toNat / 65536) = true)) →
    Gives (if up then .promotion id va else .demotion id va) s fun t =>
      { t with hints := s.hints, demoting := s.demoting } = { s with
        moves := s.moves ++ [⟨e.ctx, e.va, e.pteAddr, up, true, []⟩], tlb := s.tlb.filter fun x => x.pteAddr ≠ e.pteAddr }) ∧
  (∀ (m : SumpMove), s.moves[n]? = some m → m.entered = true → s.moveQuiet m = true →
    let leaf := readLE s.mem m.pte.toNat 8
    let pa := bits leaf 50 12 * 4096
    s.pageStaged pa = false →
    (∀ xs f u, m.promote = true → bitN leaf 10 = true → readPage s.mem pa = some xs → s.takeFrame = some (f, u) →
      exec (.sumpMoveComplete n) s = .next ((((((({ u with
        mem := writeBytes u.mem f (applyHeldWrites pa m.held xs) }).endMove m pa f 0 false).freeRecordOf pa).repack m
          pa).heldDone m).settleInv).afterMove)) ∧
    (∀ p at_ u, m.promote = false →
      let xs := readBytes s.mem pa 4096
      let tier := s.rangeTier m.ctx m.va.toNat
      s.placeFor tier (pageClass (encodePage xs) * 4) = some ((p, at_), u) →
      exec (.sumpMoveComplete n) s = .next (((({ u with mem := placePage u.mem p at_ xs }).endMove m pa p tier
        true).giveRing [pa]).afterMove))) ∧
  (∀ e, s.grotto.find key = some e →
    (e.state = .compressing → (∀ f ∈ s.grotto.entries, f.wantFrames = false) →
      let r := (e.frames.zipIdx).foldl (fun a (f, i) => encodeFrame e a i (readBytes s.mem (s.grotto.frame f) 4096))
        (s.mem, [])
      exec (.compressionComplete key) s = .next { s with
        mem := r.1
        grotto := s.grotto.modify key fun e => { e with state := .spilled, frames := [], kept := r.2 } }) ∧
    (e.state = .prefetching → (∀ i < e.frames.length, (e.pageBytes s.mem i).isSome = true) →
      exec (.grottoPromotionComplete key) s = .next (State.giveRing { s with
        mem := (List.range e.frames.length).foldl (fun m i =>
          writeBytes m (s.grotto.frame (e.frames.getD i 0)) ((e.pageBytes s.mem i).getD [])) s.mem
        grotto := s.grotto.modify key fun e => { e with state := .ready, groups := [], kept := [] } }
        (e.groups.map BitVec.toNat))))

/-- R346 to R348, R350, R352, R355, R357, R358, R377: the events of ports and channel endpoints: a flit with a CRC
failure is replayed and counted, corrected codewords count (how many is a free value: log entry 78), a port with no
flit in time or a lane lost goes DOWN, a trained one comes UP; CHCTL written enables or disables an endpoint; a delivery
in order lands in its slot, which is FILLED, and the sender told, once no home holds a write of it; acknowledgements,
refusals and windows reach a send endpoint; a refusal, or a send unacknowledged for too long, puts the endpoint in ERROR.
How the ports are numbered, with ports 8 and 9, of CXL, treated as the others, the bits that CHCTL keeps and the form of a
refusal are the model's readings (log entries 54, 14 and 103). -/
def Obligations.PortAndChannelEventsComplete : Prop := ∀ (p : Fin 10) (n : BitVec 5) (v : DWord) (w : Word)
    (m : CulvertMsg) (s : State),
  let x := s.ports[p]
  let port := fun (y : Port) => { s with ports := s.ports.set p y }
  let c := s.chans[n.toFin]
  let chan := fun (d : Channel) => { s with chans := s.chans.set n.toFin d }
  (x.state = .up →
    let ecc := BitVec.ofNat 16 (min (x.feccor.toNat + (Config.freeByte s.fresh 0).toNat) 65535)
    exec (.flitReceive p.val true) s = .next { (port { x with replaying := false, feccor := ecc }) with
      fresh := s.fresh + 1 } ∧
    exec (.flitReceive p.val false) s = .next { (port { x with
      replaying := true, feccor := ecc, retry := BitVec.ofNat 16 (min (x.retry.toNat + 1) 65535) }) with
        fresh := s.fresh + 1, outbox := (some p.val, .flitReplay p.val) :: s.outbox }) ∧
  (x.replaying = true → exec (.flitTimeout p.val) s = .next (port { x with state := .down, replaying := false })) ∧
  (p.val < 8 → exec (.laneLoss p.val) s = .next (port { x with state := .down, replaying := false })) ∧
  (x.state = .training → exec (.linkTrainingComplete p.val) s = .next (port { x with state := .up })) ∧
  (s.chanWritable c = true →
    (c.ctl.getLsbD 0 = false → v.getLsbD 0 = true → exec (.chctlWrite n v) s =
      .next { (chan { Channel.start with
        ctl := cleanChctl v, peer := c.peer, ring := c.ring, cn := c.cn, state := 1
        hi := if v.getLsbD 16 then 0 else BitVec.ofNat 32 (bits v.toNat 31 24 + 1) }) with
          paths := s.paths.filter fun e => e.1 ≠ .culvert n }) ∧
    (v.getLsbD 0 = false → exec (.chctlWrite n v) s =
      .next { (chan { c with
        ctl := cleanChctl v, state := 0, waiting := none, waitVa := none, landing := none, unacked := none }) with
          paths := s.paths.filter fun e => e.1 ≠ .culvert n })) ∧
  (c.state = 1 → c.ctl.getLsbD 16 = false →
    exec (.culvertAck ⟨n, false⟩) s = .next (chan { c with unacked := none }) ∧
    exec (.culvertAck ⟨n, true⟩) s = .next (chan { c with state := 2 }) ∧
    exec (.windowUpdate n w) s = .next (chan { c with hi := w }) ∧
    (c.unacked.isSome = true → exec (.csendTimeout n) s = .next (chan { c with state := 2 }))) ∧
  (∀ u, c.state = 1 → c.ctl.getLsbD 16 = true → c.ctl.getLsbD 17 = false → bits c.peer.toNat 28 24 = m.fromCh.toNat →
    bits c.peer.toNat 21 0 = m.fromCoord.toNat → c.waiting = none → c.landing = none → bits c.ctl.toNat 37 36 = 0 →
    c.cn.getLsbD 12 = false →
    let id : CtxId := BitVec.ofNat 16 (bits c.ctl.toNat 63 48)
    let k := m.seq.toNat % c.nslot
    (s.slotOf id).isSome = true → c.slot k = .empty →
    s.slotAdmitted id c (c.ringVa + k * c.slotBytes) (c.ringVa + (k + 1) * c.slotBytes) = true →
    deviceWrite id (c.ringVa + k * c.slotBytes)
      ((m.bytes ++ List.replicate (c.slotBytes - m.bytes.length) 0).take c.slotBytes) s = .ok ((), u) →
    u.chans = s.chans →
    let holds := u.pageHolds id (c.ringVa + k * c.slotBytes) (c.ringVa + (k + 1) * c.slotBytes)
    (holds = false → exec (.culvertDelivery n m) s = .next { u with
      chans := s.chans.set n.toFin { c with
        slots := sset .empty c.slots k (.filled m.seq m.tag), waiting := none, waitVa := none }
      outbox := (u.route (c.peer.toNat % 2 ^ 22), .culvertAck c.peer m.seq) :: u.outbox }) ∧
    (holds = true → exec (.culvertDelivery n m) s = .next { u with
      chans := s.chans.set n.toFin { c with waiting := none, waitVa := none, landing := some m } }))

/-- R366 to R372, R378: the events of queue pairs: the head entry whose trigger is met fires, is read and is sent with
the next sequence number; an acknowledgement completes every entry before it and counts in its LCN; a refusal or a
timeout puts the queue pair in ERROR; retransmission sends again what is held, in order; a delivery with the expected
number is accepted, one before it is acknowledged again, one after it is discarded. An accepted delivery has written its
bytes where its cached pages lie and tagged their lines with its stream, or handed its lines to the reducers; it counts
in RCN and moves RSEQ on once no write of it is still to be performed, with the last step of its reducers. A reducer's
step adds a delivery's lines of one stack. The stack of a line is a free value, and when a delivery is held the model's
reading (log entries 49 and 50). -/
def Obligations.QueuePairEventsComplete : Prop := ∀ (qp : BitVec 12) (a : Word) (m : QpMsg) (k : Nat) (id : CtxId)
    (s : State),
  let q := s.qp qp.toNat
  let path := PkgPath.qpSource qp
  let sends := fun (t : State) (o : Outgoing) => { t with outbox := (t.portOf o, o) :: t.outbox }
  let accepts := fun (i : Instr) (t u : State) => Gives i t fun v =>
    let r := u.qp m.rqp.toNat
    let counted := match m.rcn with
      | some n => u.addCounter id n.toNat 1
      | none => u
    v = sends (counted.setQp m.rqp.toNat { r with
      state := 1, peer := m.peer, pqp := m.sqp, rseq := m.seq + 1, waiting := none, waitVa := none })
        (.qpAck m.peer m.sqp m.seq)
  (∀ e, q.entries[q.headIx]? = some e → s.qpOwner qp.toNat = some id →
    (e.state = .waiting → (∀ n, wdCounter (wd e.desc 0x1C 2) = some n → wd e.desc 0x20 8 ≤ (s.counter id n).toNat) →
      exec (.entryFire qp) s =
        .next (s.setQp qp.toNat { q with entries := q.entries.set q.headIx { e with state := .reading } })) ∧
    (∀ bs u, e.state = .reading → s.sourceHeld id (wd e.desc 0 8) (wd e.desc 0x10 4) = false →
      deviceRead id (wd e.desc 0 8) (wd e.desc 0x10 4) (s.clearPath path) = .ok (bs, u) →
      let e' := { e with state := .sent q.sseq, bytes := bs }
      let v := (u.setQp qp.toNat { q with entries := q.entries.set q.headIx e', sseq := q.sseq + 1 }).modPoster e'
        (fun x => { x with progress := 2 }) fun x => { x with progress := 2 }
      exec (.entrySend qp) s = .next (sends v (.qpEntry (entryMsg q qp.toNat e' q.sseq))))) ∧
  (q.state = 1 → seqBefore q.aseq (a + 1) = true → seqBefore q.sseq (a + 1) = false → s.qpOwner qp.toNat = some id →
    exec (.qpAcknowledgement qp a) s = .next ((q.entries.filter fun e => e.sentBefore (a + 1)).foldl (fun t e =>
      let u := t.modPoster e (fun x => { x with phase := .executed }) fun x => { x with phase := .stopped, progress := 3 }
      match wdCounter (wd e.desc 0x28 2) with
      | some n => u.addCounter id n 1
      | none => u)
      (s.setQp qp.toNat { q with aseq := a + 1, entries := q.entries.filter fun e => !e.sentBefore (a + 1) }))) ∧
  (∀ n by_ : Nat, sortedFrom 0 0 s.counters = true →
    let t := s.addCounter id n by_
    { t with counters := s.counters, cores := s.cores } = s ∧
    (∀ i, sget 0 t.counters i = if i = (s.ctxOf id).cnBase + n then
      BitVec.ofNat 64 (min ((sget 0 s.counters i).toNat + by_) (2 ^ 64 - 1)) else sget 0 s.counters i) ∧
    ((s.ctxOf id).state = .error ∨ (∀ i ∈ s.coresOf id, (s.coreAt i).watches = []) → t.cores = s.cores)) ∧
  ((∃ e ∈ q.entries, e.state = .sent a) → ∃ t : State, exec (.qpRefusal qp a) s = .next t ∧
    t.qp qp.toNat = { q with state := 2, entries := [], waiting := none, waitVa := none } ∧ t.mem = s.mem ∧
    exec (.qpEntryTimeout qp) s = .next t) ∧
  (∀ seqs : List Word, q.entries.map (·.state) = seqs.map EntryState.sent →
    exec (.qpRetransmit qp) s = .next { s with
      outbox := (List.zipWith (fun e n =>
        (s.peerPort q.peer.toNat, Outgoing.qpEntry (entryMsg q qp.toNat e n))) q.entries seqs).reverse ++ s.outbox }) ∧
  (let r := s.qp m.rqp.toNat
   s.qpOwner m.rqp.toNat = some id → r.state = 0 ∨ (r.state = 1 ∧ r.peer = m.peer ∧ r.pqp = m.sqp) →
    (seqBefore m.seq r.rseq = true →
      exec (.qpDelivery m) s = .next (sends s (.qpAck m.peer m.sqp m.seq))) ∧
    (seqBefore r.rseq m.seq = true → seqBefore m.seq r.rseq = false → exec (.qpDelivery m) s = .next s) ∧
    (m.seq = r.rseq → r.waiting = none → m.bytes = [] →
      (∀ n, m.rcn = some n → n.toNat < (s.ctxOf id).cnCount) → accepts (.qpDelivery m) s s) ∧
    (∀ o ls u, m.seq = r.rseq → r.waiting = none → m.bytes ≠ [] →
      (s.ctxOf id).liveOuts.find? (fun o => decide (o.base.toNat ≤ m.dst.toNat) &&
        decide (m.dst.toNat + m.bytes.length ≤ o.limit)) = some o →
      o.kind = .exchange → m.rcn = some o.cn → s.gateOpen id o = false → deliveryLines id m o s = .ok (ls, u) →
      let w := u.deliverLines m o ls
      (w.deliveryPending id m = false → accepts (.qpDelivery m) s w) ∧
      (w.deliveryPending id m = true → ∃ t, exec (.qpDelivery m) s = .next t ∧ { t with qps := w.qps } = w ∧
        t.qp m.rqp.toNat = { r with
          state := 1, peer := m.peer, pqp := m.sqp, waiting := some m, waitVa := none })) ∧
    ∀ (o : LiveOut) (leaf : Nat → TlbEntry),
      let lo := m.dst.toNat
      let within := fun a : Nat => lo ≤ a ∧ a < lo + m.bytes.length
      let pa := fun a : Nat => leafPa (leaf a).leaf + (a - (leaf a).va.toNat)
      let open_ := fun e : DWord => leafAperture e = false ∧ e.getLsbD 4 = true ∧ e.getLsbD 7 = true ∧
        e.getLsbD 10 = false ∧ e.getLsbD 11 = false
      lo % 64 = 0 → lo + m.bytes.length ≤ 2 ^ 57 →
      (∀ a, within a → s.tlb.find? (fun e => e.covers id a) = some (leaf a) ∧ open_ (leaf a).leaf ∧
        ((s.tag (pa a / 64) o).stream = 0 ∨ (s.tag (pa a / 64) o).stream = streamOf m) ∧
        (m.red = true → s.inTier 0 (pa a) 64 = true)) →
      (∀ a b, within a → within b → a / 64 = b / 64 → leaf a = leaf b) →
      (∀ a b, within a → within b → pa a = pa b → a = b) →
      ∃ ls, deliveryLines id m o s = .ok (ls, s) ∧
        let w := s.deliverLines m o ls
        (∀ a, within a → a % 64 = 0 → (w.tag (pa a / 64) o).stream = streamOf m) ∧
        (m.red = true → w = { s with tags := w.tags, redsteps := s.redsteps ++ redStepsOf m ls }) ∧
        (m.red = false → Memory.wf s.mem = true → w = { s with mem := w.mem, tags := w.tags } ∧ Memory.wf w.mem = true ∧
          (∀ a, within a → readByte w.mem (pa a) = m.bytes.getD (a - lo) 0) ∧
          ∀ b, (∀ a, within a → pa a ≠ b) → readByte w.mem b = readByte s.mem b)) ∧
  ∀ r, s.redsteps[k]? = some r → (∀ x ∈ s.redsteps.take k, x.stack ≠ r.stack) →
    let f := if r.bf16 then FFmt.bf16 else .f32
    let lanes := 512 / f.width
    let u := { s with
      redsteps := s.redsteps.eraseIdx k
      mem := r.lines.foldl (fun mem l => writeLE mem l.1.toNat 64 (packNat f.width ((List.range lanes).map fun i =>
        radd f (fieldNat f.width i (readLE mem l.1.toNat 64)) (fieldNat f.width i l.2.toNat)))) s.mem }
    let y := s.qp m.rqp.toNat
    ((∃ x ∈ s.redsteps.eraseIdx k, x.rqp = r.rqp) → (∀ w, (s.qp r.rqp.toNat).waiting = some w → w.rqp = r.rqp) →
      exec (.reducerStep k) s = .next u) ∧
    (r.rqp = m.rqp → y.waiting = some m → y.waitVa = none → s.qpOwner m.rqp.toNat = some id →
      (∀ x ∈ s.redsteps.eraseIdx k, x.rqp ≠ m.rqp) → s.pageHolds id m.dst.toNat (m.dst.toNat + m.bytes.length) = false →
      accepts (.reducerStep k) s u)

/-- R448, R449, R454 to R460, R131, R359, R360: the events of the microcontroller and of the host: a reset that passes
every phase leaves the machine as reset leaves it, with the module's flash and the memory that is not lost, and the ports
that train TRAINING; one whose firmware image is not signed or older than the rollback counter, whose configuration block
is not signed, of another package or of no known layout, or whose memory or SCL fails, is held in that phase; an
attestation takes its nonce and writes its report; a power evaluation publishes what it measured and moves the clock
by at most one step; the performance counters are selected, cleared and reduced; a host's bytes are written; a
register of the window holds what is written to it, and the disable mask can be read. What a reset keeps and the bytes of a report's fields are the
model's choices (log entries 7, 8 and 11), as are the registers' offsets within a block (13) and a host access as one
step (16). -/
def Obligations.ManagementEventsComplete : Prop := ∀ (b : BootInput) (pw : PowerSample) (v : DWord) (pa : BitVec 51)
    (bytes : List Byte) (n : Nat) (s : State),
  let kept := fun (p : Nat → Bool) (ready : BitVec 10) => { State.reset with
    flash := s.flash, mem := s.mem.filter fun e => p e.1, agenda := s.agenda, turn := s.turn, fresh := s.fresh
    ports := Vector.ofFn fun k => Port.fresh (if ready.getLsbD k.val then .training else .down) }
  let firmware := b.firmwareOk = true ∧ s.flash.rollback.toNat ≤ b.imageVersion.toNat
  let config := b.configOk = true ∧ b.layoutKnown = true ∧ s.flash.pufDigest = pufDigest
  let lost := fun a : Nat => decide (2 ^ 44 ≤ a)
  let failed := fun (phase : Nat) (ready : BitVec 10) =>
    exec (.powerOnReset b) s = .next { (kept lost ready) with phase := phase, phaseFailed := true }
  let r := s.regs
  (b.memoryTrained = true → b.sclTrained = true →
    (firmware → config → exec (.powerOnReset b) s = .next (kept lost b.ports)) ∧
    (s.phaseFailed = false → exec (.hostReset b) s = .next (kept (fun a => decide (2 ^ 40 ≤ a)) b.ports))) ∧
  (¬firmware → failed 1 0) ∧ (firmware → ¬config → failed 2 0) ∧
  (firmware → config → (b.memoryTrained = false → failed 3 0) ∧
    (b.memoryTrained = true → b.sclTrained = false → failed 5 b.ports)) ∧
  (r.atcmd.getLsbD 0 = false → Gives .attestationRequest s fun t =>
    t.regs = { r with atcmd := r.atcmd ||| 1 } ∧ { t with regs := r, attest := s.attest } = s ∧
    ∃ nonce addr, t.attest = some (nonce, addr) ∧ addr.toNat = r.atresp.toNat / 256 * 256 % 2 ^ 51 ∧
      ∀ k : Fin 4, nonce.extractLsb' (64 * k.val) 64 = r.atnonce[k]) ∧
  (∀ nonce addr, Memory.wf s.mem = true → s.attest = some (nonce, addr) → s.inTier 3 addr.toNat 256 = true →
    Gives .attestationReport s fun t =>
      let body := leBytes 32 nonce.toNat ++ leBytes 32 Config.firmwareDigest.toNat ++
        leBytes 32 Config.configDigest.toNat ++ leBytes 8 (s.cfginfo.toNat / 256 * 256) ++
        leBytes 8 s.flash.rollback.toNat ++ leBytes 64 Config.pufPublicKey.toNat
      WroteBytes s.mem t.mem addr.toNat
        (body ++ leBytes 64 (Config.sm2Sign s.fresh body).toNat ++ List.replicate 16 0) ∧
      { t with mem := s.mem } = { s with
        fresh := s.fresh + 1, attest := none, regs := { r with atcmd := r.atcmd &&& 2 } }) ∧
  (∀ nonce addr, s.attest = some (nonce, addr) → s.inTier 3 addr.toNat 256 = false →
    exec .attestationReport s = .next { s with attest := none, regs := { r with atcmd := 2 } }) ∧
  (s.phaseFailed = false → pw.die0.toNat < 105 → pw.die1.toNat < 105 →
    let warn := 95 ≤ pw.die0.toNat ∨ 95 ≤ pw.die1.toNat
    let limit := r.pwrcap.toNat % 2 ^ 16
    let above := r.pwrcap.getLsbD 16 = true ∧ limit < pw.pkgW.toNat
    let old := r.pwrstat.toNat / 2 ^ 32 % 2 ^ 12
    let clk := if above ∨ warn then max (old - 100) 900
      else if 100 * pw.pkgW.toNat ≤ 95 * limit then min (old + 100) 1800 else old
    exec (.powerEvaluation pw) s = .next { s with regs := { r with
      pwrstat := BitVec.ofNat 64 (pw.pkgW.toNat + pw.modW.toNat * 2 ^ 16 + clk * 2 ^ 32 +
        (if clk < 1800 then 2 ^ 48 else 0) + if warn then 2 ^ 49 else 0)
      temp := BitVec.ofNat 64 (pw.die0.toNat + pw.die1.toNat * 2 ^ 8 + pw.hbm.toNat * 2 ^ 16 + pw.inlet.toNat * 2 ^ 24) } }) ∧
  (s.phaseFailed = false → 105 ≤ pw.die0.toNat ∨ 105 ≤ pw.die1.toNat →
    exec (.powerEvaluation pw) s = .next { (kept (fun a => decide (2 ^ 40 ≤ a)) 0) with phase := 3 }) ∧
  (Gives (.pcselWrite v) s fun t =>
    t.regs = { r with pcsel := v &&& 0x0000FFFF000103FF } ∧ { t with cores := s.cores, regs := r } = s ∧
    ∀ i : Fin 128, t.coreAt i = { s.coreAt i with perf := 0 }) ∧
  (let xs := s.perfCores
   (xs = [] → exec .pcvalRead s = .next { s with regs := { r with pcval := 0 } }) ∧
   (r.pcsel.toNat / 2 ^ 8 % 4 = 0 ∨ r.pcsel.toNat / 2 ^ 8 % 4 = 3 → exec .pcvalRead s = .next { s with regs := { r with pcval := BitVec.ofNat 64 xs.sum } }) ∧
   (r.pcsel.toNat / 2 ^ 8 % 4 = 1 → ∀ k ∈ xs, (∀ y ∈ xs, k ≤ y) →
     exec .pcvalRead s = .next { s with regs := { r with pcval := BitVec.ofNat 64 k } }) ∧
   (r.pcsel.toNat / 2 ^ 8 % 4 = 2 → ∀ k ∈ xs, (∀ y ∈ xs, y ≤ k) →
     exec .pcvalRead s = .next { s with regs := { r with pcval := BitVec.ofNat 64 k } })) ∧
  (Memory.wf s.mem = true → s.inMemory pa.toNat bytes.length = true →
    (∀ k < bytes.length, s.reducing (pa.toNat + k) = false) →
    (Gives (.hostAccess pa (.write bytes)) s fun t =>
      WroteBytes s.mem t.mem pa.toNat bytes ∧ { t with mem := s.mem } = s) ∧
    exec (.hostAccess pa (.read bytes.length)) s = .next s) ∧
  (s.inMemory pa.toNat n = false → exec (.hostAccess pa (.read n)) s = .fault (.noMemory pa.toNat)) ∧
  (s.windowOpen = true → s.hostRead 0xB040 = some s.cfginfo ∧
    s.hostRead 0xB048 = some (s.flash.disabled.extractLsb' 0 64) ∧ s.hostRead 0xB050 = some (s.flash.disabled.extractLsb' 64 64)) ∧
  (s.windowOpen = true → s.frozen = false →
    let writes := fun (off : BitVec 20) (q : Regs) => exec (.registerWrite off v) s = .next { s with regs := q }
    writes 0x0000 { r with mcoord := v &&& 0x3F3F3F } ∧ writes 0x0018 { r with ltmo := v &&& 0xFFFFFFFF } ∧
    writes 0x1010 { r with mqprod := v } ∧ writes 0x2008 { r with pgran := r.pgran.set 1 (v &&& 3) } ∧
    writes 0x4018 { r with fbrd := v } ∧ writes 0xB090 { r with atnonce := r.atnonce.set 2 v } ∧
    exec (.registerWrite 0xC600 v) s = .next { s with frozen := v.getLsbD 0 })

/-- R47, R48, R50, R78, R133, R169: what a step does. When the agenda names the sequencer of a core that may issue,
its bundle is the 16 bytes at the PC; where every word of it decodes and the queues have room, the step executes the S
word, and the engine words are enqueued when it completes; a bundle with a word that is ILLEGAL traps before any of
its words takes effect. When it names an engine, the step executes the command next in its queue. When it names an
event that can happen, the step executes it; before a sample every engine tries its head, and before a core's cut its C
engine does, of which only what holds the head stays (log entry 42). Drains that are complete then end (`settle`). The
agenda is the model's own (log entry 5). -/
def Obligations.StepRunsTheDecodedInstruction : Prop := ∀ (i : Fin 128) (rest : List Action) (s : State),
  let base := { s with agenda := rest }
  let u := { base with cur := i, skip := 0, cores := s.cores.set i { s.cores[i] with issue := .none_ } }
  let pc := s.cores[i].pc.toNat
  (∀ b t w, s.agenda = .run i .s :: rest → s.clocked = true → base.mayIssue i = true →
    fetchBundle u = .ok (b, t) → illegalInfo b = none → issueGate (engWords b) t = .ok ((), t) →
    decode .s (b.slot .s) = some w →
    step s = onNext (fun v => (State.afterS (engWords b) u.core.iseq v).settle) (exec w { t with words := engWords b })) ∧
  (∀ b t info, s.agenda = .run i .s :: rest → s.clocked = true → base.mayIssue i = true →
    fetchBundle u = .ok (b, t) → illegalInfo b = some info → CanTrap u →
    ∃ v, step s = .next v.settle ∧ TookTrap u v 1 info) ∧
  (∀ j e, s.cores[i].job = some j → j.poolmap = 0 → j.code.toNat ≤ pc → pc < j.code.toNat + 16 * j.nbun → pc < 2 ^ 57 →
    s.tlb.find? (fun e => e.covers j.ctx pc) = some e → e.leaf.getLsbD 5 = true → leafAperture e.leaf = false →
    e.leaf.getLsbD 10 = false → e.leaf.getLsbD 11 = false → e.va.toNat ≤ pc →
    (∀ k < 16, s.reducing (leafPa e.leaf + (pc + k - e.va.toNat)) = false) →
    fetchBundle u = .ok (BitVec.ofNat 128 (readLE s.mem (leafPa e.leaf + (pc - e.va.toNat)) 16), u)) ∧
  (∀ (e : Eng) (x : Cmd), s.agenda = .run i (engSlot e) :: rest → s.clocked = true →
    base.ownerOf i e = none → (s.cores[i].queue e)[s.cores[i].nextIx e]? = some x →
    (s.cores[i].taken e).map (·.2) ≠ some x.iseq → base.mayExecute i e x = true →
    step s = onNext State.settle (exec x.instr { base with cur := i, skip := 0 })) ∧
  ∀ ev, s.agenda = .event ev :: rest → base.eventOk ev = true →
    step s = onNext State.settle (exec ev (base.tried ev)) ∧
    ((∀ c, ev ≠ .trapEntry c ∧ ev ≠ .coreAcknowledge c) → ev ≠ .traceSample → base.tried ev = base)

/-- R47 to R69: words written out from the encoding chapter decode to the instructions they stand for. -/
def Obligations.WordsOfTheEncodingChapter : Prop :=
  decode .s 0x04642805 = some (.div 3 4 5) ∧ decode .s 0x254A0100 = some (.hii 10 10 0x0100) ∧
  decode .s 0x18640085 = some (.srai 3 4 5) ∧ decode .s 0x38A30008 = some (.ldW 5 3 8) ∧
  decode .s 0x60032000 = some (.redAdd 3 4 false) ∧ decode .s 0x00C00067 = some (.srr 6 .tcause) ∧
  decode .s 0x00000053 = some (.trap 5) ∧ decode .v 0x101B05D0 = some (.vfmaF32 false (.o 11) (.v 1) (.o 13) 0) ∧
  decode .v 0x281D7010 = some (.vsel false (.o 13) (.o 12) (.v 1) 0) ∧ decode .s 0xFC000000 = none

/-- R50, R52 to R69: every well-formed instruction that has an encoding is what its word decodes to, with every operand
at every value the encoding admits. -/
def Obligations.DecodeOfEncode : Prop := ∀ (i : Instr) (sl : Slot) (w : Word),
  i.wf = true → encode i = some (sl, w) → decode sl w = some i

/-- R50: a word that decodes is the one word of its instruction, which is well-formed: no bit of a word is dropped, and a
reserved or unused field that is not zero makes it ILLEGAL. -/
def Obligations.EncodeOfDecode : Prop := ∀ (i : Instr) (sl : Slot) (w : Word),
  decode sl w = some i → i.wf = true ∧ encode i = some (sl, w)

/-- The invariant that every step keeps: all that the machine holds in sparse form is canonical (strictly rising keys, no
entry equal to what an unlisted key reads as): physical memory; the local spaces, the accumulators, URS and the stall
counts of every core and of the cores of jobs that a stop has saved; the live output tables, the counters, the line tags,
the queue pairs and the channels' slots. -/
def Obligations.StepKeepsMemoriesCanonical : Prop := ∀ s t : State, AllCanonical s → step s = .next t → AllCanonical t

/-- R83, R98, R324, R329, R361, R365, R406, R448, R454, R459: what reset leaves: memories that list nothing, with every
sparse part canonical, phase 5, no job, no debug stop, no context, no group, no pool record, no cached leaf, no stash
entry and no Weir binding, the channels DISABLED, and PGRAN, PWRCAP, CLK and LTMO at the values their rules give. That
memory lists nothing at reset is the model's choice (log entry 1). -/
def Obligations.ResetLeaves : Prop :=
  let s := State.reset
  AllCanonical s ∧ s.phase = 5 ∧ s.frozen = false ∧ s.mem = [] ∧ s.pool = [] ∧ s.tlb = [] ∧ s.counters = [] ∧ s.qps = [] ∧
  (∀ i : Fin 128, s.cores[i].job = none ∧ s.cores[i].debug = .running) ∧ (∀ k : Fin 16, s.ctxs[k].state = .free) ∧
  (∀ k : Fin 128, s.groups[k] = none) ∧ (∀ k : Fin 32, s.chans[k].state = 0) ∧
  (∀ k : Fin 4, s.regs.pgran[k] = 3) ∧ s.regs.pwrcap = 2500 ∧ bits s.regs.pwrstat.toNat 43 32 = 1800 ∧
  s.regs.ltmo = 10000 ∧ s.grotto.entries = [] ∧ s.weir.ctx = none
end

