-- ==== Sys2Proof/Laws/Checks.lean ====
section
/-! SUPPORT. Laws/Checks.lean: a meaning that only checks leaves the state as it is. -/

set_option linter.unusedTactic false
set_option linter.unreachableTactic false

namespace Sys2Proof.Machine

/-- Where it answers, the state is the one it was given. -/
def OnlyChecks {α : Type} (m : M α) : Prop := ∀ s v t, m s = .ok (v, t) → t = s

namespace OnlyChecks

variable {α β : Type}

theorem pure (v : α) : OnlyChecks (Pure.pure v : M α) := by
  intro s v t h; cases h; rfl

theorem stop (x : Stop) : OnlyChecks (Machine.stop x : M α) := by
  intro s v t h; cases h

theorem trapM (c : Cause) (i : DWord) : OnlyChecks (Machine.trapM c i : M α) := stop _

theorem bind {m : M α} {f : α → M β} (hm : OnlyChecks m) (hf : ∀ v, OnlyChecks (f v)) : OnlyChecks (m >>= f) := by
  intro s v t h
  simp only [Bind.bind, StateT.bind, Except.bind] at h
  split at h
  · cases h
  · rename_i p hp
    have := hm s p.1 p.2 hp
    exact (hf p.1 p.2 v t h).trans this

theorem trapIf (b : Bool) (c : Cause) (i : DWord) : OnlyChecks (Machine.trapIf b c i) := by
  cases b
  · exact pure ()
  · exact stop _

theorem waitIf (b : Bool) (x : Stop) : OnlyChecks (Machine.waitIf b x) := by
  cases b
  · exact pure ()
  · exact stop _

theorem getS : OnlyChecks Machine.getS := by intro s v t h; cases h; rfl

theorem getCore : OnlyChecks Machine.getCore := by intro s v t h; cases h; rfl

theorem getJob : OnlyChecks Machine.getJob := by
  refine bind getCore fun c => ?_
  cases h : c.job
  · exact stop _
  · exact pure _

theorem getCtx : OnlyChecks Machine.getCtx := by
  refine bind getS fun s => ?_
  cases h : s.slotOf s.curCtx
  · exact stop _
  · exact pure _

theorem forM' {f : α → M Unit} (hf : ∀ a, OnlyChecks (f a)) : ∀ l, OnlyChecks (Machine.forM' f l)
  | [] => pure ()
  | a :: l => bind (hf a) fun _ => forM' hf l

theorem ite {c : Prop} [Decidable c] {a b : M α} (ha : OnlyChecks a) (hb : OnlyChecks b) :
    OnlyChecks (if c then a else b) := by
  split <;> assumption

theorem option (o : Option α) {f : α → M β} {m : M β} (hf : ∀ a, OnlyChecks (f a)) (hm : OnlyChecks m) :
    OnlyChecks (match o with
      | some a => f a
      | none => m) := by
  cases o
  · exact hm
  · exact hf _

theorem option' (o : Option α) {f : α → M β} {m : M β} (hm : OnlyChecks m) (hf : ∀ a, OnlyChecks (f a)) :
    OnlyChecks (match o with
      | none => m
      | some a => f a) := by
  cases o
  · exact hm
  · exact hf _

theorem checkXsRanges (rs : List (Int × Nat)) : OnlyChecks (Machine.checkXsRanges rs) := by
  unfold Machine.checkXsRanges
  repeat'
    first
      | with_reducible exact pure _ | with_reducible exact trapIf _ _ _ | with_reducible exact trapM _ _ | with_reducible exact getCore | with_reducible exact getCtx | with_reducible exact getJob
      | with_reducible apply forM' | with_reducible apply bind | with_reducible intro _ | dsimp only | split

theorem checkOperand (r : BitVec 512) (ls ss : List (Int × Nat)) : OnlyChecks (Machine.checkOperand r ls ss) := by
  unfold Machine.checkOperand
  repeat'
    first
      | with_reducible exact pure _ | with_reducible exact trapIf _ _ _ | with_reducible exact trapM _ _ | with_reducible exact getCore | with_reducible exact getCtx | with_reducible exact getJob | with_reducible exact checkXsRanges _
      | with_reducible apply forM' | with_reducible apply bind | with_reducible intro _ | dsimp only | split

theorem checkScaling (r : BitVec 512) : OnlyChecks (Machine.checkScaling r) := by
  unfold Machine.checkScaling
  repeat'
    first
      | with_reducible exact pure _ | with_reducible exact trapIf _ _ _ | with_reducible exact trapM _ _ | with_reducible exact getCore | with_reducible exact getCtx | with_reducible exact getJob
      | with_reducible apply forM' | with_reducible apply bind | with_reducible intro _ | dsimp only | split

theorem checkImage (d : DWord) : OnlyChecks (Machine.checkImage d) := by
  unfold Machine.checkImage
  repeat'
    first
      | with_reducible exact pure _ | with_reducible exact trapIf _ _ _ | with_reducible exact trapM _ _ | with_reducible exact getCore | with_reducible exact getCtx | with_reducible exact getJob
      | with_reducible apply forM' | with_reducible apply bind | with_reducible intro _ | dsimp only | split

theorem checkProfile (p : BitVec 4) (a b d : Nat) : OnlyChecks (Machine.checkProfile p a b d) := by
  unfold Machine.checkProfile
  repeat'
    first
      | with_reducible exact pure _ | with_reducible exact trapIf _ _ _ | with_reducible exact trapM _ _ | with_reducible exact getCore | with_reducible exact getCtx | with_reducible exact getJob
      | with_reducible apply forM' | with_reducible apply bind | with_reducible intro _ | dsimp only | split

theorem checkTile (t : BitVec 3) : OnlyChecks (Machine.checkTile t) := by
  unfold Machine.checkTile
  repeat'
    first
      | with_reducible exact pure _ | with_reducible exact trapIf _ _ _ | with_reducible exact trapM _ _ | with_reducible exact getCore | with_reducible exact getCtx | with_reducible exact getJob
      | with_reducible apply forM' | with_reducible apply bind | with_reducible intro _ | dsimp only | split

/-- The checks of an `mma` at issue. -/
theorem mmaIssue (t : BitVec 3) (o : MmaOp) (ta : Bool) : OnlyChecks (Machine.mmaIssue t o ta) := by
  unfold Machine.mmaIssue
  repeat'
    first
      | with_reducible exact pure _ | with_reducible exact trapIf _ _ _ | with_reducible exact trapM _ _ | with_reducible exact getCore | with_reducible exact getCtx | with_reducible exact getJob | with_reducible exact checkTile _ | with_reducible exact checkOperand _ _ _ | with_reducible exact checkImage _
      | with_reducible apply forM' | with_reducible apply bind | with_reducible intro _ | dsimp only | split

theorem checkPdRange (a : Nat) (rs : List (Int × Nat)) (al : Nat) : OnlyChecks (Machine.checkPdRange a rs al) := by
  unfold Machine.checkPdRange
  repeat'
    first
      | with_reducible exact pure _ | with_reducible exact trapIf _ _ _ | with_reducible exact trapM _ _ | with_reducible exact getCore | with_reducible exact getCtx | with_reducible exact getJob | with_reducible exact checkXsRanges _
      | with_reducible apply forM' | with_reducible apply bind | with_reducible intro _ | dsimp only | split

/-- The checks of `mvp.begin`. -/
theorem checkBegin (p : Nat) (d ra rw : BitVec 512) (prof : BitVec 4) : OnlyChecks (Machine.checkBegin p d ra rw prof) := by
  unfold Machine.checkBegin
  repeat'
    first
      | with_reducible exact pure _ | with_reducible exact trapIf _ _ _ | with_reducible exact trapM _ _ | with_reducible exact getCore | with_reducible exact getCtx | with_reducible exact getJob | with_reducible exact checkPdRange _ _ _ | with_reducible exact checkOperand _ _ _ | with_reducible exact checkProfile _ _ _ _ | with_reducible exact checkScaling _
      | with_reducible apply forM' | with_reducible apply bind | with_reducible intro _ | dsimp only | split

theorem checkWrites (b : Bool) (as : List Nat) : OnlyChecks (Machine.checkWrites b as) := by
  unfold Machine.checkWrites
  repeat'
    first
      | with_reducible exact pure _ | with_reducible exact trapIf _ _ _ | with_reducible exact trapM _ _ | with_reducible exact getCore | with_reducible exact getCtx | with_reducible exact getJob
      | with_reducible apply forM' | with_reducible apply bind | with_reducible intro _ | dsimp only | split

theorem checkSpaces (rs : List (BitVec 512)) : OnlyChecks (Machine.checkSpaces rs) := by
  unfold Machine.checkSpaces
  repeat'
    first
      | with_reducible exact pure _ | with_reducible exact trapIf _ _ _ | with_reducible exact trapM _ _ | with_reducible exact getCore | with_reducible exact getCtx | with_reducible exact getJob
      | with_reducible apply forM' | with_reducible apply bind | with_reducible intro _ | dsimp only | split

theorem checkExtent (b : Bool) (r : BitVec 512) : OnlyChecks (Machine.checkExtent b r) := by
  unfold Machine.checkExtent
  repeat'
    first
      | with_reducible exact pure _ | with_reducible exact trapIf _ _ _ | with_reducible exact trapM _ _ | with_reducible exact getCore | with_reducible exact getCtx | with_reducible exact getJob
      | with_reducible apply forM' | with_reducible apply bind | with_reducible intro _ | dsimp only | split

theorem checkAligned (rs : List (BitVec 512)) : OnlyChecks (Machine.checkAligned rs) := by
  unfold Machine.checkAligned
  repeat'
    first
      | with_reducible exact pure _ | with_reducible exact trapIf _ _ _ | with_reducible exact trapM _ _ | with_reducible exact getCore | with_reducible exact getCtx | with_reducible exact getJob
      | with_reducible apply forM' | with_reducible apply bind | with_reducible intro _ | dsimp only | split

/-- The issue checks of the copy engine. -/
theorem checkRecords (d : Option (BitVec 512 × List Nat)) (srcs : List (BitVec 512)) (ss : List (Int × Nat)) : OnlyChecks (Machine.checkRecords d srcs ss) := by
  unfold Machine.checkRecords
  repeat'
    first
      | with_reducible exact pure _ | with_reducible exact trapIf _ _ _ | with_reducible exact trapM _ _ | with_reducible exact getCore | with_reducible exact getCtx | with_reducible exact getJob | with_reducible exact checkSpaces _ | with_reducible exact checkExtent _ _ | with_reducible exact checkXsRanges _ | with_reducible exact checkAligned _ | with_reducible exact checkWrites _ _
      | with_reducible apply forM' | with_reducible apply bind | with_reducible intro _ | dsimp only | split

theorem rangeEntry : OnlyChecks Machine.rangeEntry := by
  unfold Machine.rangeEntry
  repeat'
    first
      | with_reducible exact pure _ | with_reducible exact waitIf _ _ | with_reducible exact getS
      | with_reducible exact getCore | with_reducible apply bind | with_reducible intro _ | dsimp only

/-- A data command's claim to a range-table entry. -/
theorem startRange (r : BitVec 512) (x : Cmd) : OnlyChecks (Machine.startRange r x) := by
  unfold Machine.startRange
  refine bind getCore fun _ => ?_
  split
  · exact rangeEntry
  · exact pure _

/-- The room of an open group for what a command will stage. -/
theorem groupRoom (d : BitVec 512) (ps : List Nat) : OnlyChecks (Machine.groupRoom d ps) := by
  unfold Machine.groupRoom
  refine bind getCore fun _ => ?_
  split
  · exact bind getS fun _ => trapIf _ _ _
  · exact pure _

theorem checkCount (d a : BitVec 512) : OnlyChecks (Machine.checkCount d a) := by
  unfold Machine.checkCount
  repeat'
    first
      | with_reducible exact pure _ | with_reducible exact trapIf _ _ _ | with_reducible exact trapM _ _ | with_reducible exact getCore | with_reducible exact getCtx | with_reducible exact getJob
      | with_reducible apply forM' | with_reducible apply bind | with_reducible intro _ | dsimp only | split

theorem copyIssue (d a : BitVec 512) : OnlyChecks (Machine.copyIssue d a) := by
  unfold Machine.copyIssue
  repeat'
    first
      | with_reducible exact pure _ | with_reducible exact trapIf _ _ _ | with_reducible exact trapM _ _ | with_reducible exact getCore | with_reducible exact getCtx | with_reducible exact getJob | with_reducible exact checkRecords _ _ _ | with_reducible exact checkCount _ _ | with_reducible exact checkImage _
      | with_reducible apply forM' | with_reducible apply bind | with_reducible intro _ | dsimp only | split

theorem indexedIssue (d a m : BitVec 512) (n : Nat) : OnlyChecks (Machine.indexedIssue d a m n) := by
  unfold Machine.indexedIssue
  repeat'
    first
      | with_reducible exact pure _ | with_reducible exact trapIf _ _ _ | with_reducible exact trapM _ _ | with_reducible exact getCore | with_reducible exact getCtx | with_reducible exact getJob | with_reducible exact checkRecords _ _ _ | with_reducible exact checkCount _ _ | with_reducible exact checkImage _
      | with_reducible apply forM' | with_reducible apply bind | with_reducible intro _ | dsimp only | split

theorem planeIssue (d : DWord) (a : BitVec 512) : OnlyChecks (Machine.planeIssue d a) := by
  unfold Machine.planeIssue
  repeat'
    first
      | with_reducible exact pure _ | with_reducible exact trapIf _ _ _ | with_reducible exact trapM _ _ | with_reducible exact getCore | with_reducible exact getCtx | with_reducible exact getJob | with_reducible exact checkRecords _ _ _ | with_reducible exact checkCount _ _ | with_reducible exact checkImage _
      | with_reducible apply forM' | with_reducible apply bind | with_reducible intro _ | dsimp only | split

/-- The checks of a posting word on its descriptor. -/
theorem checkPost (a : Nat) (d : BitVec 512) (red : Bool) : OnlyChecks (Machine.checkPost a d red) := by
  unfold Machine.checkPost
  repeat'
    first
      | with_reducible exact pure _ | with_reducible exact trapIf _ _ _ | with_reducible exact getS
      | with_reducible exact getCtx | with_reducible apply bind | with_reducible intro _ | dsimp only

/-- The checks of `cstash` at issue. -/
theorem stashIssue (r : BitVec 512) : OnlyChecks (Machine.stashIssue r) := by
  unfold Machine.stashIssue
  repeat'
    first
      | with_reducible exact pure _ | with_reducible exact trapIf _ _ _ | with_reducible exact trapM _ _
      | with_reducible exact getCore | with_reducible exact checkExtent _ _ | with_reducible exact checkAligned _
      | with_reducible apply bind | with_reducible intro _ | dsimp only | split

end OnlyChecks

end Sys2Proof.Machine
end

