-- ==== Sys2Proof/Laws/Run.lean ====
section
/-! SUPPORT. Laws/Run.lean: the steps of a meaning taken apart, and everything a word's runner can answer. -/

namespace Sys2Proof.Machine

/-- A sequence of two steps that completes. -/
theorem M.bind_ok {α β : Type} {m : M α} {f : α → M β} {s : State} {r : β × State} :
    (m >>= f) s = .ok r ↔ ∃ v u, m s = .ok (v, u) ∧ f v u = .ok r := by
  simp only [bind, StateT.bind, Except.bind]
  rcases m s with e | ⟨v, u⟩
  · simp
  · exact ⟨fun h => ⟨v, u, rfl, h⟩, fun ⟨_, _, e, h⟩ => by cases e; exact h⟩

/-- A sequence of two steps that stops. -/
theorem M.bind_error {α β : Type} {m : M α} {f : α → M β} {s : State} {x : Stop × DWord} :
    (m >>= f) s = .error x ↔ m s = .error x ∨ ∃ v u, m s = .ok (v, u) ∧ f v u = .error x := by
  simp only [bind, StateT.bind, Except.bind]
  rcases m s with e | ⟨v, u⟩
  · simp
  · exact ⟨fun h => .inr ⟨v, u, rfl, h⟩, fun h => h.elim nofun fun ⟨_, _, e, h⟩ => by cases e; exact h⟩

@[simp] theorem getS_apply (s : State) : getS s = .ok (s, s) := rfl
@[simp] theorem modS_apply (f : State → State) (s : State) : modS f s = .ok ((), f s) := rfl
@[simp] theorem getCore_apply (s : State) : getCore s = .ok (s.core, s) := rfl
@[simp] theorem modCore_apply (f : Core → Core) (s : State) : modCore f s = .ok ((), s.modCore f) := rfl
@[simp] theorem getX_apply (r : XReg) (s : State) : getX r s = .ok (s.core.rx r, s) := rfl
@[simp] theorem setX_apply (r : XReg) (v : DWord) (s : State) :
    setX r v s = .ok ((), s.modCore fun c => c.wx r v) := rfl
@[simp] theorem advance_apply (s : State) : advance s = .ok ((), s.modCore Core.advance) := rfl

/-- All an S word can answer: its whole meaning, or its stop on the state before it, with the TLB misses it has met. -/
theorem runS_cases {body : M Unit} {s : State} {o : Host.Outcome State Fault Refusal} (h : runS body s = o) :
    (∃ t, body s = .ok ((), t) ∧ o = .next t) ∨ ∃ x p, body s = .error (x, p) ∧ o = .next ((s.keepMisses x p).stopS x) := by
  unfold runS at h
  cases hb : body s with
  | error x => rw [hb] at h; exact .inr ⟨x.1, x.2, rfl, h.symm⟩
  | ok p => rw [hb] at h; exact .inl ⟨p.2, rfl, h.symm⟩

/-- An S word whose meaning completes. -/
theorem runS_ok {body : M Unit} {s t : State} (h : body s = .ok ((), t)) : runS body s = .next t := by
  simp [runS, h]

/-- An S word that stops. -/
theorem runS_error {body : M Unit} {s : State} {x : Stop} {p : DWord} (h : body s = .error (x, p)) :
    runS body s = .next ((s.keepMisses x p).stopS x) := by simp [runS, h]

/-- An engine word answers a next state. -/
theorem runEngFrom_next (e : Eng) (path : Nat) (i : Instr) (g : Guard) (pre start body : Cmd → M Cmd) (s : State) :
    ∃ t, runEngFrom e path i g pre start body s = .next t := by
  unfold runEngFrom; dsimp only; split <;> exact ⟨_, rfl⟩

end Sys2Proof.Machine
end

