-- ==== Sys2Proof/Laws/Device.lean ====
section
/-! SUPPORT. Laws/Device.lean: device writes to memory that one cached leaf maps. -/

namespace Sys2Proof.Machine

/-- A cached leaf of a RAW page outside the apertures that may be written and is dirty, and whose accesses are not
counted. -/
def PlainLeaf (e : TlbEntry) : Prop :=
  e.leaf.getLsbD 4 = true ∧ e.leaf.getLsbD 7 = true ∧ leafAperture e.leaf = false ∧ e.leaf.getLsbD 10 = false ∧
    e.leaf.getLsbD 11 = false

/-- It is the leaf of every address below a bound. -/
def MapsBelow (tlb : List TlbEntry) (id : CtxId) (e : TlbEntry) (n : Nat) : Prop :=
  n ≤ 2 ^ 57 ∧ ∀ va < n, tlb.find? (fun e => e.covers id va) = some e

theorem pieces_below {a n : Nat} {p : Nat × Nat} (h : p ∈ pieces a n) : p.1 < a + n := by
  simp only [pieces, List.mem_filterMap] at h
  obtain ⟨k, -, hk⟩ := h
  split at hk
  · cases hk; simp only; omega
  · cases hk

theorem writePieces_below {xs : List (Nat × List Byte)} {n : Nat} (h : ∀ x ∈ xs, x.1 + x.2.length ≤ n)
    {p : Nat × List Byte} (hp : p ∈ writePieces xs) : p.1 < n := by
  obtain ⟨x, hx, q, hq, rfl⟩ : ∃ x ∈ xs, ∃ q ∈ pieces x.1 x.2.length, (q.1, (x.2.drop (q.1 - x.1)).take q.2) = p := by
    simpa [writePieces] using hp
  exact lt_of_lt_of_le (pieces_below hq) (h x hx)

/-- Where a page is plain, every byte of a piece has its place. -/
theorem locateAll_plain {e : TlbEntry} (he : PlainLeaf e) (va n : Nat) (s : State) :
    locateAll e va n s = .ok (.plain (leafPa e.leaf + (va - e.va.toNat)), s) := by
  have one : ∀ k, locate e k true s = .ok (.plain (leafPa e.leaf + (k - e.va.toNat)), s) := fun k => by
    simp only [locate, he.2.2.1, he.2.2.2.1, Bool.false_eq_true, ↓reduceIte]
  have all : ∀ l : List Nat, forM' (fun k => do
      let _ ← locate e (va + 1 + k) true
      pure ()) l s = .ok ((), s) := by
    intro l
    induction l with
    | nil => rfl
    | cons k l ih => exact M.bind_ok.2 ⟨(), s, M.bind_ok.2 ⟨_, s, one _, rfl⟩, ih⟩
  exact M.bind_ok.2 ⟨_, s, one va, M.bind_ok.2 ⟨(), s, all _, M.bind_ok.2 ⟨(), s, rfl, rfl⟩⟩⟩

/-- The place of a piece that a device writes there. -/
theorem deviceTarget_plain {id : CtxId} {e : TlbEntry} (he : PlainLeaf e) {n : Nat} {p : Nat × List Byte}
    (hv : p.1 < n) {s : State} (hm : MapsBelow s.tlb id e n) :
    deviceTarget id p s = .ok ((p, e, .plain (leafPa e.leaf + (p.1 - e.va.toNat))), s) := by
  have hg : isGlobal p.1 = true := by
    simp only [isGlobal, decide_eq_true_eq]; exact lt_of_lt_of_le hv hm.1
  have hl : s.lookup id p.1 = (s, .leaf e) := by simp only [State.lookup, hm.2 p.1 hv]
  have ht : translateFor id .store p.1 s = .ok (e, s) := by
    simp only [translateFor, hl, permFault, he.1, Access.writes, State.setDirty, he.2.1]
    rfl
  exact M.bind_ok.2 ⟨(), s, by simp [trapIf, hg]; rfl, M.bind_ok.2 ⟨e, s, ht,
    M.bind_ok.2 ⟨_, s, locateAll_plain he _ _ s, rfl⟩⟩⟩

/-- Writes of a device there change physical memory alone. -/
theorem deviceWrites_plain {id : CtxId} {e : TlbEntry} (he : PlainLeaf e) {n : Nat} {xs : List (Nat × List Byte)}
    (hv : ∀ x ∈ xs, x.1 + x.2.length ≤ n) {s : State} (hm : MapsBelow s.tlb id e n) :
    ∃ m, deviceWrites id xs s = .ok ((), { s with mem := m }) := by
  have hp : ∀ p ∈ writePieces xs, p.1 < n := fun p => writePieces_below hv
  unfold deviceWrites
  generalize writePieces xs = ps at hp
  let put := fun p : Nat × List Byte => (p, e, Loc.plain (leafPa e.leaf + (p.1 - e.va.toNat)))
  have ht : mapM' (deviceTarget id) ps s = .ok (ps.map put, s) := by
    induction ps with
    | nil => rfl
    | cons p ps ih =>
      exact M.bind_ok.2 ⟨_, s, deviceTarget_plain he (hp p (by simp)) hm,
        M.bind_ok.2 ⟨_, s, ih fun q hq => hp q (by simp [hq]), rfl⟩⟩
  have hf : ∀ (l : List (Nat × List Byte)) (t : State), ∃ m, (l.map put).foldl State.devicePut t = { t with mem := m } := by
    intro l
    induction l with
    | nil => exact fun t => ⟨t.mem, rfl⟩
    | cons p l ih =>
      intro t
      have : t.devicePut (put p) = { t with mem := (t.devicePut (put p)).mem } := by
        simp only [put, State.devicePut, State.countLines, he.2.2.2.2, Bool.false_eq_true, ↓reduceIte]; rfl
      obtain ⟨m, h⟩ := ih (t.devicePut (put p))
      exact ⟨m, by rw [List.map_cons, List.foldl_cons, h, this]⟩
  obtain ⟨m, h⟩ := hf ps s
  exact ⟨m, M.bind_ok.2 ⟨_, s, ht, by rw [modS_apply, h]⟩⟩

/-- The image of a core with a job is that job's. -/
theorem saveImage_job {i : Fin 128} {s : State} {j : Job} (hj : (s.coreAt i).job = some j) :
    saveImage i s = saveJob i j s := by
  have h : saveImage i s = (match (s.coreAt i).job with | none => pure () | some j => saveJob i j : M Unit) s := rfl
  rw [h, hj]

/-- A job's image is saved there without a stop. -/
theorem saveImage_plain {i : Fin 128} {e : TlbEntry} (he : PlainLeaf e) {n : Nat} {s : State} {j : Job}
    (hj : (s.coreAt i).job = some j) (hm : MapsBelow s.tlb j.ctx e n)
    (ha : ∀ a ∈ s.imageAreas i, s.imageBase j.ctx i + a.1 + a.2.length ≤ n)
    (hf : ∀ a ∈ freeAreas, s.imageBase j.ctx i + a.1 + a.2 ≤ n) :
    ∃ m, saveImage i s = .ok ((), State.setCoreAt { s with mem := m, fresh := s.fresh + 1 } i
      { s.coreAt i with imageKey := s.fresh }) := by
  let t : State := { s with fresh := s.fresh + 1 }
  obtain ⟨m, h⟩ := deviceWrites_plain he (n := n) (s := t)
    (xs := (s.imageAreas i ++ freeAreas.map fun a => (a.1, freeArea s.fresh a)).map fun a => (s.imageBase j.ctx i + a.1, a.2))
    (fun x hx => by
      simp only [List.mem_map, List.mem_append] at hx
      obtain ⟨a, ha' | ⟨b, hb, rfl⟩, rfl⟩ := hx
      · exact ha a ha'
      · simpa [freeArea] using hf b hb) hm
  refine ⟨m, ?_⟩
  rw [saveImage_job hj]
  exact M.bind_ok.2 ⟨s, s, rfl, M.bind_ok.2 ⟨s.fresh, t, rfl, M.bind_ok.2 ⟨(), { t with mem := m }, h, rfl⟩⟩⟩

end Sys2Proof.Machine
end

