-- ==== Sys2Proof/Laws/State.lean ====
section
/-! SUPPORT. Laws/State.lean: what each named update of the state, of a core or of a context leaves alone, one lemma a
field. -/

namespace Sys2Proof.Machine

/-! ## The executing core changed -/

@[simp] theorem State.setCore_cur (s : State) (c : Core) : (s.setCore c).cur = s.cur := rfl
@[simp] theorem State.setCore_skip (s : State) (c : Core) : (s.setCore c).skip = s.skip := rfl
@[simp] theorem State.setCore_words (s : State) (c : Core) : (s.setCore c).words = s.words := rfl
@[simp] theorem State.setCore_agenda (s : State) (c : Core) : (s.setCore c).agenda = s.agenda := rfl
@[simp] theorem State.setCore_turn (s : State) (c : Core) : (s.setCore c).turn = s.turn := rfl
@[simp] theorem State.setCore_fresh (s : State) (c : Core) : (s.setCore c).fresh = s.fresh := rfl
@[simp] theorem State.setCore_phase (s : State) (c : Core) : (s.setCore c).phase = s.phase := rfl
@[simp] theorem State.setCore_phaseFailed (s : State) (c : Core) : (s.setCore c).phaseFailed = s.phaseFailed := rfl
@[simp] theorem State.setCore_frozen (s : State) (c : Core) : (s.setCore c).frozen = s.frozen := rfl
@[simp] theorem State.setCore_flash (s : State) (c : Core) : (s.setCore c).flash = s.flash := rfl
@[simp] theorem State.setCore_regs (s : State) (c : Core) : (s.setCore c).regs = s.regs := rfl
@[simp] theorem State.setCore_mailbox (s : State) (c : Core) : (s.setCore c).mailbox = s.mailbox := rfl
@[simp] theorem State.setCore_mem (s : State) (c : Core) : (s.setCore c).mem = s.mem := rfl
@[simp] theorem State.setCore_tags (s : State) (c : Core) : (s.setCore c).tags = s.tags := rfl
@[simp] theorem State.setCore_ctxs (s : State) (c : Core) : (s.setCore c).ctxs = s.ctxs := rfl
@[simp] theorem State.setCore_groups (s : State) (c : Core) : (s.setCore c).groups = s.groups := rfl
@[simp] theorem State.setCore_pool (s : State) (c : Core) : (s.setCore c).pool = s.pool := rfl
@[simp] theorem State.setCore_readyCount (s : State) (c : Core) : (s.setCore c).readyCount = s.readyCount := rfl
@[simp] theorem State.setCore_selectCount (s : State) (c : Core) : (s.setCore c).selectCount = s.selectCount := rfl
@[simp] theorem State.setCore_spillTurn (s : State) (c : Core) : (s.setCore c).spillTurn = s.spillTurn := rfl
@[simp] theorem State.setCore_tlb (s : State) (c : Core) : (s.setCore c).tlb = s.tlb := rfl
@[simp] theorem State.setCore_tables (s : State) (c : Core) : (s.setCore c).tables = s.tables := rfl
@[simp] theorem State.setCore_access (s : State) (c : Core) : (s.setCore c).access = s.access := rfl
@[simp] theorem State.setCore_access1 (s : State) (c : Core) : (s.setCore c).access1 = s.access1 := rfl
@[simp] theorem State.setCore_ranges (s : State) (c : Core) : (s.setCore c).ranges = s.ranges := rfl
@[simp] theorem State.setCore_moves (s : State) (c : Core) : (s.setCore c).moves = s.moves := rfl
@[simp] theorem State.setCore_sumpGroups (s : State) (c : Core) : (s.setCore c).sumpGroups = s.sumpGroups := rfl
@[simp] theorem State.setCore_returned (s : State) (c : Core) : (s.setCore c).returned = s.returned := rfl
@[simp] theorem State.setCore_hints (s : State) (c : Core) : (s.setCore c).hints = s.hints := rfl
@[simp] theorem State.setCore_demoting (s : State) (c : Core) : (s.setCore c).demoting = s.demoting := rfl
@[simp] theorem State.setCore_apertures (s : State) (c : Core) : (s.setCore c).apertures = s.apertures := rfl
@[simp] theorem State.setCore_faults (s : State) (c : Core) : (s.setCore c).faults = s.faults := rfl
@[simp] theorem State.setCore_paths (s : State) (c : Core) : (s.setCore c).paths = s.paths := rfl
@[simp] theorem State.setCore_leases (s : State) (c : Core) : (s.setCore c).leases = s.leases := rfl
@[simp] theorem State.setCore_signals (s : State) (c : Core) : (s.setCore c).signals = s.signals := rfl
@[simp] theorem State.setCore_decrements (s : State) (c : Core) : (s.setCore c).decrements = s.decrements := rfl
@[simp] theorem State.setCore_ports (s : State) (c : Core) : (s.setCore c).ports = s.ports := rfl
@[simp] theorem State.setCore_chans (s : State) (c : Core) : (s.setCore c).chans = s.chans := rfl
@[simp] theorem State.setCore_counters (s : State) (c : Core) : (s.setCore c).counters = s.counters := rfl
@[simp] theorem State.setCore_qps (s : State) (c : Core) : (s.setCore c).qps = s.qps := rfl
@[simp] theorem State.setCore_redsteps (s : State) (c : Core) : (s.setCore c).redsteps = s.redsteps := rfl
@[simp] theorem State.setCore_weir (s : State) (c : Core) : (s.setCore c).weir = s.weir := rfl
@[simp] theorem State.setCore_grotto (s : State) (c : Core) : (s.setCore c).grotto = s.grotto := rfl
@[simp] theorem State.setCore_outbox (s : State) (c : Core) : (s.setCore c).outbox = s.outbox := rfl
@[simp] theorem State.setCore_attest (s : State) (c : Core) : (s.setCore c).attest = s.attest := rfl

/-! ## A core changed by its index -/

@[simp] theorem State.setCoreAt_cur (s : State) (i : Fin 128) (c : Core) : (s.setCoreAt i c).cur = s.cur := rfl
@[simp] theorem State.setCoreAt_skip (s : State) (i : Fin 128) (c : Core) : (s.setCoreAt i c).skip = s.skip := rfl
@[simp] theorem State.setCoreAt_words (s : State) (i : Fin 128) (c : Core) : (s.setCoreAt i c).words = s.words := rfl
@[simp] theorem State.setCoreAt_agenda (s : State) (i : Fin 128) (c : Core) :
    (s.setCoreAt i c).agenda = s.agenda := rfl
@[simp] theorem State.setCoreAt_turn (s : State) (i : Fin 128) (c : Core) : (s.setCoreAt i c).turn = s.turn := rfl
@[simp] theorem State.setCoreAt_fresh (s : State) (i : Fin 128) (c : Core) : (s.setCoreAt i c).fresh = s.fresh := rfl
@[simp] theorem State.setCoreAt_phase (s : State) (i : Fin 128) (c : Core) : (s.setCoreAt i c).phase = s.phase := rfl
@[simp] theorem State.setCoreAt_phaseFailed (s : State) (i : Fin 128) (c : Core) :
    (s.setCoreAt i c).phaseFailed = s.phaseFailed := rfl
@[simp] theorem State.setCoreAt_frozen (s : State) (i : Fin 128) (c : Core) :
    (s.setCoreAt i c).frozen = s.frozen := rfl
@[simp] theorem State.setCoreAt_flash (s : State) (i : Fin 128) (c : Core) : (s.setCoreAt i c).flash = s.flash := rfl
@[simp] theorem State.setCoreAt_regs (s : State) (i : Fin 128) (c : Core) : (s.setCoreAt i c).regs = s.regs := rfl
@[simp] theorem State.setCoreAt_mailbox (s : State) (i : Fin 128) (c : Core) :
    (s.setCoreAt i c).mailbox = s.mailbox := rfl
@[simp] theorem State.setCoreAt_mem (s : State) (i : Fin 128) (c : Core) : (s.setCoreAt i c).mem = s.mem := rfl
@[simp] theorem State.setCoreAt_tags (s : State) (i : Fin 128) (c : Core) : (s.setCoreAt i c).tags = s.tags := rfl
@[simp] theorem State.setCoreAt_ctxs (s : State) (i : Fin 128) (c : Core) : (s.setCoreAt i c).ctxs = s.ctxs := rfl
@[simp] theorem State.setCoreAt_groups (s : State) (i : Fin 128) (c : Core) :
    (s.setCoreAt i c).groups = s.groups := rfl
@[simp] theorem State.setCoreAt_pool (s : State) (i : Fin 128) (c : Core) : (s.setCoreAt i c).pool = s.pool := rfl
@[simp] theorem State.setCoreAt_readyCount (s : State) (i : Fin 128) (c : Core) :
    (s.setCoreAt i c).readyCount = s.readyCount := rfl
@[simp] theorem State.setCoreAt_selectCount (s : State) (i : Fin 128) (c : Core) :
    (s.setCoreAt i c).selectCount = s.selectCount := rfl
@[simp] theorem State.setCoreAt_spillTurn (s : State) (i : Fin 128) (c : Core) :
    (s.setCoreAt i c).spillTurn = s.spillTurn := rfl
@[simp] theorem State.setCoreAt_tlb (s : State) (i : Fin 128) (c : Core) : (s.setCoreAt i c).tlb = s.tlb := rfl
@[simp] theorem State.setCoreAt_tables (s : State) (i : Fin 128) (c : Core) :
    (s.setCoreAt i c).tables = s.tables := rfl
@[simp] theorem State.setCoreAt_access (s : State) (i : Fin 128) (c : Core) :
    (s.setCoreAt i c).access = s.access := rfl
@[simp] theorem State.setCoreAt_access1 (s : State) (i : Fin 128) (c : Core) :
    (s.setCoreAt i c).access1 = s.access1 := rfl
@[simp] theorem State.setCoreAt_ranges (s : State) (i : Fin 128) (c : Core) :
    (s.setCoreAt i c).ranges = s.ranges := rfl
@[simp] theorem State.setCoreAt_moves (s : State) (i : Fin 128) (c : Core) : (s.setCoreAt i c).moves = s.moves := rfl
@[simp] theorem State.setCoreAt_sumpGroups (s : State) (i : Fin 128) (c : Core) :
    (s.setCoreAt i c).sumpGroups = s.sumpGroups := rfl
@[simp] theorem State.setCoreAt_returned (s : State) (i : Fin 128) (c : Core) :
    (s.setCoreAt i c).returned = s.returned := rfl
@[simp] theorem State.setCoreAt_hints (s : State) (i : Fin 128) (c : Core) : (s.setCoreAt i c).hints = s.hints := rfl
@[simp] theorem State.setCoreAt_demoting (s : State) (i : Fin 128) (c : Core) :
    (s.setCoreAt i c).demoting = s.demoting := rfl
@[simp] theorem State.setCoreAt_apertures (s : State) (i : Fin 128) (c : Core) :
    (s.setCoreAt i c).apertures = s.apertures := rfl
@[simp] theorem State.setCoreAt_faults (s : State) (i : Fin 128) (c : Core) :
    (s.setCoreAt i c).faults = s.faults := rfl
@[simp] theorem State.setCoreAt_paths (s : State) (i : Fin 128) (c : Core) : (s.setCoreAt i c).paths = s.paths := rfl
@[simp] theorem State.setCoreAt_leases (s : State) (i : Fin 128) (c : Core) :
    (s.setCoreAt i c).leases = s.leases := rfl
@[simp] theorem State.setCoreAt_signals (s : State) (i : Fin 128) (c : Core) :
    (s.setCoreAt i c).signals = s.signals := rfl
@[simp] theorem State.setCoreAt_decrements (s : State) (i : Fin 128) (c : Core) :
    (s.setCoreAt i c).decrements = s.decrements := rfl
@[simp] theorem State.setCoreAt_ports (s : State) (i : Fin 128) (c : Core) : (s.setCoreAt i c).ports = s.ports := rfl
@[simp] theorem State.setCoreAt_chans (s : State) (i : Fin 128) (c : Core) : (s.setCoreAt i c).chans = s.chans := rfl
@[simp] theorem State.setCoreAt_counters (s : State) (i : Fin 128) (c : Core) :
    (s.setCoreAt i c).counters = s.counters := rfl
@[simp] theorem State.setCoreAt_qps (s : State) (i : Fin 128) (c : Core) : (s.setCoreAt i c).qps = s.qps := rfl
@[simp] theorem State.setCoreAt_redsteps (s : State) (i : Fin 128) (c : Core) :
    (s.setCoreAt i c).redsteps = s.redsteps := rfl
@[simp] theorem State.setCoreAt_weir (s : State) (i : Fin 128) (c : Core) : (s.setCoreAt i c).weir = s.weir := rfl
@[simp] theorem State.setCoreAt_grotto (s : State) (i : Fin 128) (c : Core) :
    (s.setCoreAt i c).grotto = s.grotto := rfl
@[simp] theorem State.setCoreAt_outbox (s : State) (i : Fin 128) (c : Core) :
    (s.setCoreAt i c).outbox = s.outbox := rfl
@[simp] theorem State.setCoreAt_attest (s : State) (i : Fin 128) (c : Core) :
    (s.setCoreAt i c).attest = s.attest := rfl

/-! ## The executing core changed by a function -/

@[simp] theorem State.modCore_cur (s : State) (g : Core → Core) : (s.modCore g).cur = s.cur := rfl
@[simp] theorem State.modCore_skip (s : State) (g : Core → Core) : (s.modCore g).skip = s.skip := rfl
@[simp] theorem State.modCore_words (s : State) (g : Core → Core) : (s.modCore g).words = s.words := rfl
@[simp] theorem State.modCore_agenda (s : State) (g : Core → Core) : (s.modCore g).agenda = s.agenda := rfl
@[simp] theorem State.modCore_turn (s : State) (g : Core → Core) : (s.modCore g).turn = s.turn := rfl
@[simp] theorem State.modCore_fresh (s : State) (g : Core → Core) : (s.modCore g).fresh = s.fresh := rfl
@[simp] theorem State.modCore_phase (s : State) (g : Core → Core) : (s.modCore g).phase = s.phase := rfl
@[simp] theorem State.modCore_phaseFailed (s : State) (g : Core → Core) :
    (s.modCore g).phaseFailed = s.phaseFailed := rfl
@[simp] theorem State.modCore_frozen (s : State) (g : Core → Core) : (s.modCore g).frozen = s.frozen := rfl
@[simp] theorem State.modCore_flash (s : State) (g : Core → Core) : (s.modCore g).flash = s.flash := rfl
@[simp] theorem State.modCore_regs (s : State) (g : Core → Core) : (s.modCore g).regs = s.regs := rfl
@[simp] theorem State.modCore_mailbox (s : State) (g : Core → Core) : (s.modCore g).mailbox = s.mailbox := rfl
@[simp] theorem State.modCore_mem (s : State) (g : Core → Core) : (s.modCore g).mem = s.mem := rfl
@[simp] theorem State.modCore_tags (s : State) (g : Core → Core) : (s.modCore g).tags = s.tags := rfl
@[simp] theorem State.modCore_ctxs (s : State) (g : Core → Core) : (s.modCore g).ctxs = s.ctxs := rfl
@[simp] theorem State.modCore_groups (s : State) (g : Core → Core) : (s.modCore g).groups = s.groups := rfl
@[simp] theorem State.modCore_pool (s : State) (g : Core → Core) : (s.modCore g).pool = s.pool := rfl
@[simp] theorem State.modCore_readyCount (s : State) (g : Core → Core) :
    (s.modCore g).readyCount = s.readyCount := rfl
@[simp] theorem State.modCore_selectCount (s : State) (g : Core → Core) :
    (s.modCore g).selectCount = s.selectCount := rfl
@[simp] theorem State.modCore_spillTurn (s : State) (g : Core → Core) : (s.modCore g).spillTurn = s.spillTurn := rfl
@[simp] theorem State.modCore_tlb (s : State) (g : Core → Core) : (s.modCore g).tlb = s.tlb := rfl
@[simp] theorem State.modCore_tables (s : State) (g : Core → Core) : (s.modCore g).tables = s.tables := rfl
@[simp] theorem State.modCore_access (s : State) (g : Core → Core) : (s.modCore g).access = s.access := rfl
@[simp] theorem State.modCore_access1 (s : State) (g : Core → Core) : (s.modCore g).access1 = s.access1 := rfl
@[simp] theorem State.modCore_ranges (s : State) (g : Core → Core) : (s.modCore g).ranges = s.ranges := rfl
@[simp] theorem State.modCore_moves (s : State) (g : Core → Core) : (s.modCore g).moves = s.moves := rfl
@[simp] theorem State.modCore_sumpGroups (s : State) (g : Core → Core) :
    (s.modCore g).sumpGroups = s.sumpGroups := rfl
@[simp] theorem State.modCore_returned (s : State) (g : Core → Core) : (s.modCore g).returned = s.returned := rfl
@[simp] theorem State.modCore_hints (s : State) (g : Core → Core) : (s.modCore g).hints = s.hints := rfl
@[simp] theorem State.modCore_demoting (s : State) (g : Core → Core) : (s.modCore g).demoting = s.demoting := rfl
@[simp] theorem State.modCore_apertures (s : State) (g : Core → Core) : (s.modCore g).apertures = s.apertures := rfl
@[simp] theorem State.modCore_faults (s : State) (g : Core → Core) : (s.modCore g).faults = s.faults := rfl
@[simp] theorem State.modCore_paths (s : State) (g : Core → Core) : (s.modCore g).paths = s.paths := rfl
@[simp] theorem State.modCore_leases (s : State) (g : Core → Core) : (s.modCore g).leases = s.leases := rfl
@[simp] theorem State.modCore_signals (s : State) (g : Core → Core) : (s.modCore g).signals = s.signals := rfl
@[simp] theorem State.modCore_decrements (s : State) (g : Core → Core) :
    (s.modCore g).decrements = s.decrements := rfl
@[simp] theorem State.modCore_ports (s : State) (g : Core → Core) : (s.modCore g).ports = s.ports := rfl
@[simp] theorem State.modCore_chans (s : State) (g : Core → Core) : (s.modCore g).chans = s.chans := rfl
@[simp] theorem State.modCore_counters (s : State) (g : Core → Core) : (s.modCore g).counters = s.counters := rfl
@[simp] theorem State.modCore_qps (s : State) (g : Core → Core) : (s.modCore g).qps = s.qps := rfl
@[simp] theorem State.modCore_redsteps (s : State) (g : Core → Core) : (s.modCore g).redsteps = s.redsteps := rfl
@[simp] theorem State.modCore_weir (s : State) (g : Core → Core) : (s.modCore g).weir = s.weir := rfl
@[simp] theorem State.modCore_grotto (s : State) (g : Core → Core) : (s.modCore g).grotto = s.grotto := rfl
@[simp] theorem State.modCore_outbox (s : State) (g : Core → Core) : (s.modCore g).outbox = s.outbox := rfl
@[simp] theorem State.modCore_attest (s : State) (g : Core → Core) : (s.modCore g).attest = s.attest := rfl

/-! ## A context changed -/

@[simp] theorem State.modCtx_cores (s : State) (id : CtxId) (g : Context → Context) :
    (s.modCtx id g).cores = s.cores := by
  unfold State.modCtx; split <;> rfl
@[simp] theorem State.modCtx_cur (s : State) (id : CtxId) (g : Context → Context) :
    (s.modCtx id g).cur = s.cur := by
  unfold State.modCtx; split <;> rfl
@[simp] theorem State.modCtx_skip (s : State) (id : CtxId) (g : Context → Context) :
    (s.modCtx id g).skip = s.skip := by
  unfold State.modCtx; split <;> rfl
@[simp] theorem State.modCtx_words (s : State) (id : CtxId) (g : Context → Context) :
    (s.modCtx id g).words = s.words := by
  unfold State.modCtx; split <;> rfl
@[simp] theorem State.modCtx_agenda (s : State) (id : CtxId) (g : Context → Context) :
    (s.modCtx id g).agenda = s.agenda := by
  unfold State.modCtx; split <;> rfl
@[simp] theorem State.modCtx_turn (s : State) (id : CtxId) (g : Context → Context) :
    (s.modCtx id g).turn = s.turn := by
  unfold State.modCtx; split <;> rfl
@[simp] theorem State.modCtx_fresh (s : State) (id : CtxId) (g : Context → Context) :
    (s.modCtx id g).fresh = s.fresh := by
  unfold State.modCtx; split <;> rfl
@[simp] theorem State.modCtx_phase (s : State) (id : CtxId) (g : Context → Context) :
    (s.modCtx id g).phase = s.phase := by
  unfold State.modCtx; split <;> rfl
@[simp] theorem State.modCtx_phaseFailed (s : State) (id : CtxId) (g : Context → Context) :
    (s.modCtx id g).phaseFailed = s.phaseFailed := by
  unfold State.modCtx; split <;> rfl
@[simp] theorem State.modCtx_frozen (s : State) (id : CtxId) (g : Context → Context) :
    (s.modCtx id g).frozen = s.frozen := by
  unfold State.modCtx; split <;> rfl
@[simp] theorem State.modCtx_flash (s : State) (id : CtxId) (g : Context → Context) :
    (s.modCtx id g).flash = s.flash := by
  unfold State.modCtx; split <;> rfl
@[simp] theorem State.modCtx_regs (s : State) (id : CtxId) (g : Context → Context) :
    (s.modCtx id g).regs = s.regs := by
  unfold State.modCtx; split <;> rfl
@[simp] theorem State.modCtx_mailbox (s : State) (id : CtxId) (g : Context → Context) :
    (s.modCtx id g).mailbox = s.mailbox := by
  unfold State.modCtx; split <;> rfl
@[simp] theorem State.modCtx_mem (s : State) (id : CtxId) (g : Context → Context) :
    (s.modCtx id g).mem = s.mem := by
  unfold State.modCtx; split <;> rfl
@[simp] theorem State.modCtx_tags (s : State) (id : CtxId) (g : Context → Context) :
    (s.modCtx id g).tags = s.tags := by
  unfold State.modCtx; split <;> rfl
@[simp] theorem State.modCtx_groups (s : State) (id : CtxId) (g : Context → Context) :
    (s.modCtx id g).groups = s.groups := by
  unfold State.modCtx; split <;> rfl
@[simp] theorem State.modCtx_pool (s : State) (id : CtxId) (g : Context → Context) :
    (s.modCtx id g).pool = s.pool := by
  unfold State.modCtx; split <;> rfl
@[simp] theorem State.modCtx_readyCount (s : State) (id : CtxId) (g : Context → Context) :
    (s.modCtx id g).readyCount = s.readyCount := by
  unfold State.modCtx; split <;> rfl
@[simp] theorem State.modCtx_selectCount (s : State) (id : CtxId) (g : Context → Context) :
    (s.modCtx id g).selectCount = s.selectCount := by
  unfold State.modCtx; split <;> rfl
@[simp] theorem State.modCtx_spillTurn (s : State) (id : CtxId) (g : Context → Context) :
    (s.modCtx id g).spillTurn = s.spillTurn := by
  unfold State.modCtx; split <;> rfl
@[simp] theorem State.modCtx_tlb (s : State) (id : CtxId) (g : Context → Context) :
    (s.modCtx id g).tlb = s.tlb := by
  unfold State.modCtx; split <;> rfl
@[simp] theorem State.modCtx_tables (s : State) (id : CtxId) (g : Context → Context) :
    (s.modCtx id g).tables = s.tables := by
  unfold State.modCtx; split <;> rfl
@[simp] theorem State.modCtx_access (s : State) (id : CtxId) (g : Context → Context) :
    (s.modCtx id g).access = s.access := by
  unfold State.modCtx; split <;> rfl
@[simp] theorem State.modCtx_access1 (s : State) (id : CtxId) (g : Context → Context) :
    (s.modCtx id g).access1 = s.access1 := by
  unfold State.modCtx; split <;> rfl
@[simp] theorem State.modCtx_ranges (s : State) (id : CtxId) (g : Context → Context) :
    (s.modCtx id g).ranges = s.ranges := by
  unfold State.modCtx; split <;> rfl
@[simp] theorem State.modCtx_moves (s : State) (id : CtxId) (g : Context → Context) :
    (s.modCtx id g).moves = s.moves := by
  unfold State.modCtx; split <;> rfl
@[simp] theorem State.modCtx_sumpGroups (s : State) (id : CtxId) (g : Context → Context) :
    (s.modCtx id g).sumpGroups = s.sumpGroups := by
  unfold State.modCtx; split <;> rfl
@[simp] theorem State.modCtx_returned (s : State) (id : CtxId) (g : Context → Context) :
    (s.modCtx id g).returned = s.returned := by
  unfold State.modCtx; split <;> rfl
@[simp] theorem State.modCtx_hints (s : State) (id : CtxId) (g : Context → Context) :
    (s.modCtx id g).hints = s.hints := by
  unfold State.modCtx; split <;> rfl
@[simp] theorem State.modCtx_demoting (s : State) (id : CtxId) (g : Context → Context) :
    (s.modCtx id g).demoting = s.demoting := by
  unfold State.modCtx; split <;> rfl
@[simp] theorem State.modCtx_apertures (s : State) (id : CtxId) (g : Context → Context) :
    (s.modCtx id g).apertures = s.apertures := by
  unfold State.modCtx; split <;> rfl
@[simp] theorem State.modCtx_faults (s : State) (id : CtxId) (g : Context → Context) :
    (s.modCtx id g).faults = s.faults := by
  unfold State.modCtx; split <;> rfl
@[simp] theorem State.modCtx_paths (s : State) (id : CtxId) (g : Context → Context) :
    (s.modCtx id g).paths = s.paths := by
  unfold State.modCtx; split <;> rfl
@[simp] theorem State.modCtx_leases (s : State) (id : CtxId) (g : Context → Context) :
    (s.modCtx id g).leases = s.leases := by
  unfold State.modCtx; split <;> rfl
@[simp] theorem State.modCtx_signals (s : State) (id : CtxId) (g : Context → Context) :
    (s.modCtx id g).signals = s.signals := by
  unfold State.modCtx; split <;> rfl
@[simp] theorem State.modCtx_decrements (s : State) (id : CtxId) (g : Context → Context) :
    (s.modCtx id g).decrements = s.decrements := by
  unfold State.modCtx; split <;> rfl
@[simp] theorem State.modCtx_ports (s : State) (id : CtxId) (g : Context → Context) :
    (s.modCtx id g).ports = s.ports := by
  unfold State.modCtx; split <;> rfl
@[simp] theorem State.modCtx_chans (s : State) (id : CtxId) (g : Context → Context) :
    (s.modCtx id g).chans = s.chans := by
  unfold State.modCtx; split <;> rfl
@[simp] theorem State.modCtx_counters (s : State) (id : CtxId) (g : Context → Context) :
    (s.modCtx id g).counters = s.counters := by
  unfold State.modCtx; split <;> rfl
@[simp] theorem State.modCtx_qps (s : State) (id : CtxId) (g : Context → Context) :
    (s.modCtx id g).qps = s.qps := by
  unfold State.modCtx; split <;> rfl
@[simp] theorem State.modCtx_redsteps (s : State) (id : CtxId) (g : Context → Context) :
    (s.modCtx id g).redsteps = s.redsteps := by
  unfold State.modCtx; split <;> rfl
@[simp] theorem State.modCtx_weir (s : State) (id : CtxId) (g : Context → Context) :
    (s.modCtx id g).weir = s.weir := by
  unfold State.modCtx; split <;> rfl
@[simp] theorem State.modCtx_grotto (s : State) (id : CtxId) (g : Context → Context) :
    (s.modCtx id g).grotto = s.grotto := by
  unfold State.modCtx; split <;> rfl
@[simp] theorem State.modCtx_outbox (s : State) (id : CtxId) (g : Context → Context) :
    (s.modCtx id g).outbox = s.outbox := by
  unfold State.modCtx; split <;> rfl
@[simp] theorem State.modCtx_attest (s : State) (id : CtxId) (g : Context → Context) :
    (s.modCtx id g).attest = s.attest := by
  unfold State.modCtx; split <;> rfl

/-! ## The S word completed -/

@[simp] theorem Core.advance_job (c : Core) : c.advance.job = c.job := rfl
@[simp] theorem Core.goto_job (c : Core) (t : DWord) : (c.goto t).job = c.job := rfl
@[simp] theorem Core.jump_job (c : Core) (t : DWord) : (c.jump t).job = c.job := rfl
@[simp] theorem Core.advance_x (c : Core) : c.advance.x = c.x := rfl
@[simp] theorem Core.goto_x (c : Core) (t : DWord) : (c.goto t).x = c.x := rfl
@[simp] theorem Core.jump_x (c : Core) (t : DWord) : (c.jump t).x = c.x := rfl
@[simp] theorem Core.advance_iseq (c : Core) : c.advance.iseq = c.iseq := rfl
@[simp] theorem Core.goto_iseq (c : Core) (t : DWord) : (c.goto t).iseq = c.iseq := rfl
@[simp] theorem Core.jump_iseq (c : Core) (t : DWord) : (c.jump t).iseq = c.iseq := rfl
@[simp] theorem Core.advance_seq (c : Core) : c.advance.seq = c.seq := rfl
@[simp] theorem Core.goto_seq (c : Core) (t : DWord) : (c.goto t).seq = c.seq := rfl
@[simp] theorem Core.jump_seq (c : Core) (t : DWord) : (c.jump t).seq = c.seq := rfl
@[simp] theorem Core.advance_drainAt (c : Core) : c.advance.drainAt = c.drainAt := rfl
@[simp] theorem Core.goto_drainAt (c : Core) (t : DWord) : (c.goto t).drainAt = c.drainAt := rfl
@[simp] theorem Core.jump_drainAt (c : Core) (t : DWord) : (c.jump t).drainAt = c.drainAt := rfl
@[simp] theorem Core.advance_stopHead (c : Core) : c.advance.stopHead = c.stopHead := rfl
@[simp] theorem Core.goto_stopHead (c : Core) (t : DWord) : (c.goto t).stopHead = c.stopHead := rfl
@[simp] theorem Core.jump_stopHead (c : Core) (t : DWord) : (c.jump t).stopHead = c.stopHead := rfl
@[simp] theorem Core.advance_vq (c : Core) : c.advance.vq = c.vq := rfl
@[simp] theorem Core.goto_vq (c : Core) (t : DWord) : (c.goto t).vq = c.vq := rfl
@[simp] theorem Core.jump_vq (c : Core) (t : DWord) : (c.jump t).vq = c.vq := rfl
@[simp] theorem Core.advance_mq (c : Core) : c.advance.mq = c.mq := rfl
@[simp] theorem Core.goto_mq (c : Core) (t : DWord) : (c.goto t).mq = c.mq := rfl
@[simp] theorem Core.jump_mq (c : Core) (t : DWord) : (c.jump t).mq = c.mq := rfl
@[simp] theorem Core.advance_cq (c : Core) : c.advance.cq = c.cq := rfl
@[simp] theorem Core.goto_cq (c : Core) (t : DWord) : (c.goto t).cq = c.cq := rfl
@[simp] theorem Core.jump_cq (c : Core) (t : DWord) : (c.jump t).cq = c.cq := rfl
@[simp] theorem Core.advance_q (c : Core) : c.advance.q = c.q := rfl
@[simp] theorem Core.goto_q (c : Core) (t : DWord) : (c.goto t).q = c.q := rfl
@[simp] theorem Core.jump_q (c : Core) (t : DWord) : (c.jump t).q = c.q := rfl
@[simp] theorem Core.advance_guards (c : Core) : c.advance.guards = c.guards := rfl
@[simp] theorem Core.goto_guards (c : Core) (t : DWord) : (c.goto t).guards = c.guards := rfl
@[simp] theorem Core.jump_guards (c : Core) (t : DWord) : (c.jump t).guards = c.guards := rfl
@[simp] theorem Core.advance_flags (c : Core) : c.advance.flags = c.flags := rfl
@[simp] theorem Core.goto_flags (c : Core) (t : DWord) : (c.goto t).flags = c.flags := rfl
@[simp] theorem Core.jump_flags (c : Core) (t : DWord) : (c.jump t).flags = c.flags := rfl
@[simp] theorem Core.advance_heldFlags (c : Core) : c.advance.heldFlags = c.heldFlags := rfl
@[simp] theorem Core.goto_heldFlags (c : Core) (t : DWord) : (c.goto t).heldFlags = c.heldFlags := rfl
@[simp] theorem Core.jump_heldFlags (c : Core) (t : DWord) : (c.jump t).heldFlags = c.heldFlags := rfl
@[simp] theorem Core.advance_ly (c : Core) : c.advance.ly = c.ly := rfl
@[simp] theorem Core.goto_ly (c : Core) (t : DWord) : (c.goto t).ly = c.ly := rfl
@[simp] theorem Core.jump_ly (c : Core) (t : DWord) : (c.jump t).ly = c.ly := rfl
@[simp] theorem Core.advance_bd (c : Core) : c.advance.bd = c.bd := rfl
@[simp] theorem Core.goto_bd (c : Core) (t : DWord) : (c.goto t).bd = c.bd := rfl
@[simp] theorem Core.jump_bd (c : Core) (t : DWord) : (c.jump t).bd = c.bd := rfl
@[simp] theorem Core.advance_gn (c : Core) : c.advance.gn = c.gn := rfl
@[simp] theorem Core.goto_gn (c : Core) (t : DWord) : (c.goto t).gn = c.gn := rfl
@[simp] theorem Core.jump_gn (c : Core) (t : DWord) : (c.jump t).gn = c.gn := rfl
@[simp] theorem Core.advance_vec (c : Core) : c.advance.vec = c.vec := rfl
@[simp] theorem Core.goto_vec (c : Core) (t : DWord) : (c.goto t).vec = c.vec := rfl
@[simp] theorem Core.jump_vec (c : Core) (t : DWord) : (c.jump t).vec = c.vec := rfl
@[simp] theorem Core.advance_acc (c : Core) : c.advance.acc = c.acc := rfl
@[simp] theorem Core.goto_acc (c : Core) (t : DWord) : (c.goto t).acc = c.acc := rfl
@[simp] theorem Core.jump_acc (c : Core) (t : DWord) : (c.jump t).acc = c.acc := rfl
@[simp] theorem Core.advance_lyconf (c : Core) : c.advance.lyconf = c.lyconf := rfl
@[simp] theorem Core.goto_lyconf (c : Core) (t : DWord) : (c.goto t).lyconf = c.lyconf := rfl
@[simp] theorem Core.jump_lyconf (c : Core) (t : DWord) : (c.jump t).lyconf = c.lyconf := rfl
@[simp] theorem Core.advance_xs (c : Core) : c.advance.xs = c.xs := rfl
@[simp] theorem Core.goto_xs (c : Core) (t : DWord) : (c.goto t).xs = c.xs := rfl
@[simp] theorem Core.jump_xs (c : Core) (t : DWord) : (c.jump t).xs = c.xs := rfl
@[simp] theorem Core.advance_ws (c : Core) : c.advance.ws = c.ws := rfl
@[simp] theorem Core.goto_ws (c : Core) (t : DWord) : (c.goto t).ws = c.ws := rfl
@[simp] theorem Core.jump_ws (c : Core) (t : DWord) : (c.jump t).ws = c.ws := rfl
@[simp] theorem Core.advance_posted (c : Core) : c.advance.posted = c.posted := rfl
@[simp] theorem Core.goto_posted (c : Core) (t : DWord) : (c.goto t).posted = c.posted := rfl
@[simp] theorem Core.jump_posted (c : Core) (t : DWord) : (c.jump t).posted = c.posted := rfl
@[simp] theorem Core.advance_parked (c : Core) : c.advance.parked = c.parked := rfl
@[simp] theorem Core.goto_parked (c : Core) (t : DWord) : (c.goto t).parked = c.parked := rfl
@[simp] theorem Core.jump_parked (c : Core) (t : DWord) : (c.jump t).parked = c.parked := rfl
@[simp] theorem Core.advance_tx (c : Core) : c.advance.tx = c.tx := rfl
@[simp] theorem Core.goto_tx (c : Core) (t : DWord) : (c.goto t).tx = c.tx := rfl
@[simp] theorem Core.jump_tx (c : Core) (t : DWord) : (c.jump t).tx = c.tx := rfl
@[simp] theorem Core.advance_proj (c : Core) : c.advance.proj = c.proj := rfl
@[simp] theorem Core.goto_proj (c : Core) (t : DWord) : (c.goto t).proj = c.proj := rfl
@[simp] theorem Core.jump_proj (c : Core) (t : DWord) : (c.jump t).proj = c.proj := rfl
@[simp] theorem Core.advance_watches (c : Core) : c.advance.watches = c.watches := rfl
@[simp] theorem Core.goto_watches (c : Core) (t : DWord) : (c.goto t).watches = c.watches := rfl
@[simp] theorem Core.jump_watches (c : Core) (t : DWord) : (c.jump t).watches = c.watches := rfl
@[simp] theorem Core.advance_barHeld (c : Core) : c.advance.barHeld = c.barHeld := rfl
@[simp] theorem Core.goto_barHeld (c : Core) (t : DWord) : (c.goto t).barHeld = c.barHeld := rfl
@[simp] theorem Core.jump_barHeld (c : Core) (t : DWord) : (c.jump t).barHeld = c.barHeld := rfl
@[simp] theorem Core.advance_sStop (c : Core) : c.advance.sStop = c.sStop := rfl
@[simp] theorem Core.goto_sStop (c : Core) (t : DWord) : (c.goto t).sStop = c.sStop := rfl
@[simp] theorem Core.jump_sStop (c : Core) (t : DWord) : (c.jump t).sStop = c.sStop := rfl
@[simp] theorem Core.advance_mStop (c : Core) : c.advance.mStop = c.mStop := rfl
@[simp] theorem Core.goto_mStop (c : Core) (t : DWord) : (c.goto t).mStop = c.mStop := rfl
@[simp] theorem Core.jump_mStop (c : Core) (t : DWord) : (c.jump t).mStop = c.mStop := rfl
@[simp] theorem Core.advance_cStop (c : Core) : c.advance.cStop = c.cStop := rfl
@[simp] theorem Core.goto_cStop (c : Core) (t : DWord) : (c.goto t).cStop = c.cStop := rfl
@[simp] theorem Core.jump_cStop (c : Core) (t : DWord) : (c.jump t).cStop = c.cStop := rfl
@[simp] theorem Core.advance_pendingTrap (c : Core) : c.advance.pendingTrap = c.pendingTrap := rfl
@[simp] theorem Core.goto_pendingTrap (c : Core) (t : DWord) : (c.goto t).pendingTrap = c.pendingTrap := rfl
@[simp] theorem Core.jump_pendingTrap (c : Core) (t : DWord) : (c.jump t).pendingTrap = c.pendingTrap := rfl
@[simp] theorem Core.advance_takenV (c : Core) : c.advance.takenV = c.takenV := rfl
@[simp] theorem Core.goto_takenV (c : Core) (t : DWord) : (c.goto t).takenV = c.takenV := rfl
@[simp] theorem Core.jump_takenV (c : Core) (t : DWord) : (c.jump t).takenV = c.takenV := rfl
@[simp] theorem Core.advance_takenC (c : Core) : c.advance.takenC = c.takenC := rfl
@[simp] theorem Core.goto_takenC (c : Core) (t : DWord) : (c.goto t).takenC = c.takenC := rfl
@[simp] theorem Core.jump_takenC (c : Core) (t : DWord) : (c.jump t).takenC = c.takenC := rfl
@[simp] theorem Core.advance_debug (c : Core) : c.advance.debug = c.debug := rfl
@[simp] theorem Core.goto_debug (c : Core) (t : DWord) : (c.goto t).debug = c.debug := rfl
@[simp] theorem Core.jump_debug (c : Core) (t : DWord) : (c.jump t).debug = c.debug := rfl
@[simp] theorem Core.advance_dbgCtx (c : Core) : c.advance.dbgCtx = c.dbgCtx := rfl
@[simp] theorem Core.goto_dbgCtx (c : Core) (t : DWord) : (c.goto t).dbgCtx = c.dbgCtx := rfl
@[simp] theorem Core.jump_dbgCtx (c : Core) (t : DWord) : (c.jump t).dbgCtx = c.dbgCtx := rfl
@[simp] theorem Core.advance_dbgArm (c : Core) : c.advance.dbgArm = c.dbgArm := rfl
@[simp] theorem Core.goto_dbgArm (c : Core) (t : DWord) : (c.goto t).dbgArm = c.dbgArm := rfl
@[simp] theorem Core.jump_dbgArm (c : Core) (t : DWord) : (c.jump t).dbgArm = c.dbgArm := rfl
@[simp] theorem Core.advance_dbgStopCtx (c : Core) : c.advance.dbgStopCtx = c.dbgStopCtx := rfl
@[simp] theorem Core.goto_dbgStopCtx (c : Core) (t : DWord) : (c.goto t).dbgStopCtx = c.dbgStopCtx := rfl
@[simp] theorem Core.jump_dbgStopCtx (c : Core) (t : DWord) : (c.jump t).dbgStopCtx = c.dbgStopCtx := rfl
@[simp] theorem Core.advance_stepTo (c : Core) : c.advance.stepTo = c.stepTo := rfl
@[simp] theorem Core.goto_stepTo (c : Core) (t : DWord) : (c.goto t).stepTo = c.stepTo := rfl
@[simp] theorem Core.jump_stepTo (c : Core) (t : DWord) : (c.jump t).stepTo = c.stepTo := rfl
@[simp] theorem Core.advance_perf (c : Core) : c.advance.perf = c.perf := rfl
@[simp] theorem Core.goto_perf (c : Core) (t : DWord) : (c.goto t).perf = c.perf := rfl
@[simp] theorem Core.jump_perf (c : Core) (t : DWord) : (c.jump t).perf = c.perf := rfl
@[simp] theorem Core.advance_stalls (c : Core) : c.advance.stalls = c.stalls := rfl
@[simp] theorem Core.goto_stalls (c : Core) (t : DWord) : (c.goto t).stalls = c.stalls := rfl
@[simp] theorem Core.jump_stalls (c : Core) (t : DWord) : (c.jump t).stalls = c.stalls := rfl

/-! ## Registers and flags -/

@[simp] theorem Core.wx_job (c : Core) (d : XReg) (v : DWord) :
    (c.wx d v).job = c.job := by
  unfold Core.wx; split <;> rfl
@[simp] theorem Core.orFlags_job (c : Core) (v : Flags) : (c.orFlags v).job = c.job := rfl
@[simp] theorem Core.resolve_job (c : Core) (g : Guard) (v : Bool) : (c.resolve g v).job = c.job := rfl
@[simp] theorem Core.openPair_job (c : Core) (g : Guard) : (c.openPair g).job = c.job := rfl
@[simp] theorem Core.setQreg_job (c : Core) (n : Nat) (l : List DWord) : (c.setQreg n l).job = c.job := rfl
@[simp] theorem Core.setAccRow_job (c : Core) (t i : Nat) (v : VReg) : (c.setAccRow t i v).job = c.job := rfl
@[simp] theorem Core.wx_pc (c : Core) (d : XReg) (v : DWord) :
    (c.wx d v).pc = c.pc := by
  unfold Core.wx; split <;> rfl
@[simp] theorem Core.orFlags_pc (c : Core) (v : Flags) : (c.orFlags v).pc = c.pc := rfl
@[simp] theorem Core.resolve_pc (c : Core) (g : Guard) (v : Bool) : (c.resolve g v).pc = c.pc := rfl
@[simp] theorem Core.openPair_pc (c : Core) (g : Guard) : (c.openPair g).pc = c.pc := rfl
@[simp] theorem Core.setQreg_pc (c : Core) (n : Nat) (l : List DWord) : (c.setQreg n l).pc = c.pc := rfl
@[simp] theorem Core.setAccRow_pc (c : Core) (t i : Nat) (v : VReg) : (c.setAccRow t i v).pc = c.pc := rfl
@[simp] theorem Core.orFlags_x (c : Core) (v : Flags) : (c.orFlags v).x = c.x := rfl
@[simp] theorem Core.resolve_x (c : Core) (g : Guard) (v : Bool) : (c.resolve g v).x = c.x := rfl
@[simp] theorem Core.openPair_x (c : Core) (g : Guard) : (c.openPair g).x = c.x := rfl
@[simp] theorem Core.setQreg_x (c : Core) (n : Nat) (l : List DWord) : (c.setQreg n l).x = c.x := rfl
@[simp] theorem Core.setAccRow_x (c : Core) (t i : Nat) (v : VReg) : (c.setAccRow t i v).x = c.x := rfl
@[simp] theorem Core.wx_sr (c : Core) (d : XReg) (v : DWord) :
    (c.wx d v).sr = c.sr := by
  unfold Core.wx; split <;> rfl
@[simp] theorem Core.resolve_sr (c : Core) (g : Guard) (v : Bool) : (c.resolve g v).sr = c.sr := rfl
@[simp] theorem Core.openPair_sr (c : Core) (g : Guard) : (c.openPair g).sr = c.sr := rfl
@[simp] theorem Core.setQreg_sr (c : Core) (n : Nat) (l : List DWord) : (c.setQreg n l).sr = c.sr := rfl
@[simp] theorem Core.setAccRow_sr (c : Core) (t i : Nat) (v : VReg) : (c.setAccRow t i v).sr = c.sr := rfl
@[simp] theorem Core.wx_iseq (c : Core) (d : XReg) (v : DWord) :
    (c.wx d v).iseq = c.iseq := by
  unfold Core.wx; split <;> rfl
@[simp] theorem Core.orFlags_iseq (c : Core) (v : Flags) : (c.orFlags v).iseq = c.iseq := rfl
@[simp] theorem Core.resolve_iseq (c : Core) (g : Guard) (v : Bool) : (c.resolve g v).iseq = c.iseq := rfl
@[simp] theorem Core.openPair_iseq (c : Core) (g : Guard) : (c.openPair g).iseq = c.iseq := rfl
@[simp] theorem Core.setQreg_iseq (c : Core) (n : Nat) (l : List DWord) : (c.setQreg n l).iseq = c.iseq := rfl
@[simp] theorem Core.setAccRow_iseq (c : Core) (t i : Nat) (v : VReg) : (c.setAccRow t i v).iseq = c.iseq := rfl
@[simp] theorem Core.wx_seq (c : Core) (d : XReg) (v : DWord) :
    (c.wx d v).seq = c.seq := by
  unfold Core.wx; split <;> rfl
@[simp] theorem Core.orFlags_seq (c : Core) (v : Flags) : (c.orFlags v).seq = c.seq := rfl
@[simp] theorem Core.resolve_seq (c : Core) (g : Guard) (v : Bool) : (c.resolve g v).seq = c.seq := rfl
@[simp] theorem Core.openPair_seq (c : Core) (g : Guard) : (c.openPair g).seq = c.seq := rfl
@[simp] theorem Core.setQreg_seq (c : Core) (n : Nat) (l : List DWord) : (c.setQreg n l).seq = c.seq := rfl
@[simp] theorem Core.setAccRow_seq (c : Core) (t i : Nat) (v : VReg) : (c.setAccRow t i v).seq = c.seq := rfl
@[simp] theorem Core.wx_drainAt (c : Core) (d : XReg) (v : DWord) :
    (c.wx d v).drainAt = c.drainAt := by
  unfold Core.wx; split <;> rfl
@[simp] theorem Core.orFlags_drainAt (c : Core) (v : Flags) : (c.orFlags v).drainAt = c.drainAt := rfl
@[simp] theorem Core.resolve_drainAt (c : Core) (g : Guard) (v : Bool) : (c.resolve g v).drainAt = c.drainAt := rfl
@[simp] theorem Core.openPair_drainAt (c : Core) (g : Guard) : (c.openPair g).drainAt = c.drainAt := rfl
@[simp] theorem Core.setQreg_drainAt (c : Core) (n : Nat) (l : List DWord) :
    (c.setQreg n l).drainAt = c.drainAt := rfl
@[simp] theorem Core.setAccRow_drainAt (c : Core) (t i : Nat) (v : VReg) :
    (c.setAccRow t i v).drainAt = c.drainAt := rfl
@[simp] theorem Core.wx_head (c : Core) (d : XReg) (v : DWord) :
    (c.wx d v).head = c.head := by
  unfold Core.wx; split <;> rfl
@[simp] theorem Core.orFlags_head (c : Core) (v : Flags) : (c.orFlags v).head = c.head := rfl
@[simp] theorem Core.resolve_head (c : Core) (g : Guard) (v : Bool) : (c.resolve g v).head = c.head := rfl
@[simp] theorem Core.openPair_head (c : Core) (g : Guard) : (c.openPair g).head = c.head := rfl
@[simp] theorem Core.setQreg_head (c : Core) (n : Nat) (l : List DWord) : (c.setQreg n l).head = c.head := rfl
@[simp] theorem Core.setAccRow_head (c : Core) (t i : Nat) (v : VReg) : (c.setAccRow t i v).head = c.head := rfl
@[simp] theorem Core.wx_stopHead (c : Core) (d : XReg) (v : DWord) :
    (c.wx d v).stopHead = c.stopHead := by
  unfold Core.wx; split <;> rfl
@[simp] theorem Core.orFlags_stopHead (c : Core) (v : Flags) : (c.orFlags v).stopHead = c.stopHead := rfl
@[simp] theorem Core.resolve_stopHead (c : Core) (g : Guard) (v : Bool) : (c.resolve g v).stopHead = c.stopHead := rfl
@[simp] theorem Core.openPair_stopHead (c : Core) (g : Guard) : (c.openPair g).stopHead = c.stopHead := rfl
@[simp] theorem Core.setQreg_stopHead (c : Core) (n : Nat) (l : List DWord) :
    (c.setQreg n l).stopHead = c.stopHead := rfl
@[simp] theorem Core.setAccRow_stopHead (c : Core) (t i : Nat) (v : VReg) :
    (c.setAccRow t i v).stopHead = c.stopHead := rfl
@[simp] theorem Core.wx_issue (c : Core) (d : XReg) (v : DWord) :
    (c.wx d v).issue = c.issue := by
  unfold Core.wx; split <;> rfl
@[simp] theorem Core.orFlags_issue (c : Core) (v : Flags) : (c.orFlags v).issue = c.issue := rfl
@[simp] theorem Core.resolve_issue (c : Core) (g : Guard) (v : Bool) : (c.resolve g v).issue = c.issue := rfl
@[simp] theorem Core.openPair_issue (c : Core) (g : Guard) : (c.openPair g).issue = c.issue := rfl
@[simp] theorem Core.setQreg_issue (c : Core) (n : Nat) (l : List DWord) : (c.setQreg n l).issue = c.issue := rfl
@[simp] theorem Core.setAccRow_issue (c : Core) (t i : Nat) (v : VReg) : (c.setAccRow t i v).issue = c.issue := rfl
@[simp] theorem Core.wx_barWait (c : Core) (d : XReg) (v : DWord) :
    (c.wx d v).barWait = c.barWait := by
  unfold Core.wx; split <;> rfl
@[simp] theorem Core.orFlags_barWait (c : Core) (v : Flags) : (c.orFlags v).barWait = c.barWait := rfl
@[simp] theorem Core.resolve_barWait (c : Core) (g : Guard) (v : Bool) : (c.resolve g v).barWait = c.barWait := rfl
@[simp] theorem Core.openPair_barWait (c : Core) (g : Guard) : (c.openPair g).barWait = c.barWait := rfl
@[simp] theorem Core.setQreg_barWait (c : Core) (n : Nat) (l : List DWord) :
    (c.setQreg n l).barWait = c.barWait := rfl
@[simp] theorem Core.setAccRow_barWait (c : Core) (t i : Nat) (v : VReg) :
    (c.setAccRow t i v).barWait = c.barWait := rfl
@[simp] theorem Core.wx_vq (c : Core) (d : XReg) (v : DWord) :
    (c.wx d v).vq = c.vq := by
  unfold Core.wx; split <;> rfl
@[simp] theorem Core.orFlags_vq (c : Core) (v : Flags) : (c.orFlags v).vq = c.vq := rfl
@[simp] theorem Core.resolve_vq (c : Core) (g : Guard) (v : Bool) : (c.resolve g v).vq = c.vq := rfl
@[simp] theorem Core.openPair_vq (c : Core) (g : Guard) : (c.openPair g).vq = c.vq := rfl
@[simp] theorem Core.setQreg_vq (c : Core) (n : Nat) (l : List DWord) : (c.setQreg n l).vq = c.vq := rfl
@[simp] theorem Core.setAccRow_vq (c : Core) (t i : Nat) (v : VReg) : (c.setAccRow t i v).vq = c.vq := rfl
@[simp] theorem Core.wx_mq (c : Core) (d : XReg) (v : DWord) :
    (c.wx d v).mq = c.mq := by
  unfold Core.wx; split <;> rfl
@[simp] theorem Core.orFlags_mq (c : Core) (v : Flags) : (c.orFlags v).mq = c.mq := rfl
@[simp] theorem Core.resolve_mq (c : Core) (g : Guard) (v : Bool) : (c.resolve g v).mq = c.mq := rfl
@[simp] theorem Core.openPair_mq (c : Core) (g : Guard) : (c.openPair g).mq = c.mq := rfl
@[simp] theorem Core.setQreg_mq (c : Core) (n : Nat) (l : List DWord) : (c.setQreg n l).mq = c.mq := rfl
@[simp] theorem Core.setAccRow_mq (c : Core) (t i : Nat) (v : VReg) : (c.setAccRow t i v).mq = c.mq := rfl
@[simp] theorem Core.wx_cq (c : Core) (d : XReg) (v : DWord) :
    (c.wx d v).cq = c.cq := by
  unfold Core.wx; split <;> rfl
@[simp] theorem Core.orFlags_cq (c : Core) (v : Flags) : (c.orFlags v).cq = c.cq := rfl
@[simp] theorem Core.resolve_cq (c : Core) (g : Guard) (v : Bool) : (c.resolve g v).cq = c.cq := rfl
@[simp] theorem Core.openPair_cq (c : Core) (g : Guard) : (c.openPair g).cq = c.cq := rfl
@[simp] theorem Core.setQreg_cq (c : Core) (n : Nat) (l : List DWord) : (c.setQreg n l).cq = c.cq := rfl
@[simp] theorem Core.setAccRow_cq (c : Core) (t i : Nat) (v : VReg) : (c.setAccRow t i v).cq = c.cq := rfl
@[simp] theorem Core.wx_q (c : Core) (d : XReg) (v : DWord) : (c.wx d v).q = c.q := by
  unfold Core.wx; split <;> rfl
@[simp] theorem Core.orFlags_q (c : Core) (v : Flags) : (c.orFlags v).q = c.q := rfl
@[simp] theorem Core.resolve_q (c : Core) (g : Guard) (v : Bool) : (c.resolve g v).q = c.q := rfl
@[simp] theorem Core.openPair_q (c : Core) (g : Guard) : (c.openPair g).q = c.q := rfl
@[simp] theorem Core.setAccRow_q (c : Core) (t i : Nat) (v : VReg) : (c.setAccRow t i v).q = c.q := rfl
@[simp] theorem Core.wx_guards (c : Core) (d : XReg) (v : DWord) :
    (c.wx d v).guards = c.guards := by
  unfold Core.wx; split <;> rfl
@[simp] theorem Core.orFlags_guards (c : Core) (v : Flags) : (c.orFlags v).guards = c.guards := rfl
@[simp] theorem Core.setQreg_guards (c : Core) (n : Nat) (l : List DWord) : (c.setQreg n l).guards = c.guards := rfl
@[simp] theorem Core.setAccRow_guards (c : Core) (t i : Nat) (v : VReg) : (c.setAccRow t i v).guards = c.guards := rfl
@[simp] theorem Core.wx_flags (c : Core) (d : XReg) (v : DWord) :
    (c.wx d v).flags = c.flags := by
  unfold Core.wx; split <;> rfl
@[simp] theorem Core.orFlags_flags (c : Core) (v : Flags) : (c.orFlags v).flags = c.flags := rfl
@[simp] theorem Core.resolve_flags (c : Core) (g : Guard) (v : Bool) : (c.resolve g v).flags = c.flags := rfl
@[simp] theorem Core.openPair_flags (c : Core) (g : Guard) : (c.openPair g).flags = c.flags := rfl
@[simp] theorem Core.setQreg_flags (c : Core) (n : Nat) (l : List DWord) : (c.setQreg n l).flags = c.flags := rfl
@[simp] theorem Core.setAccRow_flags (c : Core) (t i : Nat) (v : VReg) : (c.setAccRow t i v).flags = c.flags := rfl
@[simp] theorem Core.wx_heldFlags (c : Core) (d : XReg) (v : DWord) :
    (c.wx d v).heldFlags = c.heldFlags := by
  unfold Core.wx; split <;> rfl
@[simp] theorem Core.orFlags_heldFlags (c : Core) (v : Flags) : (c.orFlags v).heldFlags = c.heldFlags := rfl
@[simp] theorem Core.resolve_heldFlags (c : Core) (g : Guard) (v : Bool) :
    (c.resolve g v).heldFlags = c.heldFlags := rfl
@[simp] theorem Core.openPair_heldFlags (c : Core) (g : Guard) : (c.openPair g).heldFlags = c.heldFlags := rfl
@[simp] theorem Core.setQreg_heldFlags (c : Core) (n : Nat) (l : List DWord) :
    (c.setQreg n l).heldFlags = c.heldFlags := rfl
@[simp] theorem Core.setAccRow_heldFlags (c : Core) (t i : Nat) (v : VReg) :
    (c.setAccRow t i v).heldFlags = c.heldFlags := rfl
@[simp] theorem Core.wx_ly (c : Core) (d : XReg) (v : DWord) :
    (c.wx d v).ly = c.ly := by
  unfold Core.wx; split <;> rfl
@[simp] theorem Core.orFlags_ly (c : Core) (v : Flags) : (c.orFlags v).ly = c.ly := rfl
@[simp] theorem Core.resolve_ly (c : Core) (g : Guard) (v : Bool) : (c.resolve g v).ly = c.ly := rfl
@[simp] theorem Core.openPair_ly (c : Core) (g : Guard) : (c.openPair g).ly = c.ly := rfl
@[simp] theorem Core.setQreg_ly (c : Core) (n : Nat) (l : List DWord) : (c.setQreg n l).ly = c.ly := rfl
@[simp] theorem Core.setAccRow_ly (c : Core) (t i : Nat) (v : VReg) : (c.setAccRow t i v).ly = c.ly := rfl
@[simp] theorem Core.wx_bd (c : Core) (d : XReg) (v : DWord) :
    (c.wx d v).bd = c.bd := by
  unfold Core.wx; split <;> rfl
@[simp] theorem Core.orFlags_bd (c : Core) (v : Flags) : (c.orFlags v).bd = c.bd := rfl
@[simp] theorem Core.resolve_bd (c : Core) (g : Guard) (v : Bool) : (c.resolve g v).bd = c.bd := rfl
@[simp] theorem Core.openPair_bd (c : Core) (g : Guard) : (c.openPair g).bd = c.bd := rfl
@[simp] theorem Core.setQreg_bd (c : Core) (n : Nat) (l : List DWord) : (c.setQreg n l).bd = c.bd := rfl
@[simp] theorem Core.setAccRow_bd (c : Core) (t i : Nat) (v : VReg) : (c.setAccRow t i v).bd = c.bd := rfl
@[simp] theorem Core.wx_gn (c : Core) (d : XReg) (v : DWord) :
    (c.wx d v).gn = c.gn := by
  unfold Core.wx; split <;> rfl
@[simp] theorem Core.orFlags_gn (c : Core) (v : Flags) : (c.orFlags v).gn = c.gn := rfl
@[simp] theorem Core.resolve_gn (c : Core) (g : Guard) (v : Bool) : (c.resolve g v).gn = c.gn := rfl
@[simp] theorem Core.openPair_gn (c : Core) (g : Guard) : (c.openPair g).gn = c.gn := rfl
@[simp] theorem Core.setQreg_gn (c : Core) (n : Nat) (l : List DWord) : (c.setQreg n l).gn = c.gn := rfl
@[simp] theorem Core.setAccRow_gn (c : Core) (t i : Nat) (v : VReg) : (c.setAccRow t i v).gn = c.gn := rfl
@[simp] theorem Core.wx_vec (c : Core) (d : XReg) (v : DWord) :
    (c.wx d v).vec = c.vec := by
  unfold Core.wx; split <;> rfl
@[simp] theorem Core.orFlags_vec (c : Core) (v : Flags) : (c.orFlags v).vec = c.vec := rfl
@[simp] theorem Core.resolve_vec (c : Core) (g : Guard) (v : Bool) : (c.resolve g v).vec = c.vec := rfl
@[simp] theorem Core.openPair_vec (c : Core) (g : Guard) : (c.openPair g).vec = c.vec := rfl
@[simp] theorem Core.setQreg_vec (c : Core) (n : Nat) (l : List DWord) : (c.setQreg n l).vec = c.vec := rfl
@[simp] theorem Core.setAccRow_vec (c : Core) (t i : Nat) (v : VReg) : (c.setAccRow t i v).vec = c.vec := rfl
@[simp] theorem Core.wx_acc (c : Core) (d : XReg) (v : DWord) :
    (c.wx d v).acc = c.acc := by
  unfold Core.wx; split <;> rfl
@[simp] theorem Core.orFlags_acc (c : Core) (v : Flags) : (c.orFlags v).acc = c.acc := rfl
@[simp] theorem Core.resolve_acc (c : Core) (g : Guard) (v : Bool) : (c.resolve g v).acc = c.acc := rfl
@[simp] theorem Core.openPair_acc (c : Core) (g : Guard) : (c.openPair g).acc = c.acc := rfl
@[simp] theorem Core.setQreg_acc (c : Core) (n : Nat) (l : List DWord) : (c.setQreg n l).acc = c.acc := rfl
@[simp] theorem Core.wx_lyconf (c : Core) (d : XReg) (v : DWord) :
    (c.wx d v).lyconf = c.lyconf := by
  unfold Core.wx; split <;> rfl
@[simp] theorem Core.orFlags_lyconf (c : Core) (v : Flags) : (c.orFlags v).lyconf = c.lyconf := rfl
@[simp] theorem Core.resolve_lyconf (c : Core) (g : Guard) (v : Bool) : (c.resolve g v).lyconf = c.lyconf := rfl
@[simp] theorem Core.openPair_lyconf (c : Core) (g : Guard) : (c.openPair g).lyconf = c.lyconf := rfl
@[simp] theorem Core.setQreg_lyconf (c : Core) (n : Nat) (l : List DWord) : (c.setQreg n l).lyconf = c.lyconf := rfl
@[simp] theorem Core.setAccRow_lyconf (c : Core) (t i : Nat) (v : VReg) : (c.setAccRow t i v).lyconf = c.lyconf := rfl
@[simp] theorem Core.wx_xs (c : Core) (d : XReg) (v : DWord) :
    (c.wx d v).xs = c.xs := by
  unfold Core.wx; split <;> rfl
@[simp] theorem Core.orFlags_xs (c : Core) (v : Flags) : (c.orFlags v).xs = c.xs := rfl
@[simp] theorem Core.resolve_xs (c : Core) (g : Guard) (v : Bool) : (c.resolve g v).xs = c.xs := rfl
@[simp] theorem Core.openPair_xs (c : Core) (g : Guard) : (c.openPair g).xs = c.xs := rfl
@[simp] theorem Core.setQreg_xs (c : Core) (n : Nat) (l : List DWord) : (c.setQreg n l).xs = c.xs := rfl
@[simp] theorem Core.setAccRow_xs (c : Core) (t i : Nat) (v : VReg) : (c.setAccRow t i v).xs = c.xs := rfl
@[simp] theorem Core.wx_ws (c : Core) (d : XReg) (v : DWord) :
    (c.wx d v).ws = c.ws := by
  unfold Core.wx; split <;> rfl
@[simp] theorem Core.orFlags_ws (c : Core) (v : Flags) : (c.orFlags v).ws = c.ws := rfl
@[simp] theorem Core.resolve_ws (c : Core) (g : Guard) (v : Bool) : (c.resolve g v).ws = c.ws := rfl
@[simp] theorem Core.openPair_ws (c : Core) (g : Guard) : (c.openPair g).ws = c.ws := rfl
@[simp] theorem Core.setQreg_ws (c : Core) (n : Nat) (l : List DWord) : (c.setQreg n l).ws = c.ws := rfl
@[simp] theorem Core.setAccRow_ws (c : Core) (t i : Nat) (v : VReg) : (c.setAccRow t i v).ws = c.ws := rfl
@[simp] theorem Core.wx_posted (c : Core) (d : XReg) (v : DWord) :
    (c.wx d v).posted = c.posted := by
  unfold Core.wx; split <;> rfl
@[simp] theorem Core.orFlags_posted (c : Core) (v : Flags) : (c.orFlags v).posted = c.posted := rfl
@[simp] theorem Core.resolve_posted (c : Core) (g : Guard) (v : Bool) : (c.resolve g v).posted = c.posted := rfl
@[simp] theorem Core.openPair_posted (c : Core) (g : Guard) : (c.openPair g).posted = c.posted := rfl
@[simp] theorem Core.setQreg_posted (c : Core) (n : Nat) (l : List DWord) : (c.setQreg n l).posted = c.posted := rfl
@[simp] theorem Core.setAccRow_posted (c : Core) (t i : Nat) (v : VReg) : (c.setAccRow t i v).posted = c.posted := rfl
@[simp] theorem Core.wx_parked (c : Core) (d : XReg) (v : DWord) :
    (c.wx d v).parked = c.parked := by
  unfold Core.wx; split <;> rfl
@[simp] theorem Core.orFlags_parked (c : Core) (v : Flags) : (c.orFlags v).parked = c.parked := rfl
@[simp] theorem Core.resolve_parked (c : Core) (g : Guard) (v : Bool) : (c.resolve g v).parked = c.parked := rfl
@[simp] theorem Core.openPair_parked (c : Core) (g : Guard) : (c.openPair g).parked = c.parked := rfl
@[simp] theorem Core.setQreg_parked (c : Core) (n : Nat) (l : List DWord) : (c.setQreg n l).parked = c.parked := rfl
@[simp] theorem Core.setAccRow_parked (c : Core) (t i : Nat) (v : VReg) : (c.setAccRow t i v).parked = c.parked := rfl
@[simp] theorem Core.wx_tx (c : Core) (d : XReg) (v : DWord) :
    (c.wx d v).tx = c.tx := by
  unfold Core.wx; split <;> rfl
@[simp] theorem Core.orFlags_tx (c : Core) (v : Flags) : (c.orFlags v).tx = c.tx := rfl
@[simp] theorem Core.resolve_tx (c : Core) (g : Guard) (v : Bool) : (c.resolve g v).tx = c.tx := rfl
@[simp] theorem Core.openPair_tx (c : Core) (g : Guard) : (c.openPair g).tx = c.tx := rfl
@[simp] theorem Core.setQreg_tx (c : Core) (n : Nat) (l : List DWord) : (c.setQreg n l).tx = c.tx := rfl
@[simp] theorem Core.setAccRow_tx (c : Core) (t i : Nat) (v : VReg) : (c.setAccRow t i v).tx = c.tx := rfl
@[simp] theorem Core.wx_proj (c : Core) (d : XReg) (v : DWord) :
    (c.wx d v).proj = c.proj := by
  unfold Core.wx; split <;> rfl
@[simp] theorem Core.orFlags_proj (c : Core) (v : Flags) : (c.orFlags v).proj = c.proj := rfl
@[simp] theorem Core.resolve_proj (c : Core) (g : Guard) (v : Bool) : (c.resolve g v).proj = c.proj := rfl
@[simp] theorem Core.openPair_proj (c : Core) (g : Guard) : (c.openPair g).proj = c.proj := rfl
@[simp] theorem Core.setQreg_proj (c : Core) (n : Nat) (l : List DWord) : (c.setQreg n l).proj = c.proj := rfl
@[simp] theorem Core.setAccRow_proj (c : Core) (t i : Nat) (v : VReg) : (c.setAccRow t i v).proj = c.proj := rfl
@[simp] theorem Core.wx_watches (c : Core) (d : XReg) (v : DWord) :
    (c.wx d v).watches = c.watches := by
  unfold Core.wx; split <;> rfl
@[simp] theorem Core.orFlags_watches (c : Core) (v : Flags) : (c.orFlags v).watches = c.watches := rfl
@[simp] theorem Core.resolve_watches (c : Core) (g : Guard) (v : Bool) : (c.resolve g v).watches = c.watches := rfl
@[simp] theorem Core.openPair_watches (c : Core) (g : Guard) : (c.openPair g).watches = c.watches := rfl
@[simp] theorem Core.setQreg_watches (c : Core) (n : Nat) (l : List DWord) :
    (c.setQreg n l).watches = c.watches := rfl
@[simp] theorem Core.setAccRow_watches (c : Core) (t i : Nat) (v : VReg) :
    (c.setAccRow t i v).watches = c.watches := rfl
@[simp] theorem Core.wx_barHeld (c : Core) (d : XReg) (v : DWord) :
    (c.wx d v).barHeld = c.barHeld := by
  unfold Core.wx; split <;> rfl
@[simp] theorem Core.orFlags_barHeld (c : Core) (v : Flags) : (c.orFlags v).barHeld = c.barHeld := rfl
@[simp] theorem Core.resolve_barHeld (c : Core) (g : Guard) (v : Bool) : (c.resolve g v).barHeld = c.barHeld := rfl
@[simp] theorem Core.openPair_barHeld (c : Core) (g : Guard) : (c.openPair g).barHeld = c.barHeld := rfl
@[simp] theorem Core.setQreg_barHeld (c : Core) (n : Nat) (l : List DWord) :
    (c.setQreg n l).barHeld = c.barHeld := rfl
@[simp] theorem Core.setAccRow_barHeld (c : Core) (t i : Nat) (v : VReg) :
    (c.setAccRow t i v).barHeld = c.barHeld := rfl
@[simp] theorem Core.wx_sStop (c : Core) (d : XReg) (v : DWord) :
    (c.wx d v).sStop = c.sStop := by
  unfold Core.wx; split <;> rfl
@[simp] theorem Core.orFlags_sStop (c : Core) (v : Flags) : (c.orFlags v).sStop = c.sStop := rfl
@[simp] theorem Core.resolve_sStop (c : Core) (g : Guard) (v : Bool) : (c.resolve g v).sStop = c.sStop := rfl
@[simp] theorem Core.openPair_sStop (c : Core) (g : Guard) : (c.openPair g).sStop = c.sStop := rfl
@[simp] theorem Core.setQreg_sStop (c : Core) (n : Nat) (l : List DWord) : (c.setQreg n l).sStop = c.sStop := rfl
@[simp] theorem Core.setAccRow_sStop (c : Core) (t i : Nat) (v : VReg) : (c.setAccRow t i v).sStop = c.sStop := rfl
@[simp] theorem Core.wx_mStop (c : Core) (d : XReg) (v : DWord) :
    (c.wx d v).mStop = c.mStop := by
  unfold Core.wx; split <;> rfl
@[simp] theorem Core.orFlags_mStop (c : Core) (v : Flags) : (c.orFlags v).mStop = c.mStop := rfl
@[simp] theorem Core.resolve_mStop (c : Core) (g : Guard) (v : Bool) : (c.resolve g v).mStop = c.mStop := rfl
@[simp] theorem Core.openPair_mStop (c : Core) (g : Guard) : (c.openPair g).mStop = c.mStop := rfl
@[simp] theorem Core.setQreg_mStop (c : Core) (n : Nat) (l : List DWord) : (c.setQreg n l).mStop = c.mStop := rfl
@[simp] theorem Core.setAccRow_mStop (c : Core) (t i : Nat) (v : VReg) : (c.setAccRow t i v).mStop = c.mStop := rfl
@[simp] theorem Core.wx_cStop (c : Core) (d : XReg) (v : DWord) :
    (c.wx d v).cStop = c.cStop := by
  unfold Core.wx; split <;> rfl
@[simp] theorem Core.orFlags_cStop (c : Core) (v : Flags) : (c.orFlags v).cStop = c.cStop := rfl
@[simp] theorem Core.resolve_cStop (c : Core) (g : Guard) (v : Bool) : (c.resolve g v).cStop = c.cStop := rfl
@[simp] theorem Core.openPair_cStop (c : Core) (g : Guard) : (c.openPair g).cStop = c.cStop := rfl
@[simp] theorem Core.setQreg_cStop (c : Core) (n : Nat) (l : List DWord) : (c.setQreg n l).cStop = c.cStop := rfl
@[simp] theorem Core.setAccRow_cStop (c : Core) (t i : Nat) (v : VReg) : (c.setAccRow t i v).cStop = c.cStop := rfl
@[simp] theorem Core.wx_pendingTrap (c : Core) (d : XReg) (v : DWord) :
    (c.wx d v).pendingTrap = c.pendingTrap := by
  unfold Core.wx; split <;> rfl
@[simp] theorem Core.orFlags_pendingTrap (c : Core) (v : Flags) : (c.orFlags v).pendingTrap = c.pendingTrap := rfl
@[simp] theorem Core.resolve_pendingTrap (c : Core) (g : Guard) (v : Bool) :
    (c.resolve g v).pendingTrap = c.pendingTrap := rfl
@[simp] theorem Core.openPair_pendingTrap (c : Core) (g : Guard) : (c.openPair g).pendingTrap = c.pendingTrap := rfl
@[simp] theorem Core.setQreg_pendingTrap (c : Core) (n : Nat) (l : List DWord) :
    (c.setQreg n l).pendingTrap = c.pendingTrap := rfl
@[simp] theorem Core.setAccRow_pendingTrap (c : Core) (t i : Nat) (v : VReg) :
    (c.setAccRow t i v).pendingTrap = c.pendingTrap := rfl
@[simp] theorem Core.wx_takenV (c : Core) (d : XReg) (v : DWord) :
    (c.wx d v).takenV = c.takenV := by
  unfold Core.wx; split <;> rfl
@[simp] theorem Core.orFlags_takenV (c : Core) (v : Flags) : (c.orFlags v).takenV = c.takenV := rfl
@[simp] theorem Core.resolve_takenV (c : Core) (g : Guard) (v : Bool) : (c.resolve g v).takenV = c.takenV := rfl
@[simp] theorem Core.openPair_takenV (c : Core) (g : Guard) : (c.openPair g).takenV = c.takenV := rfl
@[simp] theorem Core.setQreg_takenV (c : Core) (n : Nat) (l : List DWord) : (c.setQreg n l).takenV = c.takenV := rfl
@[simp] theorem Core.setAccRow_takenV (c : Core) (t i : Nat) (v : VReg) : (c.setAccRow t i v).takenV = c.takenV := rfl
@[simp] theorem Core.wx_takenC (c : Core) (d : XReg) (v : DWord) :
    (c.wx d v).takenC = c.takenC := by
  unfold Core.wx; split <;> rfl
@[simp] theorem Core.orFlags_takenC (c : Core) (v : Flags) : (c.orFlags v).takenC = c.takenC := rfl
@[simp] theorem Core.resolve_takenC (c : Core) (g : Guard) (v : Bool) : (c.resolve g v).takenC = c.takenC := rfl
@[simp] theorem Core.openPair_takenC (c : Core) (g : Guard) : (c.openPair g).takenC = c.takenC := rfl
@[simp] theorem Core.setQreg_takenC (c : Core) (n : Nat) (l : List DWord) : (c.setQreg n l).takenC = c.takenC := rfl
@[simp] theorem Core.setAccRow_takenC (c : Core) (t i : Nat) (v : VReg) : (c.setAccRow t i v).takenC = c.takenC := rfl
@[simp] theorem Core.wx_debug (c : Core) (d : XReg) (v : DWord) :
    (c.wx d v).debug = c.debug := by
  unfold Core.wx; split <;> rfl
@[simp] theorem Core.orFlags_debug (c : Core) (v : Flags) : (c.orFlags v).debug = c.debug := rfl
@[simp] theorem Core.resolve_debug (c : Core) (g : Guard) (v : Bool) : (c.resolve g v).debug = c.debug := rfl
@[simp] theorem Core.openPair_debug (c : Core) (g : Guard) : (c.openPair g).debug = c.debug := rfl
@[simp] theorem Core.setQreg_debug (c : Core) (n : Nat) (l : List DWord) : (c.setQreg n l).debug = c.debug := rfl
@[simp] theorem Core.setAccRow_debug (c : Core) (t i : Nat) (v : VReg) : (c.setAccRow t i v).debug = c.debug := rfl
@[simp] theorem Core.wx_dbgCtx (c : Core) (d : XReg) (v : DWord) :
    (c.wx d v).dbgCtx = c.dbgCtx := by
  unfold Core.wx; split <;> rfl
@[simp] theorem Core.orFlags_dbgCtx (c : Core) (v : Flags) : (c.orFlags v).dbgCtx = c.dbgCtx := rfl
@[simp] theorem Core.resolve_dbgCtx (c : Core) (g : Guard) (v : Bool) : (c.resolve g v).dbgCtx = c.dbgCtx := rfl
@[simp] theorem Core.openPair_dbgCtx (c : Core) (g : Guard) : (c.openPair g).dbgCtx = c.dbgCtx := rfl
@[simp] theorem Core.setQreg_dbgCtx (c : Core) (n : Nat) (l : List DWord) : (c.setQreg n l).dbgCtx = c.dbgCtx := rfl
@[simp] theorem Core.setAccRow_dbgCtx (c : Core) (t i : Nat) (v : VReg) : (c.setAccRow t i v).dbgCtx = c.dbgCtx := rfl
@[simp] theorem Core.wx_dbgArm (c : Core) (d : XReg) (v : DWord) :
    (c.wx d v).dbgArm = c.dbgArm := by
  unfold Core.wx; split <;> rfl
@[simp] theorem Core.orFlags_dbgArm (c : Core) (v : Flags) : (c.orFlags v).dbgArm = c.dbgArm := rfl
@[simp] theorem Core.resolve_dbgArm (c : Core) (g : Guard) (v : Bool) : (c.resolve g v).dbgArm = c.dbgArm := rfl
@[simp] theorem Core.openPair_dbgArm (c : Core) (g : Guard) : (c.openPair g).dbgArm = c.dbgArm := rfl
@[simp] theorem Core.setQreg_dbgArm (c : Core) (n : Nat) (l : List DWord) : (c.setQreg n l).dbgArm = c.dbgArm := rfl
@[simp] theorem Core.setAccRow_dbgArm (c : Core) (t i : Nat) (v : VReg) : (c.setAccRow t i v).dbgArm = c.dbgArm := rfl
@[simp] theorem Core.wx_dbgStopCtx (c : Core) (d : XReg) (v : DWord) :
    (c.wx d v).dbgStopCtx = c.dbgStopCtx := by
  unfold Core.wx; split <;> rfl
@[simp] theorem Core.orFlags_dbgStopCtx (c : Core) (v : Flags) : (c.orFlags v).dbgStopCtx = c.dbgStopCtx := rfl
@[simp] theorem Core.resolve_dbgStopCtx (c : Core) (g : Guard) (v : Bool) :
    (c.resolve g v).dbgStopCtx = c.dbgStopCtx := rfl
@[simp] theorem Core.openPair_dbgStopCtx (c : Core) (g : Guard) : (c.openPair g).dbgStopCtx = c.dbgStopCtx := rfl
@[simp] theorem Core.setQreg_dbgStopCtx (c : Core) (n : Nat) (l : List DWord) :
    (c.setQreg n l).dbgStopCtx = c.dbgStopCtx := rfl
@[simp] theorem Core.setAccRow_dbgStopCtx (c : Core) (t i : Nat) (v : VReg) :
    (c.setAccRow t i v).dbgStopCtx = c.dbgStopCtx := rfl
@[simp] theorem Core.wx_stepTo (c : Core) (d : XReg) (v : DWord) :
    (c.wx d v).stepTo = c.stepTo := by
  unfold Core.wx; split <;> rfl
@[simp] theorem Core.orFlags_stepTo (c : Core) (v : Flags) : (c.orFlags v).stepTo = c.stepTo := rfl
@[simp] theorem Core.resolve_stepTo (c : Core) (g : Guard) (v : Bool) : (c.resolve g v).stepTo = c.stepTo := rfl
@[simp] theorem Core.openPair_stepTo (c : Core) (g : Guard) : (c.openPair g).stepTo = c.stepTo := rfl
@[simp] theorem Core.setQreg_stepTo (c : Core) (n : Nat) (l : List DWord) : (c.setQreg n l).stepTo = c.stepTo := rfl
@[simp] theorem Core.setAccRow_stepTo (c : Core) (t i : Nat) (v : VReg) : (c.setAccRow t i v).stepTo = c.stepTo := rfl
@[simp] theorem Core.wx_perf (c : Core) (d : XReg) (v : DWord) :
    (c.wx d v).perf = c.perf := by
  unfold Core.wx; split <;> rfl
@[simp] theorem Core.orFlags_perf (c : Core) (v : Flags) : (c.orFlags v).perf = c.perf := rfl
@[simp] theorem Core.resolve_perf (c : Core) (g : Guard) (v : Bool) : (c.resolve g v).perf = c.perf := rfl
@[simp] theorem Core.openPair_perf (c : Core) (g : Guard) : (c.openPair g).perf = c.perf := rfl
@[simp] theorem Core.setQreg_perf (c : Core) (n : Nat) (l : List DWord) : (c.setQreg n l).perf = c.perf := rfl
@[simp] theorem Core.setAccRow_perf (c : Core) (t i : Nat) (v : VReg) : (c.setAccRow t i v).perf = c.perf := rfl
@[simp] theorem Core.wx_stalls (c : Core) (d : XReg) (v : DWord) :
    (c.wx d v).stalls = c.stalls := by
  unfold Core.wx; split <;> rfl
@[simp] theorem Core.orFlags_stalls (c : Core) (v : Flags) : (c.orFlags v).stalls = c.stalls := rfl
@[simp] theorem Core.resolve_stalls (c : Core) (g : Guard) (v : Bool) : (c.resolve g v).stalls = c.stalls := rfl
@[simp] theorem Core.openPair_stalls (c : Core) (g : Guard) : (c.openPair g).stalls = c.stalls := rfl
@[simp] theorem Core.setQreg_stalls (c : Core) (n : Nat) (l : List DWord) : (c.setQreg n l).stalls = c.stalls := rfl
@[simp] theorem Core.setAccRow_stalls (c : Core) (t i : Nat) (v : VReg) : (c.setAccRow t i v).stalls = c.stalls := rfl

/-! ## Cores read after a change -/

@[simp] theorem State.core_setCore (s : State) (c : Core) : (s.setCore c).core = c := by
  simp [State.core, State.setCore]

@[simp] theorem State.coreAt_setCoreAt (s : State) (i j : Fin 128) (c : Core) :
    (s.setCoreAt i c).coreAt j = if i = j then c else s.coreAt j := by
  by_cases h : i = j
  · subst h; simp [State.coreAt, State.setCoreAt]
  · have : i.val ≠ j.val := fun e => h (Fin.ext e)
    simp [State.coreAt, State.setCoreAt, h, this]

/-- The contexts after one has changed. -/
theorem State.ctxs_modCtx (s : State) (id : CtxId) (g : Context → Context) (k : Fin 16)
    (h : s.slotOf id = some k) : (s.modCtx id g).ctxs = s.ctxs.set k (g s.ctxs[k]) := by
  simp [State.modCtx, h]

end Sys2Proof.Machine
end

