-- ==== Sys2Proof/Laws/Scalar.lean ====
section
/-! SUPPORT. Laws/Scalar.lean: what the executing core's update, an X register's write and a completed S word do. -/

namespace Sys2Proof.Machine

@[simp] theorem State.core_modCore (s : State) (f : Core → Core) : (s.modCore f).core = f s.core := by
  simp [State.core, State.modCore, State.setCore]

theorem State.cores_modCore (s : State) (f : Core → Core) (j : Fin 128) (h : j ≠ s.cur) :
    (s.modCore f).cores[j] = s.cores[j] := by
  have : s.cur.val ≠ j.val := fun e => h (Fin.ext e.symm)
  simp [State.modCore, State.setCore, this]

theorem State.onlyCore_modCore (s : State) (f : Core → Core) : OnlyCore s (s.modCore f) :=
  ⟨rfl, fun j h => s.cores_modCore f j h⟩

/-- A register read after a register written. -/
theorem Core.rx_wx (c : Core) (d r : XReg) (v : DWord) :
    (c.wx d v).rx r = if r = d then (if d = 0 then 0 else v) else c.rx r := by
  unfold Core.wx Core.rx
  by_cases hd : d = 0
  · by_cases hr : r = d <;> simp_all
  · by_cases hr : r = d
    · simp_all
    · have : d.toNat ≠ r.toNat := fun h => hr (BitVec.eq_of_toNat_eq h.symm)
      rw [if_neg hd, if_neg hr]
      simp [this]

theorem Core.wroteX (c : Core) (d : XReg) (v : DWord) : WroteX c (c.wx d v) d v :=
  ⟨by rw [Core.rx_wx, if_pos rfl], fun r h => by rw [Core.rx_wx, if_neg h]⟩

theorem SRegs.loopBack_aflags (r : SRegs) (b : Bool) (pc f : DWord) :
    ({ r with aflags := f }).loopBack b pc = ({ (r.loopBack b pc).1 with aflags := f }, (r.loopBack b pc).2) := by
  simp only [SRegs.loopBack, SRegs.loopOn, SRegs.loopEnd, SRegs.loopCount, SRegs.loopStart]
  split_ifs <;> (cases b <;> simp [SRegs.setCount, SRegs.setOn])

/-- The loop-back decision does not look at AFLAGS. -/
theorem SRegs.nextPc_aflags (r : SRegs) (pc f : DWord) :
    ({ r with aflags := f }).nextPc pc = ({ (r.nextPc pc).1 with aflags := f }, (r.nextPc pc).2) := by
  simp only [SRegs.nextPc, SRegs.loopBack_aflags]
  rcases h1 : r.loopBack true pc with ⟨r1, _ | t⟩
  · have h2 := SRegs.loopBack_aflags r1 false pc f
    rcases h3 : r1.loopBack false pc with ⟨r2, _ | t⟩ <;> simp [h3] at h2 <;> simp [h2, h3]
  · rfl

/-- The loop-back decision leaves AFLAGS. -/
theorem SRegs.loopBack_keeps_aflags (r : SRegs) (b : Bool) (pc : DWord) : (r.loopBack b pc).1.aflags = r.aflags := by
  simp only [SRegs.loopBack]
  split_ifs <;> (cases b <;> simp [SRegs.setCount, SRegs.setOn])

theorem SRegs.nextPc_keeps_aflags (r : SRegs) (pc : DWord) : (r.nextPc pc).1.aflags = r.aflags := by
  have a := r.loopBack_keeps_aflags true pc
  simp only [SRegs.nextPc]
  rcases h1 : r.loopBack true pc with ⟨r1, _ | t⟩
  · have b := r1.loopBack_keeps_aflags false pc
    rcases h2 : r1.loopBack false pc with ⟨r2, _ | t⟩ <;> simp_all
  · simp_all


/-- A result with its flags, written by a completed S word. -/
theorem regWord_writeFlagged (s : State) (d : XReg) (v : DWord) (fl : Flags) :
    RegWord s (s.modCore fun c => c.writeFlagged d (v, fl)) d v fl := by
  refine ⟨s.onlyCore_modCore _, ?_, ?_, ?_, ?_, ?_⟩
  · rw [State.core_modCore]; exact s.core.wroteX d v
  · simp only [State.core_modCore, coreBesideS, Core.writeFlagged, Core.orFlags, Core.advance, Core.wx]
    split <;> rfl
  · simp [Core.writeFlagged, Core.orFlags, Core.advance, SRegs.nextPc_aflags]
  · simp [Core.writeFlagged, Core.orFlags, Core.advance]
  · simp [Core.writeFlagged, Core.orFlags, Core.advance, SRegs.nextPc_aflags]

/-- A result written by a completed S word that raises nothing. -/
theorem regWord_advance (s : State) (d : XReg) (v : DWord) :
    RegWord s (s.modCore fun c => (c.wx d v).advance) d v 0 := by
  refine ⟨s.onlyCore_modCore _, ?_, ?_, ?_, ?_, ?_⟩
  · rw [State.core_modCore]; exact s.core.wroteX d v
  · simp only [State.core_modCore, coreBesideS, Core.advance, Core.wx]
    split <;> rfl
  · simp [Core.advance]
  · simp [Core.advance]
  · have h := s.core.sr.nextPc_keeps_aflags s.core.pc
    have z : BitVec.zeroExtend 64 (0 : Flags) = 0#64 := rfl
    rw [State.core_modCore, z, BitVec.or_zero, ← h]
    simp [Core.advance]

end Sys2Proof.Machine
end

