-- ==== Sys2Proof/Laws/Engine.lean ====
section
/-! SUPPORT. Laws/Engine.lean: what an engine does with a command that can start. -/

namespace Sys2Proof.Machine

@[simp] theorem State.setCore_setCore (s : State) (c d : Core) : (s.setCore c).setCore d = s.setCore d := by
  simp [State.setCore]

@[simp] theorem State.modCore_setCore (s : State) (c : Core) (f : Core → Core) :
    (s.setCore c).modCore f = s.setCore (f c) := by
  simp [State.modCore]

theorem State.modCore_eq (s : State) (f : Core → Core) : s.modCore f = s.setCore (f s.core) := rfl

/-- A footprint does not depend on the cores of the state it is taken in. -/
@[simp] theorem footprint_setCore (s : State) (d c : Core) (x : Cmd) : footprint (s.setCore d) c x = footprint s c x := rfl

@[simp] theorem heldRange_setCore (s : State) (d c : Core) (e e' : Eng) (x : Cmd) :
    heldRange (s.setCore d) c e x e' = heldRange s c e x e' := rfl

@[simp] theorem touchesGlobal_setCore (s : State) (d c : Core) (x : Cmd) :
    (s.setCore d).touchesGlobal c x = s.touchesGlobal c x := rfl

/-- The gate and the scoreboard let a command that can start. -/
theorem canStart_starts {e : Eng} {i : Instr} {g : Guard} {s : State} {c : Core} {k : Nat} {x : Cmd}
    (h : CanStart e i g s c k x) :
    groupGate e x (s.setCore c) = .ok ((), s.setCore c) ∧ startCmd e x (s.setCore c) = .ok ((), s.setCore c) := by
  constructor
  · simp only [groupGate, getCore, bind, StateT.bind, Except.bind, State.core_setCore]
    rcases ht : c.tx with _ | t
    · rfl
    · by_cases he : e = .c
      · have hm := h.member t ht he
        have : (decide (e = Eng.c) && x.phase == .waiting &&
            (!groupMember x.instr || (!isCtxe x.instr && decide (31 ≤ c.groupSize t)))) = false := by
          rcases hm with ⟨hm, hm' | hm'⟩
          · simp [hm, hm']
          · simp [hm, hm']
        simp only [this, trapIf]; rfl
      · simp only [he, decide_false, Bool.false_and, trapIf]; rfl
  · have hc : (c.holders.any fun h =>
        (decide (h.2.iseq.toNat < x.iseq.toNat) || (h.2.iseq == x.iseq && decide (engRank h.1 < engRank e))) &&
          conflicts (footprint s c x) (heldRange s c h.1 h.2 e)) = false := by
      rw [List.any_eq_false]
      intro p hp
      have := h.commands p hp
      unfold earlier at this
      by_cases hq : (decide (p.2.iseq.toNat < x.iseq.toNat) || (p.2.iseq == x.iseq && decide (engRank p.1 < engRank e))) = true
      · simp [this hq]
      · rw [Bool.not_eq_true] at hq; rw [hq]; simp
    have hs : (c.inFlight.any fun p => decide (p.iseq.toNat ≤ x.iseq.toNat) && conflicts (footprint s c x) [p.range]) =
        false := by
      rw [List.any_eq_false]
      intro p hp
      have := h.stores p hp
      by_cases hq : p.iseq.toNat ≤ x.iseq.toNat <;> simp [hq, this]
    simp only [startCmd, h.waiting, ↓reduceIte, scoreCmd, getS, getCore, footprint_setCore, heldRange_setCore, bind, StateT.bind,
      Except.bind, State.core_setCore, h.committed, hc, hs, waitIf, Bool.false_eq_true, pure, StateT.pure, Except.pure]

/-- A command that can start, whose checks, start and body answer, has executed as its body says. -/
theorem runEngFrom_ok {e : Eng} {path : Nat} {i : Instr} {g : Guard} {s : State} {c : Core} {k : Nat} {w x y z : Cmd}
    {pre start body : Cmd → M Cmd} {r t u : State} (h : CanStart e i g s c k x) (hp : pre x (s.setCore c) = .ok (w, r))
    (hs : start w r = .ok (y, t)) (hb : body y t = .ok (z, u)) :
    runEngFrom e path i g pre start body s =
      .next (u.setCore (u.core.putCmd e k { z with inGroup := e = .c && u.core.tx.isSome })) := by
  have hk : s.modCore (fun c => c.offer e (s.core.nextIx e + s.skip) i) = s.setCore c := by
    rw [State.modCore_eq, ← h.place, h.core]
  unfold runEngFrom
  simp only [hk, State.core_setCore]
  rw [← h.place, h.here]
  unfold runCmd
  simp only [State.core_setCore]
  rw [if_neg (by simp [h.resolved]), if_neg (by simp [h.holds])]
  simp only [bind, StateT.bind, Except.bind, (canStart_starts h).1, (canStart_starts h).2, hp, hs, hb]
  rfl

/-- The same for a word whose start is its checks and pops. -/
theorem runEngWith_ok {e : Eng} {path : Nat} {i : Instr} {g : Guard} {s : State} {c : Core} {k : Nat} {x y z : Cmd}
    {pre body : Cmd → M Cmd} {t u : State} (h : CanStart e i g s c k x) (hp : pre x (s.setCore c) = .ok (y, t))
    (hb : body y t = .ok (z, u)) :
    runEngWith e path i g pre body s =
      .next (u.setCore (u.core.putCmd e k { z with inGroup := e = .c && u.core.tx.isSome })) :=
  runEngFrom_ok h hp rfl hb

/-- The same for a word that pops nothing before its body. -/
theorem runEng_ok {e : Eng} {i : Instr} {g : Guard} {s : State} {c : Core} {k : Nat} {x z : Cmd}
    {body : Cmd → M Cmd} {u : State} (h : CanStart e i g s c k x) (hb : body x (s.setCore c) = .ok (z, u)) :
    runEng e i g body s = .next (u.setCore (u.core.putCmd e k { z with inGroup := e = .c && u.core.tx.isSome })) :=
  runEngWith_ok h rfl hb

/-- Another queue register is as it was. -/
theorem Core.qreg_setQreg_ne (c : Core) {n m : Nat} (l : List DWord) (h : m ≠ n) :
    (c.setQreg n l).qreg m = c.qreg m := by
  rcases c with ⟨⟩
  simp only [Core.qreg, Core.setQreg]
  simp [Vector.getD, Array.getD_eq_getD_getElem?, Ne.symm h]

/-- One entry is popped from each of several queue registers that have one. -/
theorem popSrcs_ok (s : State) (ns : List Nat) (c : Core) (hn : ns.Nodup) (h : ∀ n ∈ ns, c.qreg n ≠ []) :
    popSrcs ns (s.setCore c) = .ok (poppedEntries c ns, s.setCore (poppedCore c ns)) := by
  induction ns generalizing c with
  | nil => rfl
  | cons n ns ih =>
    obtain ⟨v, rest, hq⟩ := List.exists_cons_of_ne_nil (h n List.mem_cons_self)
    have hne : ∀ m ∈ ns, m ≠ n := fun m hm e => (List.nodup_cons.1 hn).1 (e ▸ hm)
    have hc : ∀ m ∈ ns, (c.setQreg n rest).qreg m ≠ [] := fun m hm => by
      rw [c.qreg_setQreg_ne rest (hne m hm)]; exact h m (List.mem_cons_of_mem _ hm)
    have hmap : poppedEntries (c.setQreg n rest) ns = poppedEntries c ns :=
      List.map_congr_left fun m hm => by rw [c.qreg_setQreg_ne rest (hne m hm)]
    have := ih (c.setQreg n rest) (List.nodup_cons.1 hn).2 hc
    simp only [popSrcs, getCore, bind, StateT.bind, Except.bind, State.core_setCore, hq, modCore, modS,
      State.modCore_setCore, this, hmap]
    simp only [pure, StateT.pure, Except.pure, poppedEntries, poppedCore, List.map_cons, List.foldl_cons, hq,
      List.headD_cons, List.tail_cons]

theorem poppedCore_vec (ns : List Nat) (c : Core) : (poppedCore c ns).vec = c.vec := by
  induction ns generalizing c with
  | nil => rfl
  | cons n ns ih => exact ih _

theorem poppedCore_lyconf (ns : List Nat) (c : Core) : (poppedCore c ns).lyconf = c.lyconf := by
  induction ns generalizing c with
  | nil => rfl
  | cons n ns ih => exact ih _

theorem poppedCore_perf (ns : List Nat) (c : Core) : (poppedCore c ns).perf = c.perf := by
  induction ns generalizing c with
  | nil => rfl
  | cons n ns ih => exact ih _

/-- Nothing added to a saturating count. -/
theorem satAdd_zero (x : DWord) : satAdd x 0 = x := by
  have := x.isLt
  exact BitVec.eq_of_toNat_eq (by simp [satAdd]; omega)

theorem mem_of_mem_eraseDups (n : Nat) : ∀ l : List Nat, l.length ≤ n → ∀ a ∈ l.eraseDups, a ∈ l := by
  induction n with
  | zero => intro l hl; simp_all
  | succ n ih =>
    intro l hl a ha
    rcases l with _ | ⟨b, l⟩
    · simp at ha
    · rw [List.eraseDups_cons, List.mem_cons] at ha
      rcases ha with rfl | ha
      · exact List.mem_cons_self
      · have hlen := List.length_filter_le (fun x => !x == b) l
        simp only [List.length_cons] at hl
        have := ih (l.filter fun x => !x == b) (by omega) a ha
        exact List.mem_cons_of_mem _ (List.mem_of_mem_filter this)

/-- A list without repeats has none. -/
theorem nodup_eraseDups (l : List Nat) : l.eraseDups.Nodup := by
  induction hn : l.length using Nat.strong_induction_on generalizing l with
  | _ n ih =>
    rcases l with _ | ⟨b, l⟩
    · simp
    · have hlen := List.length_filter_le (fun x => !x == b) l
      simp only [List.length_cons] at hn
      rw [List.eraseDups_cons, List.nodup_cons]
      refine ⟨fun h => ?_, ih _ (by omega) _ rfl⟩
      have := mem_of_mem_eraseDups _ _ le_rfl b h
      simp [List.mem_filter] at this

/-- The sources' values. -/
theorem readSrcs_ok (s : State) (srcs : List VSrc) (c : Core) (h : ∀ n ∈ srcQueues srcs, c.qreg n ≠ []) :
    readSrcs srcs (s.setCore c) = .ok (srcs.map (c.vec.src (poppedEntries c (srcQueues srcs))),
      s.setCore (poppedCore c (srcQueues srcs))) := by
  have := popSrcs_ok s (srcQueues srcs) c (nodup_eraseDups _) h
  simp only [readSrcs, bind, StateT.bind, Except.bind, this, getCore, State.core_setCore, poppedCore_vec]
  rfl

/-- Room for the result. -/
theorem roomFor_ok (s : State) (d : VDst) (c : Core) (h : ∀ n, dstQueue d = some n → c.qroom n = true) :
    roomFor d (s.setCore c) = .ok ((), s.setCore c) := by
  unfold roomFor
  rcases hd : dstQueue d with _ | n
  · rfl
  · simp only [needRoom, bind, StateT.bind, Except.bind, getCore, State.core_setCore, h n hd, waitIf, Bool.not_true,
      Bool.false_eq_true, ↓reduceIte]
    rfl

/-- A word that computes one result from its sources executes. -/
theorem vecRuns_vecOp {i : Instr} {g : Guard} {d : VDst} {srcs : List VSrc} {s : State}
    {f : List VReg → VReg × Flags} {P : (Nat → VReg) → VReg → Flags → Prop}
    (hi : exec i s = runEng .v i g (vecOp srcs d f) s)
    (hP : ∀ vs : List VReg, vs.length = srcs.length → P (fun n => vs.getD n 0) (f vs).1 (vectorFlags (f vs).2)) :
    VecRuns i g d srcs s P := by
  intro c k x h hr hq list vals _
  refine ⟨(f list).1, vectorFlags (f list).2, hP list (by simp [list]), ?_, ?_⟩
  · simp only [vectorFlags, BitVec.and_assoc]; simp
  · have hb : vecOp srcs d f x (s.setCore c) = .ok
        (match dstQueue d with
          | some n => (x.done (vectorFlags (f list).2)).push n (BitVec.ofNat 64 (f list).1.toNat)
          | none => x.done (vectorFlags (f list).2),
        s.setCore { poppedCore c (srcQueues srcs) with vec := c.vec.put d (f list).1 }) := by
      simp only [vecOp, bind, StateT.bind, Except.bind, roomFor_ok s d c hr, readSrcs_ok s srcs c hq, putResult, modVec,
        modCore, modS, State.modCore_setCore, poppedCore_vec]
      rfl
    rw [hi, runEng_ok h hb]
    have hl : BitVec.ofNat 32 (min (c.lyconf.toNat + 0) 0xFFFFFFFF) = (poppedCore c (srcQueues srcs)).lyconf := by
      rw [poppedCore_lyconf]
      exact BitVec.eq_of_toNat_eq (by simp; omega)
    have hp : (if s.regs.pcsel.toNat % 256 = 6 then satAdd c.perf 0 else c.perf) = (poppedCore c (srcQueues srcs)).perf := by
      rw [poppedCore_perf, satAdd_zero, ite_self]
    simp only [hl, hp, State.setCore_setCore, State.core_setCore]
    congr 2
    unfold finished
    rcases dstQueue d with _ | n <;> simp [Cmd.done, Cmd.push]

end Sys2Proof.Machine
end

