-- ==== Sys2Proof/Laws/Lane.lean ====
section
/-! SUPPORT. Laws/Lane.lean: the elements of a register built from results, and the bound of a rounded result. -/

namespace Sys2Proof.Machine

theorem packNat_lt (w : Nat) (xs : List Nat) : packNat w xs < 2 ^ (w * xs.length) := by
  induction xs with
  | nil => simp [packNat]
  | cons x xs ih =>
    have h := Nat.mod_lt x (Nat.two_pow_pos w)
    rw [packNat, List.length_cons, Nat.mul_succ, Nat.add_comm, Nat.pow_add]
    calc 2 ^ w * packNat w xs + x % 2 ^ w < 2 ^ w * packNat w xs + 2 ^ w := by omega
      _ = 2 ^ w * (packNat w xs + 1) := by ring
      _ ≤ 2 ^ w * 2 ^ (w * xs.length) := Nat.mul_le_mul_left _ ih
      _ = _ := by ring

/-- A field of a packed number. -/
theorem fieldNat_packNat (w i : Nat) (xs : List Nat) (h : i < xs.length) :
    fieldNat w i (packNat w xs) = xs[i] % 2 ^ w := by
  induction xs generalizing i with
  | nil => simp at h
  | cons x xs ih =>
    have hp := Nat.two_pow_pos w
    rcases i with _ | i
    · simp [fieldNat, packNat]
    · have h' : i < xs.length := by simpa using h
      have := ih i h'
      simp only [fieldNat, packNat, List.getElem_cons_succ] at *
      rw [Nat.mul_succ, Nat.add_comm (w * i) w, Nat.pow_add, ← Nat.div_div_eq_div_mul,
        Nat.add_mul_div_left _ _ hp, Nat.div_eq_of_lt (Nat.mod_lt _ hp), Nat.zero_add, this]

/-- An element of a register built from elements. -/
theorem elemN_ofElems (w i : Nat) (xs : List Nat) (h : i < xs.length) (hw : w * xs.length ≤ 2048) :
    elemN w (ofElems w xs) i = xs[i] % 2 ^ w := by
  have hl : packNat w xs < 2 ^ 2048 := lt_of_lt_of_le (packNat_lt w xs) (Nat.pow_le_pow_right (by decide) hw)
  rw [elemN, ofElems, BitVec.toNat_ofNat, Nat.mod_eq_of_lt hl, fieldNat_packNat w i xs h]

/-- The flags of several results together. -/
theorem getLsbD_orFlags (xs : List (Nat × Flags)) (b : Nat) :
    (orFlags xs).getLsbD b = true ↔ ∃ r ∈ xs, r.2.getLsbD b = true := by
  have aux : ∀ (ys : List (Nat × Flags)) (f : Flags),
      (ys.foldl (fun f r => f ||| r.2) f).getLsbD b = true ↔ f.getLsbD b = true ∨ ∃ r ∈ ys, r.2.getLsbD b = true := by
    intro ys
    induction ys with
    | nil => simp
    | cons y ys ih => intro f; simp [ih, or_assoc]
  simp [orFlags, aux]

theorem vectorFlags_getLsbD (f : Flags) (b : Nat) (h : b ≠ 1) : (vectorFlags f).getLsbD b = f.getLsbD b := by
  rcases b with _ | _ | b
  · simp [vectorFlags, flagDZ]
  · exact absurd rfl h
  · by_cases hb : b + 2 < 6
    · have : b = 0 ∨ b = 1 ∨ b = 2 ∨ b = 3 := by omega
      rcases this with rfl | rfl | rfl | rfl <;> simp [vectorFlags, flagDZ]
    · rw [BitVec.getLsbD_of_ge _ _ (by omega), BitVec.getLsbD_of_ge _ _ (by omega)]

/-- A register built element by element. -/
theorem elementwise_ofResults (w : Nat) (f : Nat → Nat × Flags) (hw : w * (2048 / w) ≤ 2048)
    (hf : ∀ i < 2048 / w, (f i).1 < 2 ^ w) :
    Elementwise w f (ofResults w ((List.range (2048 / w)).map f)).1
      (vectorFlags (ofResults w ((List.range (2048 / w)).map f)).2) := by
  constructor
  · intro i hi
    rw [ofResults, elemN_ofElems w i _ (by simpa using hi) (by simpa using hw)]
    simpa using Nat.mod_eq_of_lt (hf i hi)
  · intro b hb
    rw [vectorFlags_getLsbD _ _ hb]
    simp [ofResults, getLsbD_orFlags]

/-- A rounded result fits its format. -/
theorem convF_lt (f : FFmt) (m : RMode) (v : Val) : (convF f m v).1 < 2 ^ f.width := by
  have hs : ∀ b, signBits f b + f.maxBits < 2 ^ f.width := by intro b; cases f <;> cases b <;> decide
  have hi : ∀ b, f.hasInf = true → signBits f b + f.infBits < 2 ^ f.width := by
    intro b; cases f <;> cases b <;> decide
  have hn : f.nanBits < 2 ^ f.width := by cases f <;> decide
  have hz : ∀ b, signBits f b < 2 ^ f.width := by intro b; have := hs b; omega
  have ho : ∀ b, (overflowResult f m b).1 < 2 ^ f.width := by
    intro b; cases f <;> cases m <;> cases b <;> decide
  rcases v with _ | b | ⟨b, n, e⟩
  · exact hn
  · simp only [convF]; split_ifs
    · exact hs b
    · exact hi b ‹_›
    · exact hn
    · exact hs b
  · simp only [convF]; split_ifs
    · exact hz b
    · unfold roundFin
      extract_lets emin lead base q
      rcases roundQuantum m b n e q with ⟨k, inex⟩
      dsimp only
      split_ifs with h
      · exact ho b
      · have := hs b; dsimp only; omega

end Sys2Proof.Machine
end

