-- ==== Sys2Proof/Laws/Memory.lean ====
section
/-! SUPPORT. Laws/Memory.lean: sorted tables and memories: every update keeps the canonical form, and a read after an
update gives what was written there and what stood elsewhere. -/

namespace Sys2Proof.Machine

section Sparse
variable {β : Type} [DecidableEq β] (d : β)

theorem sortedFrom_mono {lo lo' : Nat} (h : lo' ≤ lo) :
    ∀ l, sortedFrom d lo l = true → sortedFrom d lo' l = true
  | [], _ => rfl
  | (k, v) :: t, hl => by
    simp only [sortedFrom, Bool.and_eq_true, decide_eq_true_eq] at hl ⊢
    exact ⟨⟨by omega, hl.1.2⟩, hl.2⟩

theorem sget_below {lo : Nat} : ∀ l, sortedFrom d lo l = true → ∀ a < lo, sget d l a = d
  | [], _, _, _ => rfl
  | (k, v) :: t, hl, a, ha => by
    simp only [sortedFrom, Bool.and_eq_true, decide_eq_true_eq] at hl
    rw [sget, if_neg (by omega), if_pos (by omega)]

theorem sset_sorted (a : Nat) (x : β) : ∀ (l : List (Nat × β)) (lo : Nat), lo ≤ a → sortedFrom d lo l = true →
    sortedFrom d lo (sset d l a x) = true := by
  intro l
  induction l with
  | nil => intro lo h _; by_cases hx : x = d <;> simp [sset, sortedFrom, hx, h]
  | cons p t ih =>
    obtain ⟨k, v⟩ := p
    intro lo h hl
    have hs := hl
    simp only [sortedFrom, Bool.and_eq_true, decide_eq_true_eq] at hl
    obtain ⟨⟨h1, h2⟩, h3⟩ := hl
    simp only [sset]
    split_ifs with c1 hx c2 hx
    · exact hs
    · simp [sortedFrom, h, hx, h2, h3, c1]
    · exact sortedFrom_mono d (by omega) _ h3
    · simp [sortedFrom, hx, h, c2 ▸ h3]
    · simp [sortedFrom, h1, h2, ih (k + 1) (by omega) h3]

theorem sget_sset (a : Nat) (x : β) (b : Nat) : ∀ (l : List (Nat × β)) (lo : Nat), sortedFrom d lo l = true →
    sget d (sset d l a x) b = if b = a then x else sget d l b := by
  intro l
  induction l with
  | nil =>
    intro lo _
    by_cases hx : x = d <;> by_cases hb : b = a <;> simp [sset, sget, hx, hb]
  | cons p t ih =>
    obtain ⟨k, v⟩ := p
    intro lo hl
    simp only [sortedFrom, Bool.and_eq_true, decide_eq_true_eq] at hl
    obtain ⟨⟨h1, h2⟩, h3⟩ := hl
    have hlow : ∀ c < k + 1, sget d t c = d := sget_below d t h3
    have ih' := ih (k + 1) h3
    rw [sset]
    by_cases c1 : a < k
    · rw [if_pos c1]
      by_cases hx : x = d
      · rw [if_pos hx]
        by_cases hb : b = a
        · rw [if_pos hb, sget, if_neg (by omega), if_pos (by omega), hx]
        · rw [if_neg hb]
      · rw [if_neg hx]
        by_cases hb : b = a
        · rw [if_pos hb, sget, if_pos hb]
        · rw [if_neg hb, sget, if_neg hb]
          by_cases c : b < a
          · rw [if_pos c, sget, if_neg (by omega), if_pos (by omega)]
          · rw [if_neg c]
    · rw [if_neg c1]
      by_cases c2 : a = k
      · subst c2
        rw [if_pos rfl]
        by_cases hb : b = a
        · subst hb
          by_cases hx : x = d
          · rw [if_pos hx, if_pos rfl, hlow b (by omega), hx]
          · rw [if_neg hx, if_pos rfl, sget, if_pos rfl]
        · rw [if_neg hb, sget, if_neg hb]
          by_cases hx : x = d
          · rw [if_pos hx]
            by_cases c : b < a
            · rw [if_pos c, hlow b (by omega)]
            · rw [if_neg c]
          · rw [if_neg hx, sget, if_neg hb]
      · rw [if_neg c2, sget, sget, ih']
        by_cases hb : b = a
        · simp only [if_pos hb]
          rw [if_neg (by omega), if_neg (by omega)]
        · simp only [if_neg hb]

end Sparse

theorem readByte_writeByte {m : Mem} (h : Memory.wf m = true) (a b : Nat) (x : Byte) :
    readByte (writeByte m a x) b = if b = a then x else readByte m b := sget_sset 0 a x b m 0 h

theorem writeByte_wf {m : Mem} (h : Memory.wf m = true) (a : Nat) (x : Byte) : Memory.wf (writeByte m a x) = true :=
  sset_sorted 0 a x m 0 (Nat.zero_le a) h

theorem writeBytes_wf (ys : List Byte) : ∀ {m : Mem}, Memory.wf m = true → ∀ a, Memory.wf (writeBytes m a ys) = true := by
  induction ys with
  | nil => exact fun h _ => h
  | cons y ys ih => exact fun h a => ih (writeByte_wf h a y) (a + 1)

theorem writeLE_wf {m : Mem} (h : Memory.wf m = true) (a n x : Nat) : Memory.wf (writeLE m a n x) = true :=
  writeBytes_wf _ h a

theorem wroteBytes_writeBytes (ys : List Byte) : ∀ {m : Mem}, Memory.wf m = true → ∀ a,
    WroteBytes m (writeBytes m a ys) a ys := by
  induction ys with
  | nil => intro m _ a k; simp [writeBytes]
  | cons y ys ih =>
    intro m h a k
    rw [writeBytes, ih (writeByte_wf h a y) (a + 1) k, readByte_writeByte h]
    rcases Nat.lt_trichotomy k a with c | c | c
    · rw [if_neg (by omega), if_neg (by omega), if_neg (by omega)]
    · subst c
      rw [if_neg (by omega), if_pos rfl, if_pos (by simp)]
      simp
    · by_cases e : k < a + (ys.length + 1)
      · rw [if_pos (by omega), if_pos (by simp; omega)]
        rw [show k - a = (k - (a + 1)) + 1 from by omega]
        simp
      · rw [if_neg (by omega), if_neg (by omega), if_neg (by simp; omega)]

theorem readBytes_writeBytes {m : Mem} (h : Memory.wf m = true) (a : Nat) (ys : List Byte) :
    readBytes (writeBytes m a ys) a ys.length = ys := by
  apply List.ext_getElem
  · simp [readBytes]
  · intro i h1 h2
    simp only [readBytes, List.getElem_map, List.getElem_range]
    rw [wroteBytes_writeBytes ys h a, if_pos (by omega), Nat.add_sub_cancel_left, List.getD_eq_getElem]

theorem reset_memory_wf : Memory.wf State.reset.mem = true := rfl

@[simp] theorem leBytes_length (n : Nat) : ∀ x, (leBytes n x).length = n := by
  induction n with
  | zero => exact fun _ => rfl
  | succ n ih => exact fun x => by simp [leBytes, ih]

theorem leNat_leBytes (n : Nat) : ∀ x, leNat (leBytes n x) = x % 256 ^ n := by
  induction n with
  | zero => exact fun x => by simp [leBytes, leNat, Nat.mod_one]
  | succ n ih =>
    intro x
    rw [leBytes, leNat, ih, pow_succ', Nat.mod_mul]
    simp

theorem readLE_writeLE {m : Mem} (h : Memory.wf m = true) (a n x : Nat) :
    readLE (writeLE m a n x) a n = x % 256 ^ n := by
  have := readBytes_writeBytes h a (leBytes n x)
  rw [leBytes_length] at this
  rw [readLE, writeLE, this, leNat_leBytes]

end Sys2Proof.Machine
end

