-- ==== Sys2Proof/Tests/Slice0.lean ====
section
/-! SUPPORT. Tests/Slice0.lean: ill-formed terms that the checks refuse, words written out in the spec that decode to
the instructions they stand for, states and operands that meet the hypotheses of each statement, and a few steps with
results that the spec works out. -/

namespace Sys2Proof.Tests

open Sys2Proof Sys2Proof.Machine

set_option Elab.async false

noncomputable section

/-! ## What WellFormed refuses (R52 to R67) -/

theorem test_wf_refuses_scalar :
    ([.qfence 0, .srw .pc 1, .srw .ctxid 1, .srw (.lix 3) 1, .srw .seed 1, .loop false 1 0, .pushm 5 4, .popm 2 1,
      .gopen 1, .gset 0 3, .qput 7 1, .qget 1 8, .lsqInfo 1 7, .lsqInfo 1 16] : List Instr).all (fun i => !i.wf) = true := by
  decide +kernel

theorem test_wf_refuses_vector :
    ([.vaddF32 true (.o 1) (.q 0) (.o 2) 0, .vaddF32 true (.q 1) (.o 0) (.o 2) 0, .vabsI32 true (.o 1) (.q 3) 0,
      .vld true (.q 0) 1 0 0, .vst true 1 (.q 0) 0 0, .vgath true (.o 1) 1 (.q 2) 0, .vscat true 1 (.o 1) (.q 2) 0,
      .vfmaF32 false (.q 0) (.o 1) (.o 2) 0, .vfmsBf16 false (.q 0) (.o 1) (.o 2) 0, .vsel false (.q 0) (.o 1) (.o 2) 0,
      .vins false (.q 0) (.o 1) 0 0, .vcvtBf16F32 false (.q 0) (.o 1) 0 .rne 0, .vcvtBf16F32 false (.o 0) (.o 1) 2 .rne 0,
      .vcvtE4F32 false (.o 0) (.o 1) 4 .rne 0, .vcvtI32F32 false (.o 0) (.o 1) 1 .rne 0, .vcvtF32F16 false (.o 0) (.o 1) 2 .rne 0,
      .vsig 1 (some 0) 0, .vgset .any 1 (.o 1) 0] : List Instr).all (fun i => !i.wf) = true := by decide +kernel

theorem test_wf_refuses_matrix_copy :
    ([.mzero 0 0, .msig 1 (some 0) 0, .csig 1 (some 0) 0, .csigNf 1 (some 0) 0] : List Instr).all (fun i => !i.wf) = true := by
  decide +kernel

theorem test_wf_refuses_events :
    ([.commandComplete 128 .v, .leaseGrant 32, .relocationTake 0 .v 128, .flitReceive 10 true, .debugWrite 128 0 0] :
      List Instr).all (fun i => !i.wf) = true := by decide +kernel

/-! ## Words of the spec (R59 to R69 and the examples of the instructions' chapters) -/

theorem test_decode_alu :
    decode .s 0x04642805 = some (.div 3 4 5) ∧ decode .s 0x11408000 = some (.ori 10 0 0x8000) ∧
    decode .s 0x254A0100 = some (.hii 10 10 0x0100) ∧ decode .s 0x18640085 = some (.srai 3 4 5) := by decide +kernel

theorem test_decode_scalar_memory :
    decode .s 0x38A30008 = some (.ldW 5 3 8) ∧ decode .s 0x4CA30008 = some (.ldf 5 3 8) ∧
    decode .s 0x59CA0000 = some (.stW 14 10 0) ∧ decode .s 0x60032000 = some (.redAdd 3 4 false) ∧
    decode .s 0x60032006 = some (.redFmax 3 4) ∧ decode .s 0x600A1014 = some (.redMax 10 2 true) := by decide +kernel

/-- `beq x1, x2, -1` (major 0x20, R55, R167), `pushm x16, x23` and `loop l1, x5, 3`, from the formats. -/
theorem test_decode_flow :
    decode .s 0x8022FFFF = some (.beq 1 2 0xFFFF) ∧
     decode .s (0xB8000000 + 16 * 2 ^ 16 + 23 * 2 ^ 11) = some (.pushm 16 23) ∧
    decode .s (0xB0000000 + 2 ^ 25 + 5 * 2 ^ 20 + 3) = some (.loop true 5 3) ∧
    decode .s (0xA4000000 + 7) = some (.call 7) ∧ decode .s 0xA8000000 = some .ret := by decide +kernel

theorem test_decode_system :
    decode .s 0 = some .nop ∧ decode .s 0x00C00067 = some (.srr 6 .tcause) ∧ decode .s 0x00010048 = some (.srw .tvec 1) ∧
    decode .s 0x00000053 = some (.trap 5) ∧ decode .s 0x00000046 = some (.qfence 4) ∧
     decode .s 0x00000076 = some (.qfence 7) ∧
    decode .s 4 = some .eret ∧ decode .s 5 = some .tfence ∧ decode .s 9 = some .endJob := by decide +kernel

theorem test_decode_queue :
    decode .s 0xC0070041 = some (.gset 4 7) ∧ decode .s 0xC4000030 = some (.sig 3 0) ∧
    decode .s 0xC4090230 = some (.sigRemote 3 9 0) ∧ decode .s 0xC4090630 = some (.sigNf 3 9 0) ∧
    decode .s 0xC8000030 = some (.wait 3 0) ∧ decode .s 0xCC050090 = some (.qput 9 5) ∧
    decode .s 0xCCC00001 = some (.qget 6 0) := by decide +kernel

theorem test_decode_objects :
    decode .s 0xD8A00001 = some (.lsqNext 5) ∧ decode .s 0xD8C00022 = some (.lsqInfo 6 2) ∧
    decode .s 0xE8030020 = some (.lyset 2 3) ∧ decode .s 0xE8042811 = some (.lyseth 1 4 5) ∧
    decode .s 0xE8090032 = some (.bdset 3 9) ∧ decode .s 0xD4050020 = some (.evSet 5 2) ∧
    decode .s 0xD4050001 = some (.evClr 5 0) ∧ decode .s 0xD4060032 = some (.evWait 6 3) ∧
    decode .s 0xD8030000 = some (.childLaunch 3) ∧ decode .s 0xD00A6800 = some (.barInit 10 13) ∧
    decode .s 0xD00A5801 = some (.barArrive 10 11) ∧ decode .s 0xD00A5C01 = some (.barArriveNf 10 11) ∧
    decode .s 0xD00A5802 = some (.barWait 10 11) ∧ decode .s 0xD00A6003 = some (.barXin 10 12) ∧
    decode .s 0xD00A6004 = some (.barXout 10 12) := by decide +kernel

theorem test_decode_services :
    decode .s 0xDC042800 = some (.pgCnt 4 5) ∧ decode .s 0xDC042801 = some (.pgHintUp 4 5) ∧
    decode .s 0xDC042811 = some (.pgHintDown 4 5) ∧ decode .s 0xDC040002 = some (.tlbInvPage 4) ∧
    decode .s 0xDC000012 = some .tlbInvCtx ∧ decode .s 0xDC000022 = some .tlbInvAll ∧
    decode .s 0xE0040010 = some (.mbPostB 4 0) ∧ decode .s 0xE0000001 = some (.mbDone 0) ∧
    decode .s 0xE0030002 = some (.mbPol 3) ∧ decode .s 0xE1200013 = some (.mbVerNew 9) ∧
    decode .s 0xE40C0000 = some (.gnset 0 12) ∧ decode .s 0xE4030050 = some (.gnset 5 3) ∧
    decode .s 0xEC050000 = some (.trcMark 5) ∧ decode .s 0xECC00021 = some (.digRd 6 2) := by decide +kernel

theorem test_decode_vector :
    decode .v 0x101B05D0 = some (.vfmaF32 false (.o 11) (.v 1) (.o 13) 0) ∧
    decode .v 0x385B7C70 = some (.vbcast false (.o 11) (.o 15) 7 0) ∧ decode .v 0x3C207000 = some (.vmov .lrl (.o 12) 0) ∧
    decode .v 0x281D7010 = some (.vsel false (.o 13) (.o 12) (.v 1) 0) ∧
    decode .v 0x2D1C7400 = some (.vcvtI32F32 false (.o 12) (.o 13) 0 .rne 0) ∧
    decode .v 0x2C021490 = some (.vcvtBf16F32 false (.v 2) (.v 5) 1 .rtz 0) ∧
    decode .v 0x40030850 = some (.vld false (.v 3) 2 5 0) ∧ decode .v 0x30861010 = some (.vquantE4 (.v 6) (.v 4) .g32 0) ∧
    decode .v 0x84010930 = some (.vaddF32 true (.v 1) (.v 2) (.o 3) 0) ∧
    decode .v 0x5048FE00 = some (.vimm 0 (.o 2) 0x3F80 0) ∧ decode .v 0x5C041050 = some (.vheapm 4 4 5 0) ∧
    decode .v 0x5C441050 = some (.vnormm 4 4 5 0) ∧ decode .v 0x60018000 = some (.vsig 3 none 0) ∧
    decode .v 0x60418000 = some (.vwait 3 0) := by decide +kernel

theorem test_decode_matrix :
    decode .m 0x05008C00 = some (.mma 2 (.ly 0) (.bd 1) 1 true false false 0 0) ∧
    decode .m 0x058C0C00 = some (.mma 3 (.ly 1) (.gn 0) 1 true false false 0 0) ∧
    decode .m 0x0789A040 = some (.mma 7 (.ly 1) (.bd 3) 4 false false false 4 0) ∧
    decode .m 0x04068902 = some (.mma 0 (.ly 0) (.gn 5) 1 false false true 0 2) ∧
    decode .m 0x08090000 = some (.mzero 0x24 0) ∧ decode .m 0x0C011000 = some (.mvpBegin 0 1 1 false 0) ∧
    decode .m 0x0C400000 = some (.mvpTile 0 0) ∧ decode .m 0x0C800000 = some (.mvpEnd 0) ∧
    decode .m 0x0CA00000 = some (.mvpEndDrop 0) ∧ decode .m 0x0CC40000 = some (.mvpRegen 0 4 false 0) ∧
    decode .m 0x10418000 = some (.msig 3 none 0) ∧ decode .m 0x10818000 = some (.mwait 3 0) := by decide +kernel

theorem test_decode_copy :
    decode .c 0x04010000 = some (.ccopy false 1 0 none 0) ∧ decode .c 0x08014000 = some (.cplane false 1 4 none 0) ∧
    decode .c 0x0C032040 = some (.cconv false 3 2 none .sat 0) ∧ decode .c 0x10056070 = some (.cgath false 5 6 none 7 0) ∧
    decode .c 0x10456070 = some (.cscat false 5 6 none 7 0) ∧ decode .c 0x14020010 = some (.cfill false 2 none true 0) ∧
    decode .c 0x18032000 = some (.cdrain false 3 2 none false .rne 0) ∧ decode .c 0x1C000000 = some (.ctxb 0) ∧
    decode .c 0x1C400000 = some (.ctxe 0) ∧ decode .c 0x20000000 = some (.cput false 0) ∧
    decode .c 0x20400010 = some (.cputred true 0) ∧ decode .c 0x24000000 = some (.carm 0) ∧
    decode .c 0x24400000 = some (.cadd false 0) ∧ decode .c 0x28041000 = some (.csend 4 1 0) ∧
    decode .c 0x28440020 = some (.crecv 4 true 0) ∧ decode .c 0x28840000 = some (.crel 4 0) ∧
    decode .c 0x2C002010 = some (.cstash 2 0 true 0) ∧ decode .c 0x2C410000 = some (.cfetch 1 0 false 0) ∧
    decode .c 0x2C800000 = some (.cdrop 0 0) ∧ decode .c 0x2CC00010 = some (.cpref true 0) ∧
    decode .c 0x30018000 = some (.csig 3 none 0) ∧ decode .c 0x30418000 = some (.cwait 3 0) := by decide +kernel

/-- Unassigned majors, a non-zero word of major 0 outside S, a reserved field (R49, R50). -/
theorem test_decode_refuses :
    decode .s 0xFC000000 = none ∧ decode .v 1 = none ∧ decode .m 1 = none ∧ decode .c 1 = none ∧
    decode .s 0x04642806 = some (.divs 3 4 5) ∧ decode .s 0x0464281B = none ∧
     decode .s 0x04642818 = none := by decide +kernel

/-! ## States that meet the hypotheses of the statements

One theorem for each statement, one conjunct for each set of hypotheses of its clauses, at a boundary value where a
clause has a range. -/

/-- A result of a meaning that is no stop. -/
def isOk {α : Type} (r : Except (Stop × DWord) (α × State)) : Bool :=
  match r with
  | .ok _ => true
  | .error _ => false

/-- The state a meaning leaves. -/
def stOf {α : Type} (r : Except (Stop × DWord) (α × State)) : State :=
  match r with
  | .ok (_, u) => u
  | .error _ => State.reset

/-- Its value. -/
def valOf {α : Type} (d : α) (r : Except (Stop × DWord) (α × State)) : α :=
  match r with
  | .ok (v, _) => v
  | .error _ => d

theorem ok_of {α : Type} (d : α) {r : Except (Stop × DWord) (α × State)} (h : isOk r = true) : r = .ok (valOf d r, stOf r) := by
  rcases r with e | ⟨v, u⟩
  · exact absurd h (by simp [isOk])
  · rfl

/-- A meaning that only checks and answers leaves the state. -/
theorem checks {α : Type} {m : M α} {s : State} (h : OnlyChecks m) (ok : isOk (m s) = true) :
    ∃ v, m s = .ok (v, s) := by
  rcases hm : m s with e | ⟨v, t⟩
  · rw [hm] at ok; exact absurd ok (by simp [isOk])
  · exact ⟨v, by rw [h s v t hm]⟩

theorem checked {m : M Unit} {s : State} (h : OnlyChecks m) (ok : isOk (m s) = true) : m s = .ok ((), s) :=
  (checks h ok).elim fun _ e => e

/-- A launch record of a COSCHED group of one core. -/
def rec0 : PoolRec where
  ctx := 1
  record := { khandle := 0, gprio := 0, phb := false, pblen := 0, param := 0, part := 1, wait := 0, set := 0xF }
  depth := 0
  copy := none
  desc := 0
  ready := some 0
  reserve := false
  pick := none

/-- Its group, running on core 0. -/
def group0 : Group where
  ctx := 1
  src := rec0
  state := .running
  seqno := 0
  reads := []
  registered := true
  cosched := true
  nbar := 1
  jobs := []
  outs := []
  given := []
  placed := [0]
  ended := []

/-- A live output at VA 0x8000 to 0x8FFF that its job alone writes. -/
def out0 : LiveOut :=
  { base := 0x8000, limit := 0x9000, kind := .priv, outidx := 0, phbar := none, slot := 0, cn := 0, complete := 0, reg := 0 }

/-- A job runs on core 0 with a handler, a stack of 31 words and entries in its queue registers, in a PRIV context whose
group has a live output; the code's page maps VA 0 to 1 GiB. -/
def s0 : State :=
  let s := State.reset.placeBundle 0
  { s with
    cores := s.cores.set 0 { placedCore with
      sr := { placedCore.sr with tvec := 0x2000, sp := 0xF8, slimit := 0x1F0 }, q := Vector.replicate 16 [5] }
    ctxs := s.ctxs.set 0 { placedContext with outs := [(0, some out0)], cores := BitVec.allOnes 128 }
    groups := s.groups.set 0 (some group0)
    leases := s.leases.set 0 { holder := some 0, lastPos := 0, started := 0, len := 16 }
    agenda := [] }

/-- With values in X registers. -/
def withX (l : List (XReg × DWord)) : State := s0.modCore fun c => l.foldl (fun c p => c.wx p.1 p.2) c

/-- With the executing core changed. -/
def withCore (f : Core → Core) : State := s0.modCore f

/-- With its context changed. -/
def withCtx (f : Context → Context) : State := { s0 with ctxs := s0.ctxs.set 0 (f (s0.ctxs[0])) }

theorem met_AluRegisterResults :
    (s0.core.rx 0 = 0) ∧ (withX [(2, 7)]).core.rx 2 ≠ 0 ∧
    ((withX [(1, 0x8000000000000000), (2, 0xFFFFFFFFFFFFFFFF)]).core.rx 1).toInt = -(2 ^ 63) ∧
    ((withX [(1, 0x8000000000000000), (2, 0xFFFFFFFFFFFFFFFF)]).core.rx 2).toInt = -1 := by decide +kernel

theorem met_BranchesAndJumps :
    s0.core.rx 1 = s0.core.rx 2 ∧ (withX [(1, 7)]).core.rx 1 ≠ s0.core.rx 2 ∧
    ((withX [(1, -1)]).core.rx 1).toInt < (s0.core.rx 2).toInt ∧
     ((withX [(1, -1)]).core.rx 2).toNat < ((withX [(1, -1)]).core.rx 1).toNat ∧
    ((withX [(1, 0xFFFFFFFFFFFFFFF0)]).core.rx 1).toNat % 16 = 0 := by decide +kernel

/-- `call` where the push reaches SBASE, `pushm` of all but one register; pops that reach SLIMIT. -/
theorem met_StackWords :
    Memory.wf s0.core.xs = true ∧ bits s0.core.sr.sp.toNat 31 0 % 8 = 0 ∧
    (bits s0.core.sr.sbase.toNat 31 0 + 8 * 31 ≤ bits s0.core.sr.sp.toNat 31 0 ∧ XsAllows s0 0 (8 * 31) ∧
      Unblocked s0 [⟨.xs, 0, 0xF8, true⟩]) ∧
    (bits s0.core.sr.sp.toNat 31 0 + 8 * 31 ≤ bits s0.core.sr.slimit.toNat 31 0 ∧ XsAllows s0 0xF8 (8 * 31) ∧
      Unblocked s0 [⟨.xs, 0xF8, 0x1F0, false⟩]) ∧
    (BitVec.ofNat 64 (readLE s0.core.xs 0xF8 8)).toNat % 16 = 0 := by
  unfold XsAllows Unblocked; decide +kernel

/-- The last eight bytes that a program may access. -/
theorem met_LocalLoadsAndStores :
    let s := withX [(1, 0x8000000000000000 + 0x100000 - 16)]
    let ea := BitVec.ofInt 64 ((s.core.rx 1).toNat + (0xFFF8 : Half).toInt)
    Memory.wf s.core.xs = true ∧ ea.toNat / 2 ^ 32 = 2 ^ 31 ∧ ea.toNat % 8 = 0 ∧ XsAllows s (ea.toNat % 2 ^ 32) 8 ∧
      Unblocked s [⟨.xs, ea.toNat % 2 ^ 32, ea.toNat % 2 ^ 32 + 8, true⟩] := by
  unfold XsAllows Unblocked; decide +kernel

/-- The last eight bytes of the leaf's page; for the plain page outside the live output. -/
theorem met_GlobalLoads :
    let s := withX [(1, 0x40000000)]
    let va := (BitVec.ofInt 64 ((s.core.rx 1).toNat + (0xFFF8 : Half).toInt)).toNat
    va < 2 ^ 57 ∧ va % 8 = 0 ∧ Unblocked s [⟨.glob, va, va + 8, false⟩] ∧
      isOk (readGlobal false rawFmt va 8 s) = true ∧ isOk (ldfGlobal (BitVec.ofNat 64 va) s) = true ∧
      PlainPage s va placedLeaf := by
  unfold Unblocked PlainPage; decide +kernel

/-- The last eight bytes of the live output; 15 range-table entries are in use. -/
theorem met_GlobalStoresArePosted :
    let s := withX [(1, 0x8FF8)]
    let r := writeTarget .store rawFmt 0x8FF8 8 s
    let q := writeTarget .red rawFmt 0x8FF8 8 s
    0x8FF8 < 2 ^ 57 ∧ 0x8FF8 % 8 = 0 ∧ s.core.rangeEntries < 16 ∧
      Unblocked (stOf r) [⟨.glob, 0x8FF8, 0x8FF8 + 8, true⟩] ∧ Unblocked (stOf q) [⟨.glob, 0x8FF8, 0x8FF8 + 8, true⟩] ∧
      (isOk r = true ∧ (stOf r).core = s.core) ∧
      checkWrites false ((List.range 8).map fun k => 0x8FF8 + k) (stOf r) = .ok ((), stOf r) ∧
      (isOk q = true ∧ (stOf q).core = s.core) ∧
      checkWrites true ((List.range 8).map fun k => 0x8FF8 + k) (stOf q) = .ok ((), stOf q) := by
  unfold Unblocked
  refine ⟨?_, ?_, ?_, ?_, ?_, ?_, checked (.checkWrites _ _) ?_, ?_, checked (.checkWrites _ _) ?_⟩ <;> decide +kernel

/-- A posted store and a posted `red.add` of the last eight bytes of the live output. -/
theorem met_PostedWritesArePerformed : ([none, some .add] : List (Option RedOp)).all (fun op =>
    let p : Posted := ⟨0x8FF8, placedLeaf, .plain 0x8FF8, 8, 5, op, 0, none, false⟩
    let s := withCore fun c => { c with posted := [p] }
    let r := homeCheck true (p.op.map fun o => ropCode o p.width) p.va.toNat [0x8FF8 / 64] { s with cur := 0 }
    Memory.wf s.mem && decide ((s.coreAt 0).posted[0]? = some p) && decide (p.leaf.leaf.getLsbD 11 = false) && isOk r &&
      decide (s.frozenAt 0 = false ∧
       (stOf r).regs.tlbinvNext = []) && decide ((stOf r).mem = s.mem) &&
      decide ((stOf r).cur = 0) && decide ((stOf r).coreAt 0 = s.coreAt 0)) = true := by
  decide +kernel

/-- The walk of a sequencer with one tile left; a group of a launch and one of a pick. -/
theorem met_SpecialRegisterReads :
    s0.slotOf s0.curCtx = some 0 ∧
    (let j := { placedJob with left := 1, tiles := 1, levels := [(1, 1)], perm := [7] }
     let s := withCore fun c => { c with job := some j }
     s.core.job = some j ∧ j.left ≠ 0 ∧ j.perm.Nodup ∧ j.perm[0]? = some 7 ∧ (walkCoords j.walk j.nextWalk)[0]? = some 0 ∧
      (0 : BitVec 3).toNat ∉ j.perm) ∧
    group0.src.pick = none := by decide +kernel

theorem met_SpecialRegisterWrites :
    (s0.slotOf s0.curCtx).isSome = true ∧ s0.context.priv = true ∧
    (let s := withCtx fun x => { x with priv := false }
     (s.slotOf s.curCtx).isSome = true ∧ s.context.priv = false ∧ CanTrap s) := by
  unfold CanTrap; decide +kernel

theorem met_TrapsAreTaken :
    (CanTrap s0 ∧ s0.core.dbgArm = false ∧ s0.core.vq = [] ∧ s0.core.mq = [] ∧ s0.core.cq = []) ∧
    (let s := withCore fun c => { c with sr := { c.sr with tvec := 0 } }
     s.core.job = some placedJob ∧ s.slotOf placedJob.ctx = some 0 ∧ s.ctxs[0].state = .running ∧ s.cutNow s.cur = true ∧
      s.core.pendingTrap = none ∧ s.core.sr.tvec = 0) ∧
    (let s := withCore fun c => { c with sr := { c.sr with tcause := 0x8000000000000001 } }
     s.core.sr.active = true ∧ s.cutNow s.cur = true) := by
  unfold CanTrap; decide +kernel

/-- An address of neither form (the least above each form); the least misaligned; the last bytes of XS crossed by one
access; a stack pointer not a multiple of 8, a push one word too long and a pop one word too long. -/
theorem met_ScalarFaultsTrap :
    CanTrap s0 ∧
    (let ea := (withX [(1, 0x200000000000000)]).core.rx 1
     ¬ea.toNat < 2 ^ 57 ∧ ¬ea.toNat / 2 ^ 32 = 2 ^ 31) ∧
    (let ea := (withX [(1, 0x8000000100000000)]).core.rx 1
     ¬ea.toNat < 2 ^ 57 ∧ ¬ea.toNat / 2 ^ 32 = 2 ^ 31) ∧
    (let ea := (withX [(1, 0x1FFFFFFFFFFFFFF)]).core.rx 1
     ea.toNat < 2 ^ 57 ∧ ea.toNat % 2 ≠ 0) ∧
    (let s := withX [(1, 0x80000000000FFFF0)]
     let ea := s.core.rx 1
     ea.toNat / 2 ^ 32 = 2 ^ 31 ∧ ea.toNat % 8 = 0 ∧ s.core.barBase < ea.toNat % 2 ^ 32 + 4 ∧ CanTrap s) ∧
    ((withX [(1, 8)]).core.rx 1).toNat % 16 ≠ 0 ∧
    (let s := withCore fun c => { c with sr := { c.sr with sp := 4 } }
     bits s.core.sr.sp.toNat 31 0 % 8 ≠ 0 ∧ CanTrap s) ∧
    (bits s0.core.sr.sp.toNat 31 0 % 8 = 0 ∧ bits s0.core.sr.sp.toNat 31 0 < bits s0.core.sr.sbase.toNat 31 0 + 8 * 32) ∧
    bits s0.core.sr.slimit.toNat 31 0 < bits s0.core.sr.sp.toNat 31 0 + 8 * 32 := by
  unfold CanTrap; decide +kernel

/-- The last bytes of a page without R, or without W; `ldf` at an address that RAW and that BF16 do not take; a popped
target that is no bundle's. -/
theorem met_ScalarFaultsTrap_pages :
    (∀ p ∈ [((0xF1 : DWord), 3), (0xE9, 4)],
     let e : TlbEntry := { placedLeaf with leaf := p.1 }
     let s := { (withX [(1, 0x3FFFFFF8)]) with tlb := [e] }
     let ea := s.core.rx 1
     (ea.toNat < 2 ^ 57 ∧ s.core.job.isSome ∧ s.tlb.find? (fun e => e.covers s.curCtx ea.toNat) = some e) ∧
      ea.toNat % 8 = 0 ∧ e.leaf.getLsbD p.2 = false ∧ Unblocked s [⟨.glob, ea.toNat, ea.toNat + 8, false⟩] ∧ CanTrap s) ∧
    (∀ p ∈ [((0xF9 : DWord), (0x3FFFFFFE : DWord)), (0x60000000000000F9, 0x3FFFFFFF)],
     let e : TlbEntry := { placedLeaf with leaf := p.1 }
     let s := { (withX [(1, p.2)]) with tlb := [e] }
     let ea := s.core.rx 1
     (ea.toNat < 2 ^ 57 ∧ s.core.job.isSome ∧ s.tlb.find? (fun e => e.covers s.curCtx ea.toNat) = some e) ∧
      e.leaf.getLsbD 3 = true ∧ leafAperture e.leaf = false ∧
      ((leafFmtBits e.leaf = 0 ∧ ea.toNat % 4 ≠ 0) ∨ ((leafFmtBits e.leaf = 6 ∨ leafFmtBits e.leaf = 7) ∧
       ea.toNat % 2 ≠ 0)) ∧
      CanTrap s) ∧
    (let s := withCore fun c => { c with xs := writeLE c.xs 0xF8 8 0x1008 }
     bits s.core.sr.sp.toNat 31 0 = 0xF8 ∧ 0xF8 + 8 ≤ bits s.core.sr.slimit.toNat 31 0 ∧ XsAllows s 0xF8 8 ∧
      Unblocked s [⟨.xs, 0xF8, 0xF8 + 8, false⟩] ∧ (BitVec.ofNat 64 (readLE s.core.xs 0xF8 8)).toNat % 16 ≠ 0 ∧
       CanTrap s) := by
  unfold CanTrap Unblocked
  refine ⟨?_, ?_, ?_⟩
  · intro p hp; fin_cases hp <;> decide +kernel
  · intro p hp; fin_cases hp <;> decide +kernel
  · unfold XsAllows; decide +kernel

/-- A handler whose TPC has bits that the PC does not hold, at the bundle of an `end`. -/
theorem met_EretReturns :
    (let s := withCore fun c => { c with
       sr := { c.sr with tcause := 0x8000000000000001, tpc := 0x100F }, drainAt := some 0x1000 }
     s.core.sr.active = true ∧ s.core.vq = [] ∧ s.core.mq = [] ∧ s.core.cq = [] ∧ s.core.sr.tqueue.getLsbD 8 = false ∧
      s.core.drainAt = some (s.core.sr.tpc &&& 0xFFFFFFFFFFFFFFF0)) ∧
    (s0.core.sr.active = false ∧ s0.cutNow s0.cur = true ∧ s0.core.pendingTrap = none ∧ s0.core.sr.tvec ≠ 0 ∧
      s0.core.debug ≠ .stepping) := by decide +kernel

/-- An OPEN pair with a command that waits on it strands its guard; a `ctxb` without its `ctxe`. -/
theorem met_FencesAndEnd :
    (s0.core.vq = [] ∧ s0.core.mq = [] ∧ s0.core.sr.aflags &&& s0.core.sr.afmask = 0) ∧
    (let s := withCore fun c => { c with sr := { c.sr with aflags := 1, afmask := 1 } }
     s.core.sr.aflags &&& s.core.sr.afmask ≠ 0 ∧ CanTrap s) ∧
    (s0.core.inFlight = [] ∧ s0.core.cq = [] ∧ s0.core.tx = none) ∧
    (s0.strandedGuard = none ∧ s0.groupOpenAtEnd = false) ∧
    (let s := withCore fun c => (c.openPair 2).setQueue .v [c.newCmd (.vmov (.o 1) (.o 2) 2) 0]
     s.strandedGuard = some 2 ∧ CanTrap s) ∧
    (let s := withCore fun c => c.setQueue .c [c.newCmd (.ctxb 0) 0]
     s.strandedGuard = none ∧ s.groupOpenAtEnd = true ∧ CanTrap s) := by
  unfold CanTrap; decide +kernel

/-- A queue register with room for its last entry; a queue with one entry; a pair without references, an OPEN pair beside
a parked command that resolves another, a RESOLVED one; an increment that just fits, one that does not, a wait that takes
the whole count. -/
theorem met_QueueGuardAndFlagWords :
    (let s := withCore fun c => c.setQreg 9 (List.replicate 7 0)
     (s.core.q[9]).length + s.core.reserved 9 < 8) ∧
    s0.core.q[0] = 5 :: [] ∧ s0.core.hasRefs 1 = false ∧
    (let s := withCore fun c => { (c.openPair 15) with parked := [⟨.v, c.newCmd (.vgset .any 0 .zero 0) 0, .trap⟩] }
     (s.core.pair 15).isOpen = true ∧
      ∀ x ∈ s.core.vq ++ s.core.parked.map (·.cmd), x.phase = .waiting → x.resolves 7 = false) ∧
    ((s0.core.pair 2).isOpen = false ∧
     (∀ x ∈ s0.core.vq ++ s0.core.parked.map (·.cmd), x.phase = .waiting → x.resolves 1 = false) ∧
      CanTrap s0) ∧
    (let s := withX [(3, 255)]
     s.core.heldFlags = [] ∧ (s.core.flags[31]).toNat + (s.core.rx 3).toNat % 256 ≤ 255) ∧
    (let s := (withX [(3, 255)]).modCore fun c => { c with flags := c.flags.set 31 255 }
     255 < (s.core.flags[31]).toNat + 1 ∧ (s.core.rx 3).toNat % 256 ≤ (s.core.flags[31]).toNat) := by
  unfold CanTrap; decide +kernel

/-- Beside a signal that waits in a queue, to another flag. -/
theorem met_RemoteSignals :
    s0.core.job = some placedJob ∧ s0.groups.toList.getD placedJob.slot none = some group0 ∧ group0.cosched = true ∧
    (0 : Fin 128) ∈ group0.placed ++ group0.ended ∧ (s0.core.rx 1).toNat = (0 : Fin 128).val ∧ s0.core.inFlight = [] ∧
    s0.holding s0.cur (fun _ => true) = false ∧
    (∀ h ∈ s0.core.holders, h.2.performed = true ∨ s0.touchesGlobal s0.core h.2 = false) ∧
    (let s := withCore fun c => c.setQueue .m [c.newCmd (.msig 30 (some 0) 0) 0]
     s.core.holders ≠ [] ∧
      ∀ h ∈ s.core.holders, h.2.phase = .waiting → remoteTarget s.cur h.2.instr ≠ some (0, 31)) := by decide +kernel

/-- The handle of the barrier of core 0: the last 16 bytes of its declared XS. -/
def bar0 : BitVec 24 := 0xFFFF

/-- With that barrier as it is to stand. -/
def withBarrier (b : Barrier) (l : List (XReg × DWord)) : State := (withX l).putBarrier bar0 b

/-- A barrier that nothing holds back. -/
def idleBar : Barrier :=
  { action := 0, waiters := 0, phase := 0, outb := 0, inb := 0, state := 0, pending := 0, expect := 0, gen := 0 }

/-- The hypotheses that every clause on a barrier word shares. -/
def barReady (b : Barrier) (l : List (XReg × DWord)) : Prop :=
  let s := withBarrier b l
  Canonical s ∧ s.core.barWait = .idle ∧ (s.core.rx 1).toNat = bar0.toNat ∧ s.handleOk bar0 = true ∧ s.barrier bar0 = b ∧
    (∀ d ∈ s.decrements, d.core = s.cur → handleHome d.handle ≠ handleHome bar0) ∧
    s.core.job = some placedJob ∧ s.groups.toList.getD placedJob.slot none = some group0

/-- An initialisation for 4,095 arrivals; an arrival; waits 1 and 8 generations behind; expectations up to the greatest
count. -/
theorem met_BarrierWordsComplete :
    (barReady idleBar [(1, 0xFFFF), (2, 4095)] ∧ actionOk group0 0 = true) ∧
    (barReady { idleBar with state := 1, expect := 1, pending := 1 } [(1, 0xFFFF), (2, 0)] ∧
      (let s := withBarrier { idleBar with state := 1, expect := 1, pending := 1 } [(1, 0xFFFF), (2, 0)]
       s.core.inFlight = [] ∧ s.holding s.cur (fun _ => true) = false ∧
        ∀ x ∈ s.core.holders, x.2.performed = true ∨ s.touchesGlobal s.core x.2 = false)) ∧
    (barReady { idleBar with state := 1, gen := 8 } [(1, 0xFFFF), (2, 0)] ∧ (8 + 16 - 0 % 16) % 16 = 8 ∧
      (8 + 16 - 7 % 16) % 16 = 1) ∧
    (barReady { idleBar with state := 1 } [(1, 0xFFFF), (2, 8388607)] ∧
      ((withX [(2, 8388607)]).core.rx 2).toInt ≤ 8388607 ∧ (0 : Int) + 8388607 ≤ 8388607) ∧
    (s0.core.rx 2).toInt = 0 := by
  unfold barReady Canonical; decide +kernel

theorem met_BarrierCompletionsAndDecrements :
    (let s := withBarrier { idleBar with state := 2, expect := 1 } []
     Canonical s ∧ s.unended (handleHome bar0) = some placedJob ∧ placedJob.declares bar0 = true ∧
      s.frozenAt (handleHome bar0) = false ∧ (s.barrier bar0).state = 2 ∧ s.heldFor bar0 = [] ∧
      bits (s.barrier bar0).action.toNat 31 30 = 0) ∧
    (let s := { withBarrier { idleBar with state := 1, expect := 1, inb := 1, outb := 1 } [] with
       decrements := [⟨bar0, false, 0, 1⟩, ⟨bar0, true, 0, 0⟩] }
     Canonical s ∧ s.decrements[1]? = some ⟨bar0, true, 0, 0⟩ ∧ (∀ e ∈ s.decrements.take 1, e.core ≠ 0) ∧
      placedJob.slot = 0 ∧ (s.barrier bar0).state = 1 ∧
      0 < (s.barrier bar0).inb ∧ 0 < (s.barrier bar0).outb) := by
  unfold Canonical; decide +kernel

/-- Event bit 3, of the group's SET mask; nothing else needs it. -/
theorem met_EventWords :
    let s := withX [(1, 8)]
    let m : BitVec 256 := (s.core.rx 1).zeroExtend 256 <<< (64 * (0 : BitVec 2).toNat)
    s.slotOf s.curCtx = some 0 ∧ m ≠ 0 ∧ m &&& ~~~(ownSet s) = 0 ∧
      m &&& ~~~(ownSet s ||| eventBits (s.doneBit s.curCtx false)) = 0 ∧ m &&& eventBits (s.doneBit s.curCtx true) = 0 ∧
      (∀ r ∈ s.otherRecords s.curCtx s.core.jobSlot, m &&& r.1.set = 0 ∧ (r.2 = true → m &&& r.1.wait = 0)) ∧
      (s.ctxs[0]).evWaits = [] ∧
      (let t := { s with ctxs := s.ctxs.set 0 { s.ctxs[0] with ev := 8 } }
       (t.ctxs[0]).ev &&& m = m) := by decide +kernel

/-- Memory as words of 8 bytes. -/
def memOf (l : List (Nat × Nat)) : Mem := l.foldl (fun m p => writeLE m p.1 8 p.2) s0.mem

/-- A launch record at VA 0x20000 for kernel handle 1 with a parameter block of 64 lines at 0x30000; its table entry at
0x10000, its descriptor at 0x40000. -/
def launchState : State :=
  let s := withX [(1, 0x20000)]
  { s with
    mem := memOf [(0x10000, 0x40000), (0x10008, 0x1001), (0x20000, 1 + 64 * 2 ^ 48), (0x20008, 0x30000), (0x20010, 1)]
    ctxs := s.ctxs.set 0 { s.ctxs[0] with ktbase := 0x10000, ktlen := 1, image := 0x1000000 } }

theorem met_LaunchSubmitsTheChild :
    let s := launchState
    let r1 := launchRead 0x20000 64 s
    let r2 := launchRead (0x20000 + 64) 64 (stOf r1)
    let b := valOf 0 r1 + valOf 0 r2 * 2 ^ 512
    let r := parseLaunch b
    let r3 := kernelLookup 1 r.khandle (stOf r2)
    let u3 := stOf r3
    let rec_ : PoolRec := {
      ctx := 1, record := r, depth := min (((u3.group 0).map (·.src.depth)).getD 0 + 1) 255, copy := some (0, 0)
      desc := 0x40000, ready := none, reserve := false, pick := none }
    let r4 := copyParams 1 r.param.toNat (copyVa 0x1000000 0 0) (List.range r.pblen) u3
    let y := (stOf r4).modCtx 1 fun x => { x with copies := x.copies ++ [(0, 0)] }
    s.core.rx 1 = 0x20000 ∧ isOk r1 = true ∧ isOk r2 = true ∧ (stOf r2).core.job = some placedJob ∧
    (stOf r2).slotOf (stOf r2).curCtx = some 0 ∧ isOk r3 = true ∧ valOf none r3 = some 0x40000 ∧ r.pblen = 64 ∧
    launchRefusal b u3.ncore ((stOf r2).ctxs[0]).cores true = none ∧
    (List.range 64).find? (fun k => !((stOf r2).ctxs[0]).copies.contains (0, k)) = some 0 ∧
     (u3.submit rec_).isSome = true ∧
    isOk r4 = true ∧ (y.submit rec_).isSome = true ∧ (y.ctxOf 1).spill = [] ∧
     (y.pool.filter fun r => !r.reserve).length < 480 := by
  decide +kernel

theorem met_LoopSequencerWords :
    s0.core.job = some placedJob ∧ placedJob.left = 0 ∧
    (withCore fun c => { c with job := some { placedJob with left := 1, tiles := 1 } }).core.job =
      some { placedJob with left := 1, tiles := 1 } := by decide +kernel

/-- The last 64 bytes of XS that a program may use below its barriers; a shape record at 0x50000 whose base is the
parameter word at 0x60008. -/
theorem met_RecordWords :
    (let s := withX [(1, 0x8000000000000000 + 0x100000 - 128)]
     let ea := s.core.rx 1
     ea.toNat / 2 ^ 32 = 2 ^ 31 ∧ ea.toNat % 64 = 0 ∧ XsAllows s (ea.toNat % 2 ^ 32) 64 ∧
      Unblocked s [⟨.xs, ea.toNat % 2 ^ 32, ea.toNat % 2 ^ 32 + 64, false⟩] ∧ isOk (loadWord ea 64 s) = true ∧
      lyReserved (BitVec.ofNat 512 (valOf 0 (loadWord ea 64 s))) = false) ∧
    gnOk (BitVec.ofNat 512 (0x3F800000 * 2 ^ 128 + 1 * 2 ^ 260)) = true ∧
    (let s := withX [(1, 2)]
     let s := { s with
       mem := memOf [(0x50088, 0x81010), (0x60008, 0x70000)]
       cores := s.cores.set 0 { s.cores[0] with job := some { placedJob with param := 0x60000 } }
       ctxs := s.ctxs.set 0 { s.ctxs[0] with shapes := 0x50000, shapen := 3 } }
     let r := readShape (BitVec.ofNat 64 (0x50000 + 64 * 2)) s
     let q := loadWord (BitVec.ofNat 64 (0x60000 + shPoff (valOf 0 r))) 8 (stOf r)
     s.slotOf s.curCtx = some 0 ∧ (s.core.rx 1).toNat < (s.ctxs[0]).shapen ∧ isOk r = true ∧
      shReserved (valOf 0 r) = false ∧ shFmt (valOf 0 r) ≤ 10 ∧ shMode (valOf 0 r) = 1 ∧ isOk q = true ∧
      valOf 0 q = 0x70000 ∧ PlainPage s (0x50000 + 64 * 2) placedLeaf ∧
      Unblocked s [⟨.glob, 0x50000 + 64 * 2, 0x50000 + 64 * 2 + 64, false⟩]) := by
  unfold XsAllows Unblocked PlainPage; decide +kernel

/-- An address just above the global form; a cached leaf that counts and one that does not; a hint of a region's last
byte; invalidations in a PRIV context that nothing uses, one of the least address without the global form, and one in a
context that is not PRIV. -/
theorem met_PageWords :
    2 ^ 57 ≤ ((withX [(1, 0x200000000000000)]).core.rx 1).toNat ∧
    (s0.tlb.find? (fun e => e.covers s0.curCtx 0x3FFFFFFF) = some placedLeaf ∧ placedLeaf.leaf.getLsbD 11 = false) ∧
    (let e : TlbEntry := { placedLeaf with leaf := 0x8F9 }
     let s := { s0 with tlb := [e] }
     s.tlb.find? (fun e => e.covers s.curCtx 0) = some e ∧ e.leaf.getLsbD 11 = true ∧ leafAperture e.leaf = false) ∧
    (0x1FFFF / 65536 = (0x1FFFF + 1 - 1) / 65536 ∧ (1 : Nat) ≤ 2 ^ 30) ∧
    (s0.slotOf s0.curCtx = some 0 ∧ (s0.ctxs[0]).priv = true ∧ s0.core.posted = [] ∧ s0.usersOf (.page s0.curCtx 0) = [] ∧
      s0.usersOf (.ctx s0.curCtx) = [] ∧ s0.usersOf .all = []) ∧
    (let s := withX [(1, 0x200000000000000)]
     s.slotOf s.curCtx = some 0 ∧ (s.ctxs[0]).priv = true ∧ s.core.posted = [] ∧ 2 ^ 57 ≤ (s.core.rx 1).toNat ∧
      CanTrap s) ∧
    (let s := withCtx fun x => { x with priv := false }
     s.slotOf s.curCtx = some 0 ∧ (s.ctxs[0]).priv = false ∧ CanTrap s) := by
  unfold CanTrap; decide +kernel

/-- A VALID stage of Weir. -/
def stage0 : WeirStage := { WeirStage.start with valid := true }

/-- Weir bound to the context, with that stage as stage 0. -/
def weirState (x : WeirStage) (c : Core → Core) : State :=
  { withCore c with
    weir := { s0.weir with ctx := some 1, stages := [x, WeirStage.start, WeirStage.start, WeirStage.start] } }

/-- A record of a tag. -/
def weirRec (t : Half) (st : RecState) : WeirRec :=
  { tag := t, asn := 0, state := st, bpend := false, held := none, warmed := false, since := 0 }

/-- The pick of a weight step of stage 0. -/
def pick0 : WeirPick := { stage := 0, step := 2, tag := 7, asn := 0, wver := 0, wbase := 0 }

/-- An F arrival of the greatest tag where 63 records stand; a B arrival of a STASHED record; a marker; a weight step's
job with and without a reservation; a policy block of no stage, and of one VALID stage and row. -/
theorem met_WeirWords :
    (let s := weirState { stage0 with recs := List.replicate 63 (weirRec 1 .stashed) } fun c => c.wx 1 65535
     s.weir.ctx = some s.curCtx ∧ (s.stage 0).valid = true ∧ s.core.inFlight = [] ∧
      s.holding s.cur (fun _ => true) = false ∧
      (∀ h ∈ s.core.holders, h.2.performed = true ∨ s.touchesGlobal s.core h.2 = false) ∧ (s.core.rx 1).toNat < 65536 ∧
      (∀ r ∈ (s.stage 0).recs, r.tag ≠ BitVec.ofNat 16 (s.core.rx 1).toNat) ∧ (s.stage 0).fsrc = none ∧
      (s.stage 0).recs.length < 64) ∧
    (let s := weirState { stage0 with recs := [weirRec 65535 .stashed] } fun c => c.wx 1 65535
     (s.stage 0).recs.find? (fun r => r.tag = BitVec.ofNat 16 (s.core.rx 1).toNat) = some (weirRec 65535 .stashed)) ∧
    (weirState stage0 id).stage 0 = stage0 ∧ stage0.marker = none ∧
    (let g := { group0 with src := { rec0 with pick := some pick0 } }
     let s := { weirState stage0 id with groups := s0.groups.set 0 (some g) }
     s.core.job = some placedJob ∧ ((s.group placedJob.slot).bind (·.src.pick)) = some pick0 ∧ pick0.step = 2 ∧
      placedJob.j = 0 ∧ (s.stage pick0.stage.toNat).reserved = none ∧
      (List.range 8).find? (fun r => !(s.stage pick0.stage.toNat).inUse r) = some 0) ∧
    (let s := withX [(1, 0x20000)]
     let r := mapM' (fun k => loadWord (0x20000 + BitVec.ofNat 64 (64 * k)) 64) (List.range 8) s
     s.slotOf s.curCtx = some 0 ∧ (s.ctxs[0]).priv = true ∧ s.weir.ctx = none ∧ isOk r = true ∧
      valOf [] r = List.replicate 8 0) ∧
    rowOk 1 = true ∧
    sdOk (1 + 2 ^ 32 + 2 ^ 104 + 2 ^ 128 + 64 * 2 ^ 352) s0.ncore (s0.ctxs[0]).cores = true := by decide +kernel

/-- Another context's word; a stage that is not VALID; an F arrival of a tag that stands, of another source, of a tag
beyond 65,535; a B arrival of no record, of one in its F step, and of one whose B step runs. -/
theorem met_WeirWords_arrivals :
    (s0.weir.ctx ≠ some s0.curCtx ∧ CanTrap s0) ∧
    (let s := weirState WeirStage.start id
     s.weir.ctx = some s.curCtx ∧ (s.stage 0).valid = false ∧ CanTrap s) ∧
    (let r := { weirRec 65535 .fRunning with bpend := false }
     let s := weirState { stage0 with recs := [r] } fun c => c.wx 1 65535
     s.weir.ctx = some s.curCtx ∧ (s.stage 0).valid = true ∧ (s.core.rx 1).toNat < 65536 ∧
      (s.stage 0).recs.find? (fun r => r.tag = BitVec.ofNat 16 (s.core.rx 1).toNat) = some r ∧ r.state = .fRunning ∧
      r.bpend = false ∧ CanTrap s) ∧
    (let r := weirRec 65535 .bRunning
     let s := weirState { stage0 with recs := [r] } fun c => c.wx 1 65535
     (s.stage 0).recs.find? (fun r => r.tag = BitVec.ofNat 16 (s.core.rx 1).toNat) = some r ∧ r.state ≠ .stashed ∧
      r.state ≠ .arrivedF ∧ r.state ≠ .fRunning ∧ CanTrap s) ∧
    (let s := weirState { stage0 with fsrc := some (.core 1) } fun c => c.wx 1 65535
     (∀ r ∈ (s.stage 0).recs, r.tag ≠ BitVec.ofNat 16 (s.core.rx 1).toNat) ∧ (s.stage 0).fsrc = some (.core 1) ∧
      FSource.core 1 ≠ FSource.core (BitVec.ofNat 7 s.cur.val) ∧ CanTrap s) ∧
    (let s := weirState stage0 fun c => c.wx 1 65536
     65536 ≤ (s.core.rx 1).toNat ∧ CanTrap s) := by
  unfold CanTrap; decide +kernel

/-- A row of stage 0 with an action, at every depth of the pipeline. -/
def rowOf (act : Nat) : DWord := BitVec.ofNat 64 (1 + act * 2 ^ 4 + 127 * 2 ^ 32)

/-- Its conditions hold. -/
def rowHolds (x : WeirStage) (v : Nat) : Bool :=
  x.valid && !x.halt && decide (bits v 30 24 ≤ x.infl) && decide (x.infl ≤ bits v 38 32) && decide (bits v 17 16 = 0) &&
    (List.range 3).all (fun q => !bitN v (8 + q) && !bitN v (12 + q)) && !bitN v 7

/-- A row that is not VALID; one of each action, with no record and with one, at the greatest depth; a slot that serves a
version, a reservation; a pick whose record stands. -/
theorem met_WeirWords_evaluation :
    bitN (0 : DWord).toNat 0 = false ∧
    (∀ act ∈ [0, 1, 2, 3, 4],
     let s := weirState { stage0 with infl := 127 } id
     bitN (rowOf act).toNat 0 = true ∧ bits (rowOf act).toNat 6 4 = act ∧ rowHolds (s.stage 0) (rowOf act).toNat = true ∧
      (s.stage 0).recs = []) ∧
    (∀ p ∈ [(1, RecState.arrivedF), (2, .arrivedB), (3, .wPending), (4, .arrivedF)],
     let r := { weirRec 7 p.2 with asn := 5 }
     let x := { stage0 with recs := [r], head := 5, published := 6, infl := 127 }
     let s := weirState x id
     s.stage 0 = x ∧ rowHolds x (rowOf p.1).toNat = true ∧ x.recs.filter (fun q => q.state = p.2) = [r] ∧
      r.asn - bits x.sd.toNat 122 120 = x.head ∧ bits x.sd.toNat 95 64 = 0) ∧
    (let r := { weirRec 7 .arrivedF with asn := 5 }
     let x := { stage0 with recs := [r], head := 4, published := 5, infl := 127 }
     r.asn - bits x.sd.toNat 122 120 ≠ x.head ∧ x.head + 1 ≤ x.published ∧ x.head < r.asn - bits x.sd.toNat 122 120) ∧
    (let r := { weirRec 7 .stashed with asn := 5 }
     let x := { stage0 with recs := [r], sd := 2 ^ 64 }
     r.state ≠ .wPending ∧ bits x.sd.toNat 95 64 ≠ 0) ∧
    (weirState stage0 id).scanRows (weirState stage0 id).weir.rows = none ∧
    (let x := { stage0 with slots := [none, some (3, 5)] }
     x.slots[1]? = some (some (3, 5)) ∧ (3 : Nat) ≤ 5 ∧ x.slots[0]? = some none ∧ x.reserved = none ∧
      ({ x with reserved := some (0, 9) } : WeirStage).reserved = some (0, 9)) ∧
    (let s := weirState { stage0 with recs := [weirRec 7 .wRunning] } id
     s.weir.ctx = some 1 ∧ (∃ q ∈ (s.stage pick0.stage.toNat).recs, q.asn = pick0.asn) ∧
      ∀ k : BitVec 2, ({ pick0 with step := k } : WeirPick).step = k) := by
  decide +kernel

/-- Tracing off; on with kind 1 and a ring that holds its 64 records, and one less; one group alone. -/
theorem met_TraceAndDigestWords :
    s0.regs.trctl.getLsbD 0 = false ∧
    (let s := { s0 with regs := { s0.regs with trctl := 3, trwr := 64 } }
     s.regs.trctl.getLsbD 0 = true ∧ s.regs.trctl.getLsbD 1 = true ∧ 2 ^ 6 ≤ s.regs.trwr.toNat - s.regs.trrd.toNat) ∧
    (let s := { s0 with regs := { s0.regs with trctl := 3, trwr := 63 } }
     Memory.wf s.mem = true ∧ s.regs.trctl.getLsbD 0 = true ∧ s.regs.trctl.getLsbD 1 = true ∧
      s.regs.trwr.toNat - s.regs.trrd.toNat < 2 ^ 6) ∧
    s0.slotOf s0.curCtx = some 0 ∧ s0.otherRecords s0.curCtx s0.core.jobSlot = [] := by decide +kernel

/-- An engine word next in its empty queue, the core changed by a function before. -/
def ready (e : Eng) (i : Instr) (f : Core → Core) : State := withCore fun c => (f c).setQueue e [(f c).newCmd i 0]

/-- The command. -/
def cmdOf (i : Instr) (f : Core → Core) : Cmd := (f s0.core).newCmd i 0

theorem ready_core (e : Eng) (i : Instr) (f : Core → Core) :
    (ready e i f).core = (f s0.core).setQueue e [cmdOf i f] := by
  simp [ready, withCore, State.core, State.modCore, State.setCore, cmdOf]

/-- The function leaves the core without commands, posted stores and an open group. -/
def free (f : Core → Core) : Bool :=
  let c := f s0.core
  decide (c.vq = [] ∧ c.mq = [] ∧ c.cq = [] ∧ c.posted = [] ∧ c.tx = none) && decide ((c.pair 0) = s0.core.pair 0)

/-- Such a word can start, in any state with that core. -/
theorem startsIn (e : Eng) (i : Instr) (f : Core → Core) (s : State) (hs : s.core = (ready e i f).core) (hk : s.skip = 0)
    (h : free f = true) : CanStart e i 0 s s.core 0 (cmdOf i f) := by
  have hcore := hs.trans (ready_core e i f)
  simp only [free, Bool.and_eq_true, decide_eq_true_eq] at h
  obtain ⟨⟨hv, hm, hc, hp, ht⟩, hg⟩ := h
  rw [hcore]
  have hpair : ((f s0.core).setQueue e [cmdOf i f]).pair 0 = s0.core.pair 0 := by
    rw [← hg]; cases e <;> rfl
  refine ⟨?_, ?_, ?_, rfl, ?_, ?_, ?_, ?_, ?_, ?_⟩
  · rw [hk, hcore]; cases e <;> rfl
  · rw [hcore]; cases e <;> simp [Core.offer, Core.queue, Core.setQueue, Core.newCmd, cmdOf]
  · cases e <;> rfl
  · cases e <;> simp [Core.behindCtxe, Core.setQueue]
  · rw [hpair]; decide +kernel
  · rw [Core.guardVal, hpair]; decide +kernel
  · intro t h; cases e <;> simp [Core.setQueue, ht] at h
  · cases e <;> simp [Core.holders, Core.setQueue, hv, hm, hc, ht, earlier, engRank]
  · cases e <;> simp [Core.inFlight, Core.setQueue, hp]

theorem starts (e : Eng) (i : Instr) (f : Core → Core) (h : free f = true) :
    CanStart e i 0 (ready e i f) (ready e i f).core 0 (cmdOf i f) := startsIn e i f _ rfl rfl h

/-- Of every V word: it can start, its destination has room and its queue sources have an entry. This is what
VectorFloatWords, VectorIntegerWords, VectorConversionWords, VectorQuantWords and VectorReductionsAndPermutes ask. -/
theorem met_VectorWords (i : Instr) (d : VDst) (srcs : List VSrc) :
    CanStart .v i 0 (ready .v i id) (ready .v i id).core 0 (cmdOf i id) ∧
    (∀ n, dstQueue d = some n → (ready .v i id).core.qroom n = true) ∧
    ∀ n ∈ srcQueues srcs, (ready .v i id).core.qreg n ≠ [] := by
  have room : ∀ k : BitVec 2, (ready .v .nop id).core.qroom k.toNat = true := by decide +kernel
  have full : ∀ n < 16, s0.core.qreg n ≠ [] := by decide +kernel
  have sq : ∀ (l : List VSrc), ∀ n ∈ l.filterMap srcQueue, n < 16 := by
    intro l n hn
    obtain ⟨x, -, hx⟩ := List.mem_filterMap.mp hn
    cases x <;> simp_all [srcQueue]
    omega
  refine ⟨starts .v i id (by decide +kernel), ?_, ?_⟩
  · intro n hn
    cases d <;> simp [dstQueue] at hn
    rename_i k
    subst hn
    have := room k
    rw [ready_core] at this ⊢
    exact this
  · intro n hn
    rw [ready_core]
    exact full n (sq _ n (mem_of_mem_eraseDups _ _ (Nat.le_refl _) n hn))

/-- A layout record of two dimensions. -/
def lyRec (base space fmt e0 e1 s0 s1 : Nat) : BitVec 512 :=
  BitVec.ofNat 512 (base + space * 2 ^ 64 + fmt * 2 ^ 68 + (e0 - 1) * 2 ^ 96 + (e1 - 1) * 2 ^ 112 + s0 * 2 ^ 192 + s1 * 2 ^ 224)

/-- A change of the core that sets some layout records. -/
def withLy (l : List (Nat × BitVec 512)) (c : Core) : Core :=
  { c with ly := l.foldl (fun v p => v.setIfInBounds p.1 p.2) c.ly }

theorem met_VectorPlaces :
    (([(11, 7)] : List (Nat × DWord)).find? (fun p => p.1 = 8 + (3 : BitVec 2).toNat) = some (11, 7)) ∧
    sortedFrom 0 0 s0.core.vec.urs = true ∧ sortedFrom 0 0 s0.core.acc = true := by decide +kernel

/-- A stream of 961 records and 63 more; an OPEN pair. -/
theorem met_VectorStreamAndGuardWords :
    (let f := fun (c : Core) => { c with vec := { c.vec with cond := List.replicate 961 0 } }
     let i := Instr.vcpush .zero .laneid 0
     CanStart .v i 0 (ready .v i f) (ready .v i f).core 0 (cmdOf i f) ∧
      (ready .v i f).core.vec.cond.length +
        ((List.range 64).filter fun k => lane ((ready .v i f).core.vec.src [] .laneid) k ≠ 0).length ≤ 1024) ∧
    (let f := fun (c : Core) => c.openPair 14
     let i := Instr.vgset .any 14 .zero 0
     CanStart .v i 0 (ready .v i f) (ready .v i f).core 0 (cmdOf i f) ∧ ((ready .v i f).core.pair 14).isOpen = true) := by
  refine ⟨⟨starts _ _ _ ?_, ?_⟩, starts _ _ _ ?_, ?_⟩ <;> decide +kernel

/-- The last register and the last four that end at the last byte a program may access; a strided access and indices
that reach that byte; the last tile. -/
theorem met_VectorMemoryWords :
    (let f := withLy [(1, lyRec (0xFFFF0 - 256 * 64) 0 0 64 64 4 256)]
     let i := Instr.vld false (.o 1) 1 63 0
     let c := (ready .v i f).core
     let r := (cmdOf i f).snap.ly[1]
     CanStart .v i 0 (ready .v i f) c 0 (cmdOf i f) ∧ lySpace r = 0 ∧ (lyBase r + 256 * 63) % 4 = 0 ∧
      lyBase r + 256 * 63 + 256 ≤ c.barBase ∧
      (∀ n ∈ List.range 64, 0 ≤ (lyBase r + 63 * lyStride r 1 + n * lyStride r 0 : Int) ∧
        (lyBase r + 63 * lyStride r 1 + n * lyStride r 0 : Int) % 4 = 0 ∧
        (lyBase r + 63 * lyStride r 1 + n * lyStride r 0 : Int) + 4 ≤ c.barBase) ∧
      (∀ n < 64, (lane (c.vec.src [] .laneid) n).toNat < lyCount r) ∧ Memory.wf c.xs = true ∧ 7 < c.acct) ∧
    (let f := withLy [(1, lyRec (0xFFFF0 - 1024 * 64) 0 0 64 64 4 256)]
     let i := Instr.vldW false 0 1 63 0
     let c := (ready .v i f).core
     let r := (cmdOf i f).snap.ly[1]
     CanStart .v i 0 (ready .v i f) c 0 (cmdOf i f) ∧ lySpace r = 0 ∧ (lyBase r + 1024 * 63) % 4 = 0 ∧
      lyBase r + 1024 * 63 + 1024 ≤ c.barBase) := by
  refine ⟨⟨starts _ _ _ ?_, ?_⟩, starts _ _ _ ?_, ?_⟩ <;> decide +kernel

/-- One row of 256 entries, merged onto itself, that ends at the last byte a program may access. -/
theorem met_RowRecordMerges :
    let at_ := 0xFFFF0 - (16 + 8 * 256)
    let f := fun (c : Core) => { withLy [(0, lyRec at_ 0 0 1 1 0 0x1000)] c with xs := writeLE c.xs (at_ + 12) 4 256 }
    let i := Instr.vheapm 0 0 0 0
    let c := (ready .v i f).core
    let r := (cmdOf i f).snap.ly[0]
    CanStart .v i 0 (ready .v i f) c 0 (cmdOf i f) ∧
      (lySpace r = 0 ∧ lyBase r % 16 = 0 ∧ lyStride r 1 % 16 = 0 ∧ lyExt r 1 = 1 ∧
       readLE c.xs (lyBase r + 12) 4 % 512 = 256 ∧
        lyBase r + (16 + 8 * 256) ≤ c.barBase) ∧
      Memory.wf c.xs = true :=
  ⟨starts _ _ _ (by decide +kernel), by decide +kernel⟩

/-- A flag of a job on core 1 of the same COSCHED group. -/
theorem met_EngineSignals :
    (let i := Instr.msig 3 (some 1) 0
     let s := { ready .m i id with groups := s0.groups.set 0 (some { group0 with placed := [0, 1] }) }
     let c := s.core
     CanStart .m i 0 s c 0 (cmdOf i id) ∧ c.job = some placedJob ∧
      s.group placedJob.slot = some { group0 with placed := [0, 1] } ∧ (1 : Fin 128) ∈ [(0 : Fin 128), 1] ++ [] ∧
      ((1 : Fin 128).val : Int) = s.cur.val + signed 7 (1 : BitVec 7).toNat ∧
       (∀ y ∈ c.mq, (cmdOf i id).iseq.toNat ≤ y.iseq.toNat) ∧
      (∀ h ∈ c.holders, earlier h .m (cmdOf i id).iseq = true → h.2.phase = .waiting →
        remoteTarget s.cur h.2.instr ≠ some (1, 3)) ∧
      Released s c .m (cmdOf i id)) ∧
    (let i := Instr.vwait 31 0
     let f := fun (c : Core) => { c with flags := c.flags.set 31 1 }
     CanStart .v i 0 (ready .v i f) (ready .v i f).core 0 (cmdOf i f) ∧ (ready .v i f).core.flags[31] ≠ 0) := by
  unfold Released
  refine ⟨⟨startsIn _ _ _ _ rfl rfl ?_, ?_⟩, starts _ _ _ ?_, ?_⟩ <;> decide +kernel

theorem met_TileAndLeaseWords :
    let i := Instr.mzero 0x80 0
    let c := (ready .m i id).core
    CanStart .m i 0 (ready .m i id) c 0 (cmdOf i id) ∧ (∀ t < 8, (0x80 : BitVec 8).getLsbD t = true → t < c.acct) ∧
      sortedFrom 0 0 c.acc = true :=
  ⟨starts _ _ _ (by decide +kernel), by decide +kernel⟩

/-- Elements from the first byte of XS on; three nibbles, of which the last fills its byte; in global memory the last
bytes of the page read, and elements and three nibbles of the live output written. -/
theorem met_ElementMoves :
    (let r := lyRec 0 0 6 4 1 2 0
     lySpace r = 0 ∧ fmtWidth (lyFmt r) ≠ 4 ∧ (∀ p ∈ List.range 4, 0 ≤ (lyAddr r p).1) ∧ Memory.wf s0.core.xs = true) ∧
    (let r := lyRec 0 0 3 3 1 1 0
     lySpace r = 0 ∧ fmtWidth (lyFmt r) = 4 ∧ (∀ p ∈ List.range 3, 0 ≤ (lyAddr r p).1 ∧ p < lyCount r) ∧
      lyAddr r 2 = (1, false) ∧ (2 + 1) % lyExt r 0 = 0 ∧ ∀ k < lyCount r, lyAddr r k ≠ (1, true)) ∧
    (let r := lyRec 0x3FFFFFF8 3 6 4 1 2 0
     lySpace r = 3 ∧ s0.core.tx = none ∧ (∀ p ∈ List.range 4, 0 ≤ (lyAddr r p).1 ∧
      ∀ a ∈ (List.range (lyElemBytes r)).map ((lyAddr r p).1.toNat + ·),
        s0.tlb.find? (fun e => e.covers s0.curCtx a) = some placedLeaf ∧ s0.reducing a = false) ∧
      leafAperture placedLeaf.leaf = false ∧ placedLeaf.leaf.getLsbD 10 = false ∧ placedLeaf.leaf.getLsbD 11 = false ∧
      placedLeaf.leaf.getLsbD 7 = true ∧ isOk (readElems r (List.range 4) s0) = true) ∧
    (let r := lyRec 0x8FF8 3 6 4 1 2 0
     isOk (writeElems 0 r true [(0, 5), (3, 9)] s0) = true) ∧
    let r := lyRec 0x8FFE 3 3 3 1 1 0
    fmtWidth (lyFmt r) = 4 ∧ (∀ p ∈ List.range 3, p < lyCount r) ∧
      isOk (writeElems 0 r true [(0, 5), (2, 9)] s0) = true := by
  decide +kernel

/-- A product of the last tile: A of BF16 in XS, B an image in WS. -/
def mmaCore (c : Core) : Core := { withLy [(0, lyRec 0 0 6 1 1 2 16)] c with bd := c.bd.set 0 (0x01000000 + 6 * 2 ^ 52) }

theorem met_MatrixMultiply :
    let i := Instr.mma 7 (.ly 0) (.bd 0) 1 true false false 0 0
    let s := ready .m i mmaCore
    let c := s.core
    let x := cmdOf i mmaCore
    let o := mmaOp x.snap (.ly 0) (.bd 0)
    CanStart .m i 0 s c 0 x ∧ mmaIssue 7 o false (s.setCore c) = .ok ((), s.setCore c) ∧
      (∃ p, checkProfile 1 o.fa o.fb 0 (s.setCore c) = .ok (p, s.setCore c)) ∧
      checkScaling o.a (s.setCore c) = .ok ((), s.setCore c) ∧
      (s.leases[s.curCluster]).holder = some s.cur ∧ o.aGen = false ∧ lySpace o.a = 0 ∧ o.fa ≠ 5 ∧ o.bGen = false ∧
      sortedFrom 0 0 c.acc = true :=
  ⟨starts _ _ _ (by decide +kernel), checked (.mmaIssue _ _ _) (by decide +kernel),
    checks (.checkProfile _ _ _ _) (by decide +kernel), checked (.checkScaling _) (by decide +kernel), by decide +kernel⟩

/-- The same with A in global memory: 24 K-indices in groups of 16. -/
def mmaGlobalCore (c : Core) : Core :=
  { withLy [(0, lyRec 0x20000 3 6 64 24 2 128)] c with bd := c.bd.set 0 (0x01000000 + 6 * 2 ^ 52 + 23 * 2 ^ 40) }

/-- It starts, and at its restart point goes on to its last group. -/
theorem met_MatrixMultiply_steps :
    let i := Instr.mma 7 (.ly 0) (.bd 0) 1 true false false 0 0
    let x := cmdOf i mmaGlobalCore
    let o := mmaOp x.snap (.ly 0) (.bd 0)
    let y := { x with phase := .stopped, progress := 1 }
    let s := ready .m i mmaGlobalCore
    let t := withCore fun c => { (mmaGlobalCore c) with mq := [y] }
    (CanStart .m i 0 s s.core 0 x ∧
      isOk (mmaBody 7 (.ly 0) (.bd 0) 1 true false false 0 x (s.setCore s.core)) = true) ∧
    (GoesOn .m i t 0 y ∧ isOk (mmaBody 7 (.ly 0) (.bd 0) 1 true false false 0 y (t.setCore t.core)) = true) ∧
    o.aGen = false ∧ lySpace o.a = 3 ∧ o.bGen = false ∧ x.angles = [] ∧ sortedFrom 0 0 s.core.acc = true ∧
    sortedFrom 0 0 t.core.acc = true ∧ Profile.np1.group = 16 ∧ 1 * 16 < kOf o.fa ∧
    checkProfile 1 o.fa o.fb 0 (s.setCore s.core) = .ok (.np1, s.setCore s.core) ∧
    checkProfile 1 o.fa o.fb 0 (t.setCore t.core) = .ok (.np1, t.setCore t.core) := by
  have met : ∀ (a b : Nat) (u : State), isOk (checkProfile 1 a b 0 u) = true →
      valOf .np4 (checkProfile 1 a b 0 u) = .np1 → checkProfile 1 a b 0 u = .ok (.np1, u) := fun _ _ u ok v => by
    obtain ⟨p, hp⟩ := checks (.checkProfile _ _ _ _) ok
    rw [hp] at v ⊢
    exact congrArg (fun p => Except.ok (p, u)) v
  refine ⟨⟨starts _ _ _ ?_, ?_⟩, ⟨⟨rfl, rfl, rfl, rfl⟩, ?_⟩, ?_, ?_, ?_, ?_, ?_, ?_, ?_, ?_, met _ _ _ ?_ ?_,
    met _ _ _ ?_ ?_⟩ <;>
    decide +kernel

theorem met_MatrixMultiply_body :
    let i := Instr.mma 7 (.ly 0) (.bd 0) 1 true false false 0 0
    let s := ready .m i mmaCore
    CanStart .m i 0 s s.core 0 (cmdOf i mmaCore) ∧
      isOk (mmaBody 7 (.ly 0) (.bd 0) 1 true false false 0 (cmdOf i mmaCore) (s.setCore s.core)) = true :=
  ⟨starts _ _ _ (by decide +kernel), by decide +kernel⟩

/-- A projection descriptor of one row of 32 entries at XS 0x480; its records are two elements of BF16 in XS. -/
def pd0 : BitVec 512 := BitVec.ofNat 512 (0x440 + 0x480 * 2 ^ 32 + 0x10020 * 2 ^ 160 + 272 * 2 ^ 192 + 0x444 * 2 ^ 224)

/-- A change that sets them and puts the descriptor's address into Q12. -/
def projCore (c : Core) : Core :=
  { withLy [(0, lyRec 0x800 0 6 1 1 2 16), (1, lyRec 0x900 0 6 1 1 2 16), (2, lyRec 0xA00 0 0 1 1 4 16)] c with
    xs := writeLE c.xs 0x400 64 pd0.toNat, q := c.q.set 12 [0x400] }

/-- The unit they bind. -/
def unit0 : ProjUnit where
  lya := lyRec 0x800 0 6 1 1 2 16
  lyw := lyRec 0x900 0 6 1 1 2 16
  prof := 1
  desc := pd0
  descAddr := 0x400
  next := 0
  rows := [⟨List.replicate 32 (0x7FC00000, 0xFFFFFFFF), 0xFF800000, 0, 0, 0xFF800000, false⟩]
  spill := 0
  seen := [(0x7FC00000, 0xFFFFFFFF)]
  written := []

/-- The unit bound, and 0 in Q12. -/
def boundCore (c : Core) : Core := { projCore c with proj := some unit0, q := c.q.set 12 [0] }

/-- Where an M word has started under the lease. -/
def countedState (s : State) (c : Core) : State := { (s.setCore c) with
  leases := s.leases.set s.curCluster { s.leases[s.curCluster] with started := (s.leases[s.curCluster]).started + 1 } }

theorem met_ProjectionWords :
    (let i := Instr.mvpBegin 0 1 1 false 0
     let s := ready .m i projCore
     let c := s.core
     let x := cmdOf i projCore
     CanStart .m i 0 s c 0 x ∧
      (let s' := { (s.setCore (poppedCore c [12])) with
         leases := s.leases.set s.curCluster { s.leases[s.curCluster] with started := (s.leases[s.curCluster]).started + 1 } }
       checkBegin 0x400 pd0 x.snap.ly[0] x.snap.ly[1] 1 s' = .ok ((), s')) ∧
      x.popped = [] ∧ c.qreg 12 ≠ [] ∧ c.proj = none ∧ 0x400 + 64 ≤ c.barBase ∧
      ((c.qreg 12).headD 0).toNat % 2 ^ 32 = 0x400 ∧ 0x400 % 64 = 0 ∧ BitVec.ofNat 512 (readLE c.xs 0x400 64) = pd0 ∧
      (s.leases[s.curCluster]).holder = some s.cur ∧ bits (pdField pd0 0x14) 8 0 ≤ 32) ∧
    (let i := Instr.mvpEnd 0
     let s := ready .m i boundCore
     CanStart .m i 0 s s.core 0 (cmdOf i boundCore) ∧ (s.leases[s.curCluster]).holder = some s.cur ∧
      s.core.proj = some unit0 ∧ pdK unit0.desc ≤ 32 ∧ ∀ r ∈ unit0.rows, r.heap.length = pdK unit0.desc) ∧
    (let i := Instr.mvpTile 7 0
     let s := ready .m i boundCore
     let x := cmdOf i boundCore
     let r := blockStart x (countedState s s.core)
     CanStart .m i 0 s s.core 0 x ∧ 7 < s.core.acct ∧ s.core.proj = some unit0 ∧ x.popped = [] ∧
      (s.leases[s.curCluster]).holder = some s.cur ∧ 64 * unit0.next < lyExt unit0.lyw 1 ∧ isOk r = true ∧
      (stOf r).core.proj = some unit0 ∧
      isOk (projBlock true unit0 7 unit0.next (valOf x r) (tileAct 7) (stOf r)) = true) ∧
    (let i := Instr.mvpTile 7 0
     let x := { cmdOf i boundCore with phase := .stopped }
     let s := withCore fun c => { (boundCore c) with mq := [x] }
     GoesOn .m i s 0 x ∧ 7 < s.core.acct ∧ s.core.proj = some unit0 ∧ (s.leases[s.curCluster]).holder = some s.cur ∧
      x.popped = [] ∧
      isOk (projBlock true unit0 7 unit0.next x (tileAct 7) s) = true) ∧
    (let i := Instr.mvpRegen 7 2 false 0
     let s := ready .m i boundCore
     let x := cmdOf i boundCore
     let x := { x with popped := [(s.core.qreg 12).headD 0] }
     let r := regenCheck 2 x (countedState s (poppedCore s.core [12]))
     let z := valOf x r
     let q := projSteps unit0 z.table 7 0 (List.range (stepsOf (lyExt unit0.lya 0) (kOf (lyFmt unit0.lya)))) (stOf r)
     CanStart .m i 0 s s.core 0 (cmdOf i boundCore) ∧ 7 < s.core.acct ∧ s.core.qreg 12 ≠ [] ∧ isOk r = true ∧
      isOk (regenBody 7 2 z (stOf r)) = true ∧ (stOf r).core.proj = some unit0 ∧ lySpace unit0.lya = 0 ∧
      lySpace unit0.lyw = 0 ∧ (z.popped.headD 0).toNat % 2 ^ 32 = 0 ∧ isOk q = true ∧
      sortedFrom 0 0 (stOf q).core.acc = true) := by
  refine ⟨⟨starts _ _ _ ?_, checked (.checkBegin _ _ _ _ _) ?_, ?_⟩, ⟨starts _ _ _ ?_, ?_⟩, ⟨starts _ _ _ ?_, ?_⟩,
    ⟨⟨rfl, rfl, rfl, rfl⟩, ?_⟩, starts _ _ _ ?_, ?_⟩ <;> decide +kernel

/-- Records of four words: LY0 at XS 0x1000, LY1 ending at the last byte a program may access, LY2 of indices at XS
0x3000, LY3 the last of the live output, LY4 of BF16; an image in BD0; the handle of core 0's phase barrier in Q14. -/
def copyCore (c : Core) : Core :=
  { withLy [(0, lyRec 0x1000 0 9 4 1 4 0), (1, lyRec (0xFFFF0 - 16) 0 9 4 1 4 0), (2, lyRec 0x3000 0 10 4 1 4 0),
      (3, lyRec 0x8FF0 3 9 4 1 4 0), (4, lyRec 0x2000 0 6 4 1 2 0)] c with
    bd := c.bd.set 0 (0x01000000 + 6 * 2 ^ 52 + 3 * 2 ^ 40), q := c.q.set 14 [0xFFFF] }

/-- What a data command asks, of its word, its checks at issue, what it pops, its start and its moves. -/
def CopyMet (i : Instr) (b : Option BarSel) (ns : List Nat) (issue : Cmd → M Unit) (start : Cmd → M (List Nat))
    (moves : Cmd → M Cmd) : Prop :=
  let s := ready .c i copyCore
  let c := s.core
  let x := cmdOf i copyCore
  let x' := { x with popped := ns.map fun n => (c.qreg n).headD 0 }
  let s' := s.setCore (poppedCore c ns)
  let h := BitVec.ofNat 24 ((b.map fun q => ((c.qreg (barQueue q)).headD 0).toNat).getD 0)
  CanStart .c i 0 s c 0 x ∧ issue x (s.setCore c) = .ok ((), s.setCore c) ∧ x.popped = [] ∧ (∀ n ∈ ns, c.qreg n ≠ []) ∧
    (b.isSome → s'.handleOk h = true) ∧ isOk (start x' s') = true ∧
    isOk (moves { x' with
      phase := .stopped, barrier := b.map fun q => (h, q.outbound), table := valOf [] (start x' s') } (stOf (start x' s'))) =
        true

theorem copyMet {i : Instr} {b : Option BarSel} {ns : List Nat} {issue : Cmd → M Unit} {start : Cmd → M (List Nat)}
    {moves : Cmd → M Cmd} (h : ∀ x, OnlyChecks (issue x))
    (ok : let s := ready .c i copyCore
      let c := s.core
      let x := cmdOf i copyCore
      let x' := { x with popped := ns.map fun n => (c.qreg n).headD 0 }
      let s' := s.setCore (poppedCore c ns)
      let h := BitVec.ofNat 24 ((b.map fun q => ((c.qreg (barQueue q)).headD 0).toNat).getD 0)
      isOk (issue x (s.setCore c)) = true ∧ x.popped = [] ∧ (∀ n ∈ ns, c.qreg n ≠ []) ∧
        (b.isSome → s'.handleOk h = true) ∧ isOk (start x' s') = true ∧
        isOk (moves { x' with
          phase := .stopped, barrier := b.map fun q => (h, q.outbound), table := valOf [] (start x' s') }
            (stOf (start x' s'))) = true) :
    CopyMet i b ns issue start moves :=
  ⟨starts _ _ _ (by decide +kernel), checked (h _) ok.1, ok.2⟩

theorem met_CopyWords :
    let l := fun (x : Cmd) (n : Fin 8) => x.snap.ly[n]
    let b : Option BarSel := some ⟨false, false⟩
    let room := fun (x : Cmd) (n : Fin 8) => do
      groupRoom (l x n) (List.range 4)
      startRange (l x n) x
    let good := fun (rs : Cmd → List (BitVec 512)) (x : Cmd) => do
      checkReserved (rs x)
      pure ([] : List Nat)
    let chunks := fun (d : Fin 8) (chunk : Cmd → List Nat → M Unit) (x : Cmd) =>
      runChunks 4 (32768 / fmtWidth (lyFmt (l x d))) false (chunk x) x
    let put := fun (d a : Fin 8) => chunks d fun x ps => do
      let vs ← readElems (l x a) ps
      writeElems x.iseq (l x d) false (ps.zip vs)
    CopyMet (.ccopy false 0 1 b 0) b [14] (fun x => do
        copyIssue (l x 0) (l x 1)
        room x 0) (good fun x => [l x 0, l x 1]) (put 0 1) ∧
    CopyMet (.ccopy false 3 1 none 0) none [] (fun x => do
        copyIssue (l x 3) (l x 1)
        room x 3) (good fun x => [l x 3, l x 1]) (put 3 1) ∧
    CopyMet (.cconv false 0 4 none .rne 0) none [] (fun x => do
        checkRecords (some (l x 0, List.range 4)) [l x 4] (convScales (l x 4))
        trapIf (regionsMeet (l x 0) (l x 4) (some (List.range 4)) (some (List.range 4)) ||
          readsMeet (l x 0) (List.range 4) (convReads (← getS) (l x 4))) .overlap 0
        checkCount (l x 0) (l x 4)
        room x 0) (fun x => do
        checkReserved [l x 0, l x 4]
        checkConvDst (l x 0)
        checkDecoded (l x 4)
        startTable (l x 4)) (chunks 0 fun x ps => do
      let vs ← readValues (l x 4) x.table ps
      writeElems x.iseq (l x 0) true (ps.zip (vs.map (encodeVal 9 .rne)))) ∧
    CopyMet (.cgath false 0 1 none 2 0) none [] (fun x => do
        indexedIssue (l x 0) (l x 1) (l x 2) 4
        room x 0) (fun x => readIndices (l x 0) (l x 1) (l x 2) 4 4) (chunks 0 fun x ps => do
      let vs ← readElems (l x 1) (ps.map fun n => x.table.getD n 0)
      writeElems x.iseq (l x 0) false (ps.zip vs)) ∧
    CopyMet (.cscat false 0 1 none 2 0) none [] (fun x => do
        indexedIssue (l x 0) (l x 1) (l x 2) 4
        groupRoom (l x 0) ((indicesNow (← getCore).xs (l x 2) 4).filter fun j => j < 4)
        startRange (l x 0) x) (fun x => readIndices (l x 0) (l x 1) (l x 2) 4 4) (chunks 0 fun x ps => do
      let vs ← readElems (l x 1) ps
      writeElems x.iseq (l x 0) false ((ps.map fun n => x.table.getD n 0).zip vs)) ∧
    CopyMet (.cfill false 0 none true 0) none [15] (fun x => do
        checkRecords (some (l x 0, List.range 4)) [] []
        room x 0) (good fun x => [l x 0])
      (chunks 0 fun x ps => writeElems x.iseq (l x 0) false (ps.map fun n => (n, (x.popped.getD 0 0).toNat % 2 ^ 32))) ∧
    CopyMet (.cdrain false 0 7 none false .rne 0) none [] (fun x => do
        checkRecords (some (l x 0, List.range 4)) [] []
        trapIf (decide ((← getCore).acct ≤ 7)) .window 7
        trapIf (decide (64 < lyExt (l x 0) 0) || decide (64 < lyExt (l x 0) 1) || decide (lyExt (l x 0) 2 ≠ 1) ||
          decide (lyExt (l x 0) 3 ≠ 1)) .window 0
        room x 0) (good fun x => [l x 0])
      (chunks 0 fun x ps => writeElems x.iseq (l x 0) true (ps.map fun n => (n, encodeVal 9 .rne (f32V 0)))) ∧
    CopyMet (.cplane false 0 4 none 0) none [] (fun x => planeIssue x.snap.bd[0] (l x 4))
      (fun x => do
        planeStart x.snap.bd[0] (l x 4)
        startTable (l x 4))
      (fun x => runChunks 4 64 false
        (fun ps => planeChunk x.snap.bd[0] (l x 4) x.table (ps.headD 0) (ps.headD 0 + ps.length)) x) := by
  have room : ∀ (r : BitVec 512) (ps : List Nat) (x : Cmd), OnlyChecks (do
      groupRoom r ps
      startRange r x) := fun _ _ _ => .bind (.groupRoom _ _) fun _ => .startRange _ _
  refine ⟨copyMet (fun _ => .bind (.copyIssue _ _) fun _ => room _ _ _) ?_,
    copyMet (fun _ => .bind (.copyIssue _ _) fun _ => room _ _ _) ?_,
    copyMet (fun _ => .bind (.checkRecords _ _ _) fun _ => .bind .getS fun _ => .bind (.trapIf _ _ _) fun _ =>
      .bind (.checkCount _ _) fun _ => room _ _ _) ?_,
    copyMet (fun _ => .bind (.indexedIssue _ _ _ _) fun _ => room _ _ _) ?_,
    copyMet (fun _ => .bind (.indexedIssue _ _ _ _) fun _ => .bind .getCore fun _ => room _ _ _) ?_,
    copyMet (fun _ => .bind (.checkRecords _ _ _) fun _ => room _ _ _) ?_,
    copyMet (fun _ => .bind (.checkRecords _ _ _) fun _ => .bind .getCore fun _ => .bind (.trapIf _ _ _) fun _ =>
      .bind (.trapIf _ _ _) fun _ => room _ _ _) ?_,
    copyMet (fun _ => .planeIssue _ _) ?_⟩ <;> decide +kernel

/-- The last rows of an image of 65 whose second row group holds one row, from a source of 65 elements at the last bytes
that a program may access. -/
theorem met_CopyWords_plane :
    let d : DWord := 0x01000000 + 6 * 2 ^ 52 + 64 * 2 ^ 40
    let r := lyRec (0xFFFF0 - 130) 0 6 65 1 2 0
    let ps := (List.range (lyExt r 1)).flatMap fun p =>
      (List.range (min 65 (lyExt r 0) - 64)).map fun i => 64 + i + lyExt r 0 * p
    let v := planeLocal d r [] ps s0
    64 % 64 = 0 ∧ 65 ≤ 64 + 64 ∧ 65 ≤ bdRows d ∧ wsBase ≤ bdAddr d ∧ isMmaFmt (bdFmt d) = true ∧ lyExt r 2 = 1 ∧
      lyExt r 3 = 1 ∧ lyExt r 0 ≤ bdRows d ∧ lyExt r 1 ≤ bdWb d ∧ lySpace r = 0 ∧ (∀ p ∈ ps, 0 ≤ (lyAddr r p).1) ∧
      ps ≠ [] ∧ isOk v = true ∧ Memory.wf (stOf v).core.ws = true := by decide +kernel

/-- `ctxb`; `ctxe` of a group that staged no line, with no barrier count to apply and with one; the `ctxe` whose counts have
been applied; `cfence`. -/
theorem met_TransactionWords :
    CanStart .c (.ctxb 0) 0 (ready .c (.ctxb 0) id) (ready .c (.ctxb 0) id).core 0 (cmdOf (.ctxb 0) id) ∧
    (∀ ds ∈ ([[], [(bar0, true)]] : List (List (BitVec 24 × Bool))),
     let t : TxGroup := { lines := [], members := [], decrements := ds }
     let s := withCore fun c => { c with tx := some t, cq := [c.newCmd (.ctxe 0) 0] }
     let x := s0.core.newCmd (.ctxe 0) 0
     let lines := t.lines.foldr insertStaged []
     let v := forM' (fun (l : StagedLine) => homeCheck true none (l.va.toNat + l.first) [l.pa.toNat / 64]) lines
       (s.setCore s.core)
     let w := (stOf v).commit x.iseq t lines
     CanStart .c (.ctxe 0) 0 s s.core 0 x ∧ s.core.tx = some t ∧ s.core.job.isSome = true ∧
      (∀ y ∈ s.core.cq, y.inGroup = true → y.iseq = x.iseq) ∧ isOk v = true ∧
      ((∀ d ∈ w.decrements, d.core ≠ s.cur) ↔ ds = []) ∧ w.holding s.cur (· == x.iseq) = false ∧
      ∀ m : Fin 128, ∀ o ∈ (w.coreAt m).barHeld, o.core = s.cur → o.kind ≠ .decIn ∧ o.kind ≠ .decOut) ∧
    (let x := { s0.core.newCmd (.ctxe 0) 0 with phase := .stopped }
     let s := withCore fun c => { c with cq := [x] }
     GoesOn .c (.ctxe 0) s 0 x ∧ (∀ d ∈ s.decrements, d.core ≠ s.cur) ∧ s.holding s.cur (· == x.iseq) = false) ∧
    (let s := ready .c (.cfence 0) id
     CanStart .c (.cfence 0) 0 s s.core 0 (cmdOf (.cfence 0) id) ∧
      (∀ y ∈ s.core.cq, (cmdOf (.cfence 0) id).iseq.toNat ≤ y.iseq.toNat) ∧ (∀ d ∈ s.decrements, d.core ≠ s.cur) ∧
      ∀ m : Fin 128, ∀ o ∈ (s.coreAt m).barHeld, o.core = s.cur → o.kind ≠ .decIn ∧ o.kind ≠ .decOut) := by
  refine ⟨starts _ _ _ ?_, ?_, ⟨⟨rfl, rfl, rfl, rfl⟩, ?_⟩, starts _ _ _ ?_, ?_⟩
  case refine_2 =>
    intro ds hds
    simp only [List.mem_cons, List.not_mem_nil, or_false] at hds
    rcases hds with rfl | rfl <;>
      refine ⟨⟨rfl, ?_, rfl, rfl, ?_, ?_, ?_, fun _ h _ => ⟨rfl, .inl rfl⟩, ?_, ?_⟩, ?_⟩ <;> decide +kernel
  all_goals decide +kernel

/-- The context owns every endpoint, queue pair and counter. -/
def owning (s : State) : State := { s with ctxs := s.ctxs.set 0 { s.ctxs[0] with
  chBase := 0, chCount := 32, qpBase := 0, qpCount := 4096, cnBase := 0, cnCount := 4096 } }

theorem starts_owning (e : Eng) (i : Instr) (f : Core → Core) (h : free f = true) :
    CanStart e i 0 (owning (ready e i f)) (owning (ready e i f)).core 0 (cmdOf i f) :=
  startsIn e i f _ rfl rfl h

/-- With endpoint 31 so. -/
def withChan (e : Channel) (s : State) : State := { owning s with chans := s.chans.set 31 e }

/-- An ACTIVE endpoint of core 0 with 256 slots of 256 bytes. -/
def chan0 (recv : Bool) : Channel :=
  { Channel.start with ctl := BitVec.ofNat 64 (1 + (if recv then 65536 else 0) + 255 * 2 ^ 24), state := 1 }

/-- A message that fills its slot, its acknowledgement, a FILLED and a HELD slot. -/
theorem met_CulvertWords :
    (let i := Instr.csend 31 0 0
     let f := withLy [(0, lyRec 0x1000 0 9 64 1 4 0)]
     let e := { chan0 false with hi := 1 }
     let s := withChan e (ready .c i f)
     let c := s.core
     let r := (cmdOf i f).snap.ly[0]
     CanStart .c i 0 s c 0 (cmdOf i f) ∧ checkRecords none [r] [] (s.setCore c) = .ok ((), s.setCore c) ∧
      (s.slotOf s.curCtx).isSome = true ∧ 31 < s.context.chCount ∧ s.cur.val = bits e.ctl.toNat 47 41 ∧ e.state = 1 ∧
      e.ctl.getLsbD 16 = false ∧ lyBytes r ≤ 2 ^ (min (bits e.ctl.toNat 35 32) 12 + 8) ∧
      lyFmt r ≤ 10 ∧ 0 < (e.hi - e.lo).toNat ∧ (e.hi - e.lo).toNat < 2 ^ 31 ∧ Released s c .c (cmdOf i f) ∧
       lySpace r = 0 ∧
      ∀ p ∈ List.range (lyCount r), 0 ≤ (lyAddr r p).1) ∧
    (let i := Instr.csend 31 0 0
     let x := { cmdOf i id with phase := .stopped, progress := 5 }
     let e := { chan0 false with lo := 5 }
     let s := withChan e (withCore fun c => { c with cq := [x] })
     GoesOn .c i s 0 x ∧ e.state = 1 ∧ e.lo.toNat = x.progress % 2 ^ 32 ∧ e.unacked = none) ∧
    (let i := Instr.crecv 31 true 0
     let e := { chan0 true with lo := 255, slots := [(255, .filled 255 7)] }
     let s := withChan e (ready .c i id)
     CanStart .c i 0 s s.core 0 (cmdOf i id) ∧ e.ctl.getLsbD 16 = true ∧ e.ctl.getLsbD 17 = false ∧
      e.slot (e.lo.toNat % 256) = .filled 255 7 ∧ s.core.qroom 7 = true) ∧
    (let i := Instr.crel 31 0
     let e := { chan0 true with lo := 1, slots := [(0, .held)], heldSlots := [0] }
     let s := withChan e (ready .c i id)
     CanStart .c i 0 s s.core 0 (cmdOf i id) ∧ e.heldSlots = 0 :: [] ∧
      ∀ h ∈ s.core.holders, earlier h .c (cmdOf i id).iseq = true → h.2.performed = true) := by
  unfold Released
  refine ⟨⟨startsIn _ _ _ _ rfl rfl ?_, checked (.checkRecords _ _ _) ?_, ?_⟩, ⟨⟨rfl, rfl, rfl, rfl⟩, ?_⟩,
    ⟨startsIn _ _ _ _ rfl rfl ?_, ?_⟩, startsIn _ _ _ _ rfl rfl ?_, ?_⟩ <;> decide +kernel

/-- The last counter, its largest amount; a sixteenth watch. -/
theorem met_CounterWords :
    (let i := Instr.cadd false 0
     let f := fun (c : Core) => { c with q := c.q.set 14 [0xFFFFFFFFFFFF0FFF] }
     let s := owning (ready .c i f)
     let c := s.core
     CanStart .c i 0 s c 0 (cmdOf i f) ∧ c.job.isSome = true ∧ (s.slotOf s.curCtx).isSome = true ∧
      (cmdOf i f).popped = [] ∧ c.qreg 14 ≠ [] ∧ Released s (poppedCore c [14]) .c (cmdOf i f) ∧
      bits ((c.qreg 14).headD 0).toNat 15 12 = 0 ∧ bits ((c.qreg 14).headD 0).toNat 11 0 < s.context.cnCount) ∧
    (let i := Instr.carm 0
     let f := fun (c : Core) => { c with
       q := (c.q.set 14 [0x1F0FFF]).set 15 [0], watches := List.replicate 15 ⟨0, 1, 0⟩ }
     let s := owning (ready .c i f)
     let c := s.core
     CanStart .c i 0 s c 0 (cmdOf i f) ∧ c.qreg 14 ≠ [] ∧ c.qreg 15 ≠ [] ∧
      bits ((c.qreg 14).headD 0).toNat 63 21 = 0 ∧ bits ((c.qreg 14).headD 0).toNat 15 12 = 0 ∧
      bits ((c.qreg 14).headD 0).toNat 11 0 < s.context.cnCount ∧ c.watches.length < 16) ∧
    sortedFrom 0 0 s0.counters = true := by
  unfold Released
  refine ⟨⟨starts_owning _ _ _ ?_, ?_⟩, ⟨starts_owning _ _ _ ?_, ?_⟩, ?_⟩ <;> decide +kernel

/-- A posting word in Q15's turn. -/
def postCore (c : Core) : Core := { c with
  xs := writeLE c.xs 0x400 64 (0xFFF * 2 ^ 160 + 0x1000000 * 2 ^ 192), q := c.q.set 15 [0x400] }

/-- What it asks. -/
def PostMet (i : Instr) (red : Bool) : Prop :=
  let s := owning (ready .c i postCore)
  let c := s.core
  let x := cmdOf i postCore
  CanStart .c i 0 s c 0 x ∧
    (∃ n, checkPost 0x400 (BitVec.ofNat 512 (readLE c.xs 0x400 64)) red (s.setCore (poppedCore c [15])) =
      .ok (n, s.setCore (poppedCore c [15]))) ∧
    (x.popped = [] ∧ x.failed = false ∧ x.progress = 0 ∧ c.qreg 15 ≠ []) ∧ 0x400 + 64 ≤ c.barBase ∧ 0x400 % 64 = 0 ∧
    bits ((c.qreg 15).headD 0).toNat 31 0 = 0x400 ∧ (s.qp 4095).entries.length < 16 ∧ s.posted < 8192 ∧
    Released s (poppedCore c [15]) .c { x with popped := [(c.qreg 15).headD 0] }

/-- A descriptor in XS at 0x400 that names queue pair 4095, unbound, and sends nothing. -/
theorem met_PostingWords : PostMet (.cput true 0) false ∧ PostMet (.cputNf true 0) false ∧
    PostMet (.cputred true 0) true ∧ PostMet (.cputredNf true 0) true := by
  have met : ∀ (i : Instr) (red : Bool),
      (let s := owning (ready .c i postCore)
       let c := s.core
       let x := cmdOf i postCore
       isOk (checkPost 0x400 (BitVec.ofNat 512 (readLE c.xs 0x400 64)) red (s.setCore (poppedCore c [15]))) = true ∧
        (x.popped = [] ∧ x.failed = false ∧ x.progress = 0 ∧ c.qreg 15 ≠ []) ∧ 0x400 + 64 ≤ c.barBase ∧ 0x400 % 64 = 0 ∧
        bits ((c.qreg 15).headD 0).toNat 31 0 = 0x400 ∧ (s.qp 4095).entries.length < 16 ∧ s.posted < 8192 ∧
        Released s (poppedCore c [15]) .c { x with popped := [(c.qreg 15).headD 0] }) → PostMet i red :=
    fun i _ h => ⟨starts_owning .c i _ (by decide +kernel), checks (.checkPost _ _ _) h.1, h.2⟩
  unfold Released at met
  refine ⟨met _ _ ?_, met _ _ ?_, met _ _ ?_, met _ _ ?_⟩ <;> decide +kernel

/-- Grotto serves the context with one frame at 0x10000000 and these entries. -/
def stashing (es : List StashEntry) (s : State) : State := { s with
  weir := { s.weir with ctx := some 1 }
  grotto := { s.grotto with ctl := 0x50000, hbase := 0x10000000, hlim := 1, entries := es } }

/-- An entry of 16 bytes at stage 0, slot 15, tag 0 in that frame. -/
def stash0 (st : StashState) : StashEntry := {
  key := 0x0F0000, state := st, bytes := 16, recomputable := false, slot := 128, core := 0, frames := [0], groups := []
  wantFrames := false, kept := [] }

/-- Its record. -/
def stashCore (c : Core) : Core := withLy [(7, lyRec 0x1000 0 9 4 1 4 0)] c

/-- A command that has started, with what it will push. -/
def startedCmd (i : Instr) (ps : List (Nat × DWord)) : Cmd :=
  { cmdOf i stashCore with phase := .stopped, progress := 1, pushes := ps }

/-- That command next in its queue. -/
def goesOn (i : Instr) (ps : List (Nat × DWord)) (es : List StashEntry) : State :=
  stashing es (withCore fun c => { (stashCore c) with cq := [startedCmd i ps] })

theorem met_StashWords :
    (let i := Instr.cstash 7 15 false 0
     let s := stashing [] (ready .c i stashCore)
     let x := cmdOf i stashCore
     let r := x.snap.ly[7]
     CanStart .c i 0 s s.core 0 x ∧ stashIssue r (s.setCore s.core) = .ok ((), s.setCore s.core) ∧ x.progress = 0 ∧
      s.grottoServes s.curCtx = true ∧ s.grotto.find 0x0F0000 = none ∧ lyFmt r ≤ 10 ∧ s.grotto.entries.length < 4096 ∧
      s.freeFrames ((lyBytes r + 4095) / 4096) = some [0]) ∧
    (let i := Instr.cstash 7 15 false 0
     let s := goesOn i [] [stash0 .placing]
     let x := startedCmd i []
     let v := stOf (stashElems x.snap.ly[7] (chunkPos x.snap.ly[7] (x.progress - 1)) s)
     GoesOn .c i s 0 x ∧ x.progress ≠ 0 ∧ s.grotto.find 0x0F0000 = some (stash0 .placing) ∧
      isOk (stashElems x.snap.ly[7] (chunkPos x.snap.ly[7] (x.progress - 1)) s) = true ∧ v.grotto = s.grotto ∧
      v.core.cq = s.core.cq) ∧
    (∀ st ∈ [StashState.resident, .ready, .dropped],
     let i := Instr.cfetch 7 15 true 0
     let s := stashing [stash0 st] (ready .c i stashCore)
     let x := cmdOf i stashCore
     let r := x.snap.ly[7]
     CanStart .c i 0 s s.core 0 x ∧
      checkRecords (some (r, List.range (lyCount r))) [] [] (s.setCore s.core) = .ok ((), s.setCore s.core) ∧
      x.progress = 0 ∧ x.pushes = [] ∧ lySpace r ≠ 3 ∧ s.core.qroom 7 = true ∧
      s.grotto.find 0x0F0000 = some (stash0 st)) ∧
    (let i := Instr.cfetch 7 15 true 0
     let s := goesOn i [(7, 0)] [stash0 .resident]
     let x := startedCmd i [(7, 0)]
     GoesOn .c i s 0 x ∧ x.progress ≠ 0 ∧ x.pushes = [(7, 0)] ∧ s.grotto.find 0x0F0000 = some (stash0 .resident) ∧
      (stash0 .resident).slot = 128 ∧ lyBytes x.snap.ly[7] = (stash0 .resident).bytes ∧
      isOk (let ps := chunkPos x.snap.ly[7] (x.progress - 1)
        writeElems x.iseq x.snap.ly[7] false
          (ps.zip (frameElems x.snap.ly[7] (readBytes s.mem (s.grotto.frame 0) 4096) ps.length)) s) = true) ∧
    (let i := Instr.cdrop 15 0
     let s := stashing [stash0 .dropped] (ready .c i stashCore)
     CanStart .c i 0 s s.core 0 (cmdOf i stashCore) ∧ s.grotto.find 0x0F0000 = some (stash0 .dropped)) ∧
    (let i := Instr.cpref true 0
     let f := fun (c : Core) => { c with q := c.q.set 15 [0x3FFFF] }
     let s := stashing [] (ready .c i f)
     CanStart .c i 0 s s.core 0 (cmdOf i f) ∧ s.core.qreg 15 ≠ [] ∧ ((s.core.qreg 15).headD 0).toNat < 2 ^ 18) := by
  have here : ∀ (es : List StashEntry) (i : Instr) (f : Core → Core), free f = true →
      CanStart .c i 0 (stashing es (ready .c i f)) (stashing es (ready .c i f)).core 0 (cmdOf i f) :=
    fun _ i f h => startsIn .c i f _ rfl rfl h
  refine ⟨⟨here _ _ _ (by decide +kernel), checked (.stashIssue _) (by decide +kernel), by decide +kernel⟩,
    ⟨⟨rfl, rfl, rfl, rfl⟩, by decide +kernel⟩, ?_, ⟨⟨rfl, rfl, rfl, rfl⟩, by decide +kernel⟩,
    ⟨here _ _ _ (by decide +kernel), by decide +kernel⟩, ⟨here _ _ _ (by decide +kernel), by decide +kernel⟩⟩
  intro st hst
  refine ⟨here _ _ _ (by decide +kernel), checked (.checkRecords _ _ _) ?_, ?_⟩
  all_goals fin_cases hst <;> decide +kernel

/-- Context 1 in a state; its tables map VA 0 to 1 GiB. -/
def inState (st : CtxState) : State := { (withCtx fun x => { x with state := st, ptroot := 0x8000000 }) with
  mem := memOf [(0x8000000, 0x8001001), (0x8001000, 0x8002001), (0x8002000, 0xFB)] }

/-- The first number of the next state of an outcome. -/
def nextOf (o : Host.Outcome State Fault Refusal) : State :=
  match o with
  | .next t => t
  | _ => State.reset

/-- It is one. -/
def isNext (o : Host.Outcome State Fault Refusal) : Bool :=
  match o with
  | .next _ => true
  | _ => false

/-- A PREEMPT or SETPRIO of an unknown context, CREATE of a known one, with every slot in use, of a record of zeros and
of one that is in order; BIND, LAUNCH into the pool and with no room, SETPRIO of 255 and 256, PREEMPT, RESUME and DESTROY
in the states that take them and in states that do not; a drain that begins; a BIND whose addresses are not mapped and one
whose scale map is empty at an entry. -/
theorem met_MailboxCommandsComplete :
    s0.mailboxFree = true ∧ s0.slotOf 7 = none ∧ s0.slotOf 1 = some 0 ∧ RingRoom (afterTaking s0) ∧
    (let s := { s0 with ctxs := Vector.replicate 16 (s0.ctxs[0]) }
     s.mailboxFree = true ∧ s.slotOf 7 = none ∧ (∀ k : Fin 16, s.ctxs[k].state ≠ .free ∧ s.ctxs[k].state ≠ .retired) ∧
      RingRoom (afterTaking s)) ∧
    ((s0.ctxs[1]).state = .free ∧ (∀ j : Fin 16, j < 1 → s0.ctxs[j].state ≠ .free ∧ s0.ctxs[j].state ≠ .retired) ∧
      s0.inMemory 0x10000 256 = true ∧ recordOk (readLE s0.mem 0x10000 256) 7 = false ∧
      recordOk (readLE (writeLE s0.mem 0x10000 2 7) 0x10000 256) 7 = true) ∧
    (s0.ctxs[0]).state ≠ .loaded ∧
    (let s := inState .loaded
     s.mailboxFree = true ∧ (afterTaking s).validated (s.ctxs[0]) = true ∧ ((afterTaking s).loadSmap 1).isSome = true ∧
      RingRoom ((((afterTaking s).loadSmap 1).getD s).modCtx 1 fun x => { x with state := .runnable })) ∧
    (let s := afterTaking launchState
     let r := hostRecord 1 0x20000 (s.clearPath .mailbox)
     let b := (valOf (0, none) r).1
     let rec_ : PoolRec := {
       ctx := 1, record := parseLaunch b, depth := 0, copy := none, desc := 0x40000, ready := none, reserve := false
       pick := none }
     launchState.mailboxFree = true ∧ isOk r = true ∧ (valOf (0, none) r).2 = some 0x40000 ∧
      launchRefusal b (stOf r).ncore ((stOf r).ctxOf 1).cores false = none ∧ ((stOf r).submit rec_).isSome = true ∧
      RingRoom (((stOf r).submit rec_).getD s)) ∧
    (let s := afterTaking { launchState with ctxs := launchState.ctxs.set 0 { launchState.ctxs[0] with
       spill := [rec0], spilln := 1 } }
     let r := hostRecord 1 0x20000 (s.clearPath .mailbox)
     let b := (valOf (0, none) r).1
     isOk r = true ∧ (valOf (0, none) r).2 = some 0x40000 ∧
      launchRefusal b (stOf r).ncore ((stOf r).ctxOf 1).cores false = none ∧
      (stOf r).submit {
        ctx := 1, record := parseLaunch b, depth := 0, copy := none, desc := 0x40000, ready := none, reserve := false
        pick := none } = none ∧ RingRoom (stOf r)) ∧
    ((s0.ctxs[0]).state ≠ .error ∧ (255 : DWord).toNat < 256 ∧ 256 ≤ (256 : DWord).toNat) ∧
    (((inState .runnable).ctxs[0]).state = .runnable ∧ ((inState .trapped).ctxs[0]).state = .trapped ∧
      ((inState .error).ctxs[0]).state = .error) ∧
    (((inState .running).ctxs[0]).state = .running ∧ ((inState .faultWait).ctxs[0]).state = .faultWait ∧
      (let v := (afterTaking (inState .running)).startDrain 1 .save
       v.slotOf 1 = some 0 ∧ (v.ctxs[0]).state = .draining ∧
        ∀ m : Fin 16, (v.ctxs[m]).state = .draining → (v.ctxs[m]).awaiting ≠ [])) ∧
    (let s := { (withCtx fun x => { x with state := .loaded, ptroot := 0x8000000, shapen := 1, shapes := 0x40000000 }) with
       mem := (inState .loaded).mem }
     (afterTaking s).validated (s.ctxs[0]) = false ∧
      RingRoom { (afterTaking s) with
        ctxs := s.ctxs.set 0 { s.ctxs[0] with state := .error, status := BitVec.ofNat 16 (0x80 + 0x7F * 256) } }) ∧
    (let s := { (withCtx fun x => { x with state := .loaded, ptroot := 0x8000000, scalemap := 0x10000 }) with
       mem := writeLE (inState .loaded).mem 0x10018 1 1 }
     (afterTaking s).validated (s.ctxs[0]) = true ∧ (afterTaking s).loadSmap 1 = none) ∧
    ((s0.ctxs[0]).state ≠ .saved ∧ (s0.ctxs[0]).state ≠ .trapped ∧
      (let s := afterTaking (inState .saved)
       (s.loadSmap 1).isSome = true ∧ (match ((s.loadSmap 1).getD s).loadImages 1 [] with
         | .ok (_, cs) => decide (cs = [])
         | .error _ => false) = true)) ∧
    (let s := inState .runnable
     s.mailboxFree = true ∧ RingRoom ((afterTaking s).retireCtx 1)) := by
  unfold RingRoom
  and_intros <;> decide +kernel

/-- A READY record and a free slot; a DRAINING group with and without a counting context; a held pick; a live context. -/
theorem met_GroupEventsComplete :
    (let s := { s0 with pool := [rec0] }
     s.groups.toList.findIdx? Option.isNone = some 1 ∧ ∃ r ∈ s.pool, s.selectable r = true) ∧
    (let g := { group0 with state := .draining }
     let s := { s0 with groups := s0.groups.set 0 (some g) }
     s.group 0 = some g ∧ g.state = .draining ∧ (s.ctxOf g.ctx).state ≠ .error ∧ g.src.pick = none ∧
      (s.ctxOf g.ctx).dgctl.getLsbD 0 = false) ∧
    (let g := { group0 with state := .draining }
     let s := { (withCtx fun x => { x with dgctl := 1, outs := [(0, some { out0 with limit := 0x8040 })] }) with
       groups := s0.groups.set 0 (some g) }
     s.group 0 = some g ∧ (s.ctxOf g.ctx).dgctl.getLsbD 0 = true ∧
      isOk (groupDigest g ((s.ctxOf g.ctx).liveOuts.filter fun o => o.slot = 0) s) = true) ∧
    (let s := { s0 with weir := { s0.weir with held := [rec0] } }
     s.weir.held = rec0 :: [] ∧ (s.submit rec0).isSome = true) ∧
    s0.slotOf 1 = some 0 ∧ (s0.ctxs[0]).state ≠ .error := by
  decide +kernel

/-- An executed command; one whose guard is false; a fault that waits; a signal that fills its flag; a free array and a
core that asks for it; an offered command and an idle sibling. -/
theorem met_CoreEventsComplete :
    (let x := { s0.core.newCmd (.vwait 0 0) 0 with phase := .executed }
     let c := { s0.core with vq := [x] }
     (c.queue .v).zipIdx.find? (fun p => p.1.phase = .executed ∧ !s0.holding 0 (· == p.1.iseq) ∧
        decrementsInOrder (c.queue .v) p.2 p.1) = some (x, 0) ∧ x.inGroup = false) ∧
    (let x := s0.core.newCmd (.vwait 0 1) 0
     let c := { s0.core with vq := [x] }
     let s := s0.setCoreAt 0 c
     (c.queue .v)[c.nextIx .v]? = some x ∧ instrGuard x.instr = some 1 ∧ x.phase = .waiting ∧ x.consumed = false ∧
      s.coreAt 0 = c ∧ s.mayExecute 0 .v x = true ∧ (c.pair 1).isOpen = false ∧ c.guardVal 1 = false) ∧
    (let s := withCore fun c => { c with pendingTrap := some (some .v, .window, 5, 0) }
     let c := s.coreAt 0
     c.pendingTrap = some (some .v, .window, 5, 0) ∧ s.canCut 0 = true ∧ c.sr.active = false ∧ c.sr.tvec ≠ 0 ∧
      c.debug ≠ .stepping ∧ Cause.window ≠ .ecc) ∧
    (let x : Signal := ⟨0, 0, 31, 255, 5⟩
     let s := { s0 with signals := [x] }
     s.signals[0]? = some x ∧ (s.coreAt 0).job = some placedJob ∧ placedJob.slot = x.slot ∧ placedJob.ended = false ∧
      s.frozenAt x.target = false ∧ (s.coreAt 0).heldFlags = [] ∧
       ((s.coreAt 0).flags[x.flag.toFin]).toNat + x.amount.toNat ≤ 255) ∧
    (let s := ready .m (.mma 7 (.ly 0) (.bd 0) 1 true false false 0 0) mmaCore
     let s := { s with leases := s.leases.set 0 { holder := none, lastPos := 3, started := 0, len := 0 } }
     (s.leases[0]).holder = none ∧ s.leaseWinner 3 ((List.finRange 128).filter fun i =>
       decide (i.val < s.ncore ∧ s.clusterOf i.val = 0) && s.requestsLease i) = some 0) ∧
    (let y := s0.core.newCmd (.vaddF32 true (.o 1) .zero .zero 0) 1
     let s := withCore fun c => { c with vq := [{ c.newCmd (.vwait 0 0) 0 with phase := .executed }, y] }
     let siblings := (List.finRange 128).filter fun i => s.enabled i && s.clusterOf i.val == s.clusterOf (coreIx 0).val
     siblings = [0, 1, 2, 3] ∧ s.offers 0 .v = true ∧ (∀ i ∈ siblings, i ≠ 0 → s.offers i .v = false) ∧
      s.idleEngine 1 .v = true ∧ (s.coreAt 0).nextOffer .v = some (0, y) ∧ s.regs.pcsel.toNat % 256 ≠ 7) := by
  and_intros <;> decide +kernel

/-- A small job whose context drains, to be saved or destroyed. -/
def drainState (d : DrainReason) : State :=
  { (withCore fun c => { c with job := some { placedJob with xsb := 64, wsb := 64, acct := 1 } }) with
    ctxs := s0.ctxs.set 0 { s0.ctxs[0] with state := .draining, awaiting := [0], drain := d } }

/-- A job that starts; one that has drained; one whose context drains, to be kept and to be destroyed. -/
theorem met_JobEventsComplete :
    (let s := withCore fun c => { c with job := some { placedJob with starting := true } }
     (s.coreAt 0).job = some { placedJob with starting := true } ∧ Memory.wf (s.coreAt 0).xs = true ∧
      Memory.wf (s.coreAt 0).ws = true ∧ sortedFrom 0 0 (s.coreAt 0).acc = true) ∧
    (let s := withCore fun c => { c with seq := .draining 0x1000 }
     (s.coreAt 0).drained = true ∧ placedJob.starting = false ∧ placedJob.stopping = false ∧ placedJob.escalated = false ∧
      s.frozenAt 0 = false ∧ (s.coreAt 0).barHeld = [] ∧
      s.group placedJob.slot = some group0) ∧
    (∀ d ∈ [DrainReason.destroy, .save],
     let s := drainState d
     s.slotOf 1 = some 0 ∧ (s.ctxs[0]).state = .draining ∧ (0 : Fin 128) ∈ (s.ctxs[0]).awaiting ∧ s.canCut 0 = true ∧
      (s.coreAt 0).pendingTrap = none ∧ (s.cut 0 .stop).barriersQuiet 1 = true) ∧
    ((drainState .save).cut 0 .stop).moves = [] ∧
    ∃ u, saveImage 0 { ((drainState .save).cut 0 .stop) with cur := 0 } = .ok ((), u) ∧ u.moves = [] ∧
     u.slotOf 1 = some 0 ∧
      (u.coreAt 0).job = some { placedJob with xsb := 64, wsb := 64, acct := 1 } := by
  have moves : ((drainState .save).cut 0 .stop).moves = [] := by decide +kernel
  refine ⟨by decide +kernel, by decide +kernel, by decide +kernel, moves, ?_⟩
  have slot : ((drainState .save).cut 0 .stop).slotOf 1 = some 0 := by decide +kernel
  have job : (((drainState .save).cut 0 .stop).coreAt 0).job = some { placedJob with xsb := 64, wsb := 64, acct := 1 } := by
    decide +kernel
  have tlb : ((drainState .save).cut 0 .stop).tlb = [placedLeaf] := by decide +kernel
  have image : (((drainState .save).cut 0 .stop).ctxOf 1).image = 0 := by decide +kernel
  have areas : ∀ a ∈ ((drainState .save).cut 0 .stop).imageAreas 0, a.1 + a.2.length ≤ 0x40000000 := by
    simp only [State.imageAreas, List.mem_cons, List.not_mem_nil, or_false]
    have rows : ∀ (n : Nat) (f : Nat → VReg), ((List.range n).flatMap fun k => vregBytes (f k)).length = n * 256 := by
      intro n f
      have le : ∀ n x, (leBytes n x).length = n := fun n => by
        induction n with
        | zero => exact fun _ => rfl
        | succ n ih => exact fun x => congrArg (· + 1) (ih _)
      simp only [List.length_flatMap, vregBytes, le, List.map_const', List.length_range, List.sum_replicate, smul_eq_mul]
    rintro a (rfl | rfl | rfl | rfl | rfl | rfl | rfl | rfl | rfl | rfl | rfl | rfl | rfl | rfl | rfl | rfl | rfl | rfl)
    case inr.inr.inr.inr.inr.inr.inr.inr.inr.inr.inr.inr.inr.inr.inl => rw [rows]; decide +kernel
    case inr.inr.inr.inr.inr.inr.inr.inr.inr.inr.inr.inr.inr.inr.inr.inl => rw [rows]; decide +kernel
    all_goals decide +kernel
  generalize (drainState .save).cut 0 .stop = t at *
  obtain ⟨m, h⟩ := saveImage_plain (i := 0) (e := placedLeaf) (n := 0x40000000) (s := { t with cur := 0 })
    (j := { placedJob with xsb := 64, wsb := 64, acct := 1 }) ⟨by decide, by decide, by decide, by decide⟩ job
    ⟨by decide, fun va hv => by
      show t.tlb.find? _ = _
      rw [tlb]
      simp [TlbEntry.covers, placedLeaf, placedJob]
      omega⟩ (fun a ha => by
        show (t.ctxOf 1).image.toNat + _ + _ + _ ≤ _
        rw [image]
        have := areas a ha
        simpa using this) (by
        show ∀ a ∈ freeAreas, (t.ctxOf 1).image.toNat + _ + _ + _ ≤ _
        rw [image]
        decide)
  exact ⟨_, h, moves, slot, by simpa [State.coreAt, State.setCoreAt] using job⟩

theorem met_DebugEventsComplete :
    s0.enabled 0 = true ∧ (s0.coreAt 0).debug = .running ∧ (s0.coreAt 0).dbgStopCtx = false ∧
    (let s := withCore fun c => { c with debug := .stopping 1 }
     (s.coreAt 0).debug = .stopping 1 ∧ s.debugQuiet 0 = true ∧ (s.coreAt 0).dbgCtx = false) ∧
    (let s := withCore fun c => { c with debug := .stopped 1 }
     (s.coreAt 0).debug = .stopped 1 ∧ (s.coreAt 0).dbgCtx = false) ∧
    s0.frozen = false ∧ s0.windowOpen = true ∧ ({ s0 with phase := 4 } : State).windowOpen = false ∧
    s0.regs.trctl.toNat / 2 ^ 32 % 2 ^ 5 = 0 ∧
    (let s := { s0 with regs := { s0.regs with trctl := 0x100000000 } }
     s.regs.trctl.toNat / 2 ^ 32 % 2 ^ 5 ≠ 0 ∧
      ∀ m : Fin 128, (s.coreAt m).job = if m = 0 then some placedJob else none) := by
  decide +kernel

/-- A walk ends in a leaf. -/
def WalkOut.isLeaf (o : WalkOut) : Bool :=
  match o with
  | .leaf _ => true
  | _ => false

theorem leafOf {o : WalkOut} (h : WalkOut.isLeaf o = true) : ∃ e, o = .leaf e := by
  cases o
  · exact ⟨_, rfl⟩
  all_goals exact absurd h (by decide)

/-- The last byte of a page that no cached leaf covers: no table maps it; a leaf does, which counts or does not. -/
theorem met_PageWords_walk :
    (let s := { s0 with tlb := [] }
     s.tlb.find? (fun e => e.covers s.curCtx 0x3FFFFFFF) = none ∧ ∀ e, s.walk s.curCtx 0x3FFFFFFF ≠ .leaf e) ∧
    ∀ leaf ∈ [0xFB, 0x8FB],
      let s := { (inState .running) with tlb := [], mem := writeLE (inState .running).mem 0x8002000 8 leaf }
      s.tlb.find? (fun e => e.covers s.curCtx 0x3FFFFFFF) = none ∧
        ∃ e, s.walk s.curCtx 0x3FFFFFFF = .leaf e ∧ leafAperture e.used.leaf = false := by
  have none_ : ∀ o : WalkOut, WalkOut.isLeaf o = false → ∀ e, o ≠ .leaf e := by
    rintro _ h e rfl; exact Bool.noConfusion h
  have some_ : ∀ o : WalkOut, (match o with | .leaf e => leafAperture e.used.leaf == false | _ => false) = true →
      ∃ e, o = .leaf e ∧ leafAperture e.used.leaf = false := by
    intro o h
    cases o with
    | leaf e => exact ⟨e, rfl, by simpa using h⟩
    | _ => exact absurd h (by decide)
  refine ⟨⟨by decide +kernel, none_ _ (by decide +kernel)⟩, fun leaf h => ?_⟩
  fin_cases h <;> exact ⟨by decide +kernel, some_ _ (by decide +kernel)⟩

/-- The leaf of the page at VA 0 in the context's tables; the page is managed, its destination LPDDR memory, where Sump
has a page group; one free frame. -/
def pageState (leaf : Nat) : State :=
  let s := withCtx fun x => { x with ptroot := 0x8000000 }
  { s with
    mem := memOf [(0x8000000, 0x8001001), (0x8001000, 0x8002001), (0x8002000, 0x8003001), (0x8003000, 0x8004001),
      (0x8004000, leaf), (0x8005000, 0x9100000)]
    tlb := []
    sumpGroups := [0x10000000000]
    ranges := s.ranges.set 0 { base := 0, lim := 0x10000, ctl := 0x50001 }
    regs := { s.regs with srfbase := 0x8005000, srfprod := 1 } }

/-- A block's encoding is no longer than the block. -/
theorem encodeBlock_length (xs : List Byte) : (encodeBlock xs).2.2.length ≤ xs.length := by
  have fold : ∀ (l : List (Nat × Bool × List Byte)) (b : Nat × Bool × List Byte),
      (l.foldr (fun c best => if c.2.2.length ≤ best.2.2.length then c else best) b).2.2.length ≤ b.2.2.length := by
    intro l b
    induction l with
    | nil => exact Nat.le_refl _
    | cons c l ih =>
      simp only [List.foldr_cons]
      split
      · exact Nat.le_trans ‹_› ih
      · exact ih
  exact fold _ _

/-- A page takes at most sixteen units. -/
theorem pageClass_le (xs : List Byte) : pageClass (encodePage xs) ≤ 4 := by
  have len : ∀ k, ((encodeBlock ((xs.drop (256 * k)).take 256)).2.2.length) ≤ 256 := fun k =>
    Nat.le_trans (encodeBlock_length _) (by simp)
  have sum : ((encodePage xs).map fun b => b.2.2.length).sum ≤ 16 * 256 := by
    unfold encodePage
    rw [List.map_map]
    have : ∀ l : List Nat, (l.map ((fun b : Nat × Bool × List Byte => b.2.2.length) ∘
        fun k => encodeBlock ((xs.drop (256 * k)).take 256))).sum ≤ l.length * 256 := by
      intro l
      induction l with
      | nil => simp
      | cons a l ih =>
        have := len a
        simp only [List.map_cons, List.sum_cons, List.length_cons, Function.comp] at ih ⊢
        omega
    simpa using this (List.range 16)
  unfold pageClass
  simp only
  omega

/-- An entry that waits; a saved and a live context; a stop that a replay lets go on and one that an abort makes a
fault; invalidations with nothing in use; a page to move down and one to move up; the moves of both. -/
theorem met_PageEventsComplete :
    (let s := { s0 with faults := [⟨1, 2, 3⟩], regs := { s0.regs with fbctl := 0x106 } }
     Memory.wf s.mem = true ∧ s.faults = ⟨1, 2, 3⟩ :: [] ∧ s.fbReady = true) ∧
    ((withCtx fun x => { x with state := .trapped }).slotOf 1 = some 0 ∧
      ((withCtx fun x => { x with state := .trapped }).ctxs[0]).state = .trapped ∧
      (inState .error).slotOf 1 = some 0 ∧ ((inState .error).ctxs[0]).state = .error ∧
      (s0.ctxs[0]).state ≠ .saved ∧ (s0.ctxs[0]).state ≠ .trapped ∧ (s0.ctxs[0]).state ≠ .error) ∧
    (let p : PathStop := ⟨false, 0, 0, 0⟩
     let s := { (pageState 0x90000FB) with cores := s0.cores.set 0 { s0.cores[0] with sStop := some p } }
     (∃ e, s.walk 1 p.va.toNat = .leaf e) ∧ (s.coreAt 0).sStop = some p ∧ s.entryWaits 1 p.va.toNat p.acc = false ∧
      { s with faults := [⟨0, 1, 0⟩] }.entryWaits 1 p.va.toNat p.acc = true ∧ p.migrating = false ∧
       (s.coreAt 0).mStop = none ∧ (s.coreAt 0).cStop = none ∧
      (s.coreAt 0).pendingTrap = none) ∧
    (let s := { s0 with cores := Vector.replicate 128 Core.start }
     s.usersOf (.page 1 0) = [] ∧ s.usersOf (.ctx 1) = [] ∧ s.usersOf .all = [] ∧ s.tlbinvBusy = false ∧
      s.regs.tlbinvNext = []) ∧
    ∀ l ∈ [(0x90000FB, true), (0x100001001FB, false)],
      let s := { (pageState l.1) with hints := [(1, 0, !l.2)] }
      (s.sumpPage 1 0).any (fun e => inHbm e == l.2 && !s.pageStaged (leafPa e.leaf)) = true ∧ s.moveRoom = true ∧
        s.hinted 1 0 (!l.2) = true := by
  refine ⟨?_, ?_, ⟨leafOf ?_, ?_⟩, ?_, ?_⟩ <;> decide +kernel

theorem met_PageEventsComplete_down :
    let m : SumpMove := ⟨1, 0, 0x8004000, false, true, []⟩
    let s := { (pageState 0x90000FB) with moves := [m] }
    (s.moves[0]? = some m ∧ m.entered = true ∧ s.moveQuiet m = true ∧ s.pageStaged 0x9000000 = false ∧
     s.rangeTier 1 0 = 1) ∧
      ∀ xs, (s.placeFor 1 (pageClass (encodePage xs) * 4)).isSome = true := by
  refine ⟨by decide +kernel, fun xs => ?_⟩
  have room : ∀ n < 5, (State.placeFor { (pageState 0x90000FB) with moves := [⟨1, 0, 0x8004000, false, true, []⟩] } 1 (n * 4)).isSome =
    true := by decide +kernel
  exact room _ (Nat.lt_succ_of_le (pageClass_le xs))

theorem met_PageEventsComplete_up :
    (let m : SumpMove := ⟨1, 0, 0x8004000, true, true, []⟩
     let s := { (pageState 0x100000005FB) with
       moves := [m], mem := writeLE (pageState 0x100000005FB).mem 0x10000000000 8 0x905 }
     let leaf := readLE s.mem 0x8004000 8
     let pa := bits leaf 50 12 * 4096
     s.moves[0]? = some m ∧ m.entered = true ∧ s.moveQuiet m = true ∧ s.pageStaged pa = false ∧ bitN leaf 10 = true ∧
      (readPage s.mem pa).isSome = true ∧ s.takeFrame.isSome = true) := by
  decide +kernel

theorem met_PageEventsComplete_stash :
    (let e := { stash0 .prefetching with groups := [0x10000000000] }
     let s := { (stashing [e] s0) with mem := memOf [(0x10000000000, 0x905)] }
     (stashing [stash0 .compressing] s0).grotto.find 0x0F0000 = some (stash0 .compressing) ∧
      (∀ f ∈ (stashing [stash0 .compressing] s0).grotto.entries, f.wantFrames = false) ∧
      s.grotto.find 0x0F0000 = some e ∧ ∀ i < e.frames.length, (e.pageBytes s.mem i).isSome = true) := by
  decide +kernel


/-- A message that fills the last slot. -/
def msg0 : CulvertMsg := { fromCoord := 0, fromCh := 0, seq := 255, tag := 7, bytes := List.replicate 256 9 }

/-- A port that is UP, training, and one that waits for its replay; an endpoint enabled and disabled by the host, an
ACTIVE send endpoint and the delivery to an ACTIVE receive endpoint's EMPTY slot. -/
theorem met_PortAndChannelEventsComplete :
    (let s := { s0 with ports := s0.ports.set 9 ⟨.up, 65535, 0, true⟩ }
     (s.ports[9]).state = .up ∧ (s.ports[9]).replaying = true ∧ (7 : Fin 10).val < 8 ∧ (s0.ports[0]).state = .training) ∧
    (s0.chanWritable s0.chans[31] = true ∧ (s0.chans[31]).ctl.getLsbD 0 = false ∧ (1 : DWord).getLsbD 0 = true ∧
      (0 : DWord).getLsbD 0 = false) ∧
    (let c := { chan0 false with unacked := some 0 }
     c.state = 1 ∧ c.ctl.getLsbD 16 = false ∧ c.unacked.isSome = true) ∧
    (let c := { chan0 true with ctl := (chan0 true).ctl + 2 ^ 48, ring := 0x4000 }
     let s := withChan c s0
     let id : CtxId := BitVec.ofNat 16 (bits c.ctl.toNat 63 48)
     let r := deviceWrite id (c.ringVa + 255 * c.slotBytes)
       ((msg0.bytes ++ List.replicate (c.slotBytes - msg0.bytes.length) 0).take c.slotBytes) s
     c.state = 1 ∧ c.ctl.getLsbD 16 = true ∧ c.ctl.getLsbD 17 = false ∧ bits c.peer.toNat 28 24 = msg0.fromCh.toNat ∧
      bits c.peer.toNat 21 0 = msg0.fromCoord.toNat ∧ c.waiting = none ∧ c.landing = none ∧ bits c.ctl.toNat 37 36 = 0 ∧
      c.cn.getLsbD 12 = false ∧ (s.slotOf id).isSome = true ∧ msg0.seq.toNat % c.nslot = 255 ∧ c.slot 255 = .empty ∧
      s.slotAdmitted id c (c.ringVa + 255 * c.slotBytes) (c.ringVa + (255 + 1) * c.slotBytes) = true ∧ isOk r = true ∧
       (stOf r).chans = s.chans ∧
      (stOf r).pageHolds id (c.ringVa + 255 * c.slotBytes) (c.ringVa + (255 + 1) * c.slotBytes) = false) ∧
    (let c := { chan0 true with ctl := (chan0 true).ctl + 2 ^ 48, ring := 0x4000 }
     let m : SumpMove := ⟨1, 0x13000, 0x8004000, true, true, [⟨0, [], .store, none⟩]⟩
     { s0 with moves := [m] }.pageHolds 1 (c.ringVa + 255 * c.slotBytes) (c.ringVa + (255 + 1) * c.slotBytes) = true) := by
  decide +kernel

/-- A work entry that sends nothing, and one that sends the 64 bytes at VA 0x8000. -/
def entry0 (len : Nat) (st : EntryState) : WorkEntry := {
  desc := BitVec.ofNat 512 (0x8000 + len * 2 ^ 128), core := 0, slot := 0, iseq := 0, red := false, state := st, bytes := [] }

/-- Queue pair 4095 so. -/
def withQp (q : Qp) : State := { (owning s0) with qps := [(4095, some q)] }

/-- A delivery. -/
def del0 (seq : Word) (bytes : List Byte) (rcn : Option (BitVec 12)) : QpMsg := {
  peer := 0x1000000, sqp := 0, rqp := 4095, seq := seq, dst := 0x8000, rcn := rcn, red := false, bf16 := false, bytes := bytes }

theorem met_QueuePairEventsComplete :
    (let e := entry0 64 .waiting
     let q := { Qp.start with state := 1, entries := [e] }
     let s := withQp q
     s.qp 4095 = q ∧ q.entries[q.headIx]? = some e ∧ s.qpOwner 4095 = some 1 ∧ e.state = .waiting ∧
      wdCounter (wd e.desc 0x1C 2) = none) ∧
    (let e := entry0 64 .reading
     let q := { Qp.start with state := 1, entries := [e] }
     let s := withQp q
     q.entries[q.headIx]? = some e ∧ e.state = .reading ∧ s.sourceHeld 1 (wd e.desc 0 8) (wd e.desc 0x10 4) = false ∧
      isOk (deviceRead 1 (wd e.desc 0 8) (wd e.desc 0x10 4) (s.clearPath (.qpSource 4095))) = true) ∧
    (let q := { Qp.start with state := 1, sseq := 2, entries := [entry0 0 (.sent 0), entry0 0 (.sent 1)] }
     q.state = 1 ∧ seqBefore q.aseq (1 + 1) = true ∧ seqBefore q.sseq (1 + 1) = false ∧
      (∀ e ∈ q.entries, wdCounter (wd e.desc 0x28 2) = none) ∧ (∃ e ∈ q.entries, e.state = .sent 1) ∧
      q.entries.map (·.state) = [0, 1].map EntryState.sent) ∧
    (let r := { Qp.start with state := 1, peer := 0x1000000, rseq := 5 }
     let s := withQp r
     s.qpOwner 4095 = some 1 ∧ (r.state = 1 ∧ r.peer = (del0 5 [] none).peer ∧ r.pqp = (del0 5 [] none).sqp) ∧
      seqBefore (del0 4 [] none).seq r.rseq = true ∧ seqBefore r.rseq (del0 6 [] none).seq = true ∧
      seqBefore (del0 6 [] none).seq r.rseq = false ∧ (del0 5 [] none).seq = r.rseq ∧ r.waiting = none) ∧
    (let o := { out0 with kind := .exchange, cn := 3, complete := 1 }
     let s := owning { s0 with ctxs := s0.ctxs.set 0 { s0.ctxs[0] with outs := [(0, some o)] } }
     let m := del0 0 (List.replicate 64 7) (some 3)
     m.seq = (s.qp 4095).rseq ∧ (s.qp 4095).waiting = none ∧ m.bytes ≠ [] ∧ m.red = false ∧
      (s.ctxOf 1).liveOuts.find? (fun o => decide (o.base.toNat ≤ m.dst.toNat) &&
        decide (m.dst.toNat + m.bytes.length ≤ o.limit)) = some o ∧ o.kind = .exchange ∧ m.rcn = some o.cn ∧
      s.gateOpen 1 o = false ∧ isOk (deliveryLines 1 m o s) = true ∧
      ((stOf (deliveryLines 1 m o s)).deliverLines m o (valOf [] (deliveryLines 1 m o s))).deliveryPending 1 m = false) ∧
    (let r : RedStep := ⟨0, [(0x9000, 0)], [], 4095, false⟩
     let s := { s0 with redsteps := [r, r] }
     s.redsteps[0]? = some r ∧ (∀ x ∈ s.redsteps.take 0, x.stack ≠ r.stack) ∧
      ∃ x ∈ s.redsteps.eraseIdx 0, x.rqp = r.rqp) := by
  decide +kernel

/-- The last counter without a watch on any core; a delivery without bytes, counted in the last counter; one into the
live output's first line, with its lines outside every stream, written or reduced; one whose page holds writes; the
last step of a delivery and one before it. -/
theorem met_QueuePairEventsComplete_accepts :
    (sortedFrom 0 0 s0.counters = true ∧ ∀ i ∈ s0.coresOf 1, (s0.coreAt i).watches = []) ∧
    (let s := withQp Qp.start
     let m := del0 0 [] (some 4095)
     (s.qp 4095).state = 0 ∧ m.seq = (s.qp 4095).rseq ∧ (s.qp 4095).waiting = none ∧ 4095 < (s.ctxOf 1).cnCount) ∧
    (∀ red ∈ [false, true],
     let m := { del0 0 (List.replicate 64 7) (some 3) with red := red }
     m.dst.toNat % 64 = 0 ∧ m.dst.toNat + m.bytes.length ≤ 2 ^ 57 ∧ leafAperture placedLeaf.leaf = false ∧
      placedLeaf.leaf.getLsbD 4 = true ∧ placedLeaf.leaf.getLsbD 7 = true ∧ placedLeaf.leaf.getLsbD 10 = false ∧
      placedLeaf.leaf.getLsbD 11 = false ∧ leafPa placedLeaf.leaf = 0 ∧ Memory.wf s0.mem = true ∧
      ∀ a ∈ (List.range 64).map (m.dst.toNat + ·),
        s0.tlb.find? (fun e => e.covers 1 a) = some placedLeaf ∧ (s0.tag (a / 64) out0).stream = 0 ∧
         s0.inTier 0 a 64 = true) ∧
    (let o := { out0 with kind := .exchange, cn := 3, complete := 1 }
     let s := owning { s0 with
       ctxs := s0.ctxs.set 0 { s0.ctxs[0] with outs := [(0, some o)] }
       moves := [⟨1, 0x8000, 0x8004000, true, true, [⟨0, [], .store, none⟩]⟩] }
     let m := del0 0 (List.replicate 64 7) (some 3)
     isOk (deliveryLines 1 m o s) = true ∧
      ((stOf (deliveryLines 1 m o s)).deliverLines m o (valOf [] (deliveryLines 1 m o s))).deliveryPending 1 m = true) ∧
    (let m := { del0 0 (List.replicate 64 7) (some 3) with red := true }
     let r : RedStep := ⟨0, [(0x8000, 0)], [], 4095, false⟩
     let s := { (withQp { Qp.start with state := 1, peer := 0x1000000, waiting := some m }) with redsteps := [r] }
     s.redsteps[0]? = some r ∧ r.rqp = m.rqp ∧ (s.qp 4095).waiting = some m ∧ (s.qp 4095).waitVa = none ∧
      s.qpOwner 4095 = some 1 ∧ s.redsteps.eraseIdx 0 = [] ∧
      s.pageHolds 1 m.dst.toNat (m.dst.toNat + m.bytes.length) = false) ∧
    (let m := { del0 0 (List.replicate 64 7) (some 3) with red := true }
     let r : RedStep := ⟨0, [(0x8000, 0)], [], 4095, false⟩
     let s := { (withQp { Qp.start with state := 1, peer := 0x1000000, waiting := some m }) with redsteps := [r, r] }
     (∃ x ∈ s.redsteps.eraseIdx 0, x.rqp = r.rqp) ∧ (s.qp r.rqp.toNat).waiting = some m ∧ m.rqp = r.rqp) := by
  refine ⟨?_, ?_, ?_, ?_, ?_, ?_⟩
  case refine_3 => intro red h; fin_cases h <;> decide +kernel
  all_goals decide +kernel

/-- A reset that passes and one that does not; an attestation to a host address and to one that is none; evaluations
below, at and above the limits; the counters' reductions; the last bytes of HBM. -/
theorem met_ManagementEventsComplete :
    (let s := State.reset
     s.phaseFailed = false ∧ s.regs.atcmd.getLsbD 0 = false ∧ Memory.wf s.mem = true ∧
      s.inTier 3 (Config.hostEnd - 256) 256 = true ∧ Config.hostEnd - 256 < 2 ^ 51 ∧ s.inTier 3 0 256 = false ∧
      s.windowOpen = true ∧ s.frozen = false) ∧
    (let s := { State.reset with flash := { State.reset.flash with rollback := 2 } }
     let b : BootInput := ⟨true, 2, true, true, true, true, 0x3FF⟩
     b.firmwareOk = true ∧ s.flash.rollback.toNat ≤ b.imageVersion.toNat ∧ b.configOk = true ∧ b.layoutKnown = true ∧
      ¬s.flash.rollback.toNat ≤ ({ b with imageVersion := 1 } : BootInput).imageVersion.toNat) ∧
    { State.reset.flash with pufDigest := pufDigest }.pufDigest = pufDigest ∧
    { s0 with cores := Vector.replicate 128 Core.start, regs := { s0.regs with pcsel := 0x10000 } }.perfCores = [] ∧
    (let p : PowerSample := ⟨0xFFFF, 0, 104, 104, 0, 0⟩
     p.die0.toNat < 105 ∧ p.die1.toNat < 105) ∧
    (let p : PowerSample := ⟨0, 0, 0, 105, 0, 0⟩
     105 ≤ p.die0.toNat ∨ 105 ≤ p.die1.toNat) ∧
    (s0.regs.pcsel.toNat / 2 ^ 8 % 4 = 0 ∧
     ∀ r < 4, ({ s0.regs with pcsel := BitVec.ofNat 64 (256 * r) }).pcsel.toNat / 2 ^ 8 % 4 = r) ∧
    (∃ k ∈ s0.perfCores, ∀ y ∈ s0.perfCores, k ≤ y) ∧ (∃ k ∈ s0.perfCores, ∀ y ∈ s0.perfCores, y ≤ k) ∧
    (s0.inMemory (Config.hbmEnd - 2) 2 = true ∧ (∀ k < 2, s0.reducing (Config.hbmEnd - 2 + k) = false) ∧
      s0.inMemory (Config.hbmEnd - 2) 3 = false) := by
  refine ⟨by decide +kernel, by decide +kernel, rfl, by decide +kernel, by decide +kernel, by decide +kernel,
    by decide +kernel, ⟨0, ?_⟩, ⟨0, ?_⟩, by decide +kernel⟩ <;>
    decide +kernel

/-- The next step runs this. -/
def nextStep (a : Action) (s : State) : State := { s with agenda := [a] }

/-- The state in which the sequencer fetches. -/
def fetching (s : State) : State :=
  { s with agenda := [], cur := 0, skip := 0, cores := s.cores.set 0 { s.cores[0] with issue := .none_ } }

/-- A bundle of `trap 5` and three idle slots, one with a word that is ILLEGAL, in a state with a handler; a command next
in its queue; an event that can happen. -/
theorem met_StepRunsTheDecodedInstruction :
    (let s := nextStep (.run 0 .s) { s0 with mem := writeLE s0.mem 0x1000 16 0x53 }
     let r := fetchBundle (fetching s)
     let b := valOf 0 r
     s.clocked = true ∧ ({ s with agenda := [] }).mayIssue 0 = true ∧ isOk r = true ∧ illegalInfo b = none ∧
      isOk (issueGate (engWords b) (stOf r)) = true ∧ decode .s (b.slot .s) = some (.trap 5)) ∧
    (let s := nextStep (.run 0 .s) { s0 with mem := writeLE s0.mem 0x1000 16 0xFC000000 }
     let r := fetchBundle (fetching s)
     isOk r = true ∧ (illegalInfo (valOf 0 r)).isSome = true ∧ CanTrap (fetching s)) ∧
    (let j := placedJob
     let e := placedLeaf
     s0.cores[0].job = some j ∧ j.poolmap = 0 ∧ j.code.toNat ≤ 0x1000 ∧ 0x1000 < j.code.toNat + 16 * j.nbun ∧
      s0.tlb.find? (fun e => e.covers j.ctx 0x1000) = some e ∧ e.leaf.getLsbD 5 = true ∧ leafAperture e.leaf = false ∧
      e.leaf.getLsbD 10 = false ∧ e.leaf.getLsbD 11 = false ∧ e.va.toNat ≤ 0x1000 ∧
      ∀ k < 16, s0.reducing (leafPa e.leaf + (0x1000 + k - e.va.toNat)) = false) ∧
    (let i := Instr.vaddF32 false (.o 1) .zero .zero 0
     let s := nextStep (.run 0 (engSlot .v)) (ready .v i id)
     s.clocked = true ∧ ({ s with agenda := [] }).ownerOf 0 .v = none ∧
      (s.cores[0].queue .v)[s.cores[0].nextIx .v]? = some (cmdOf i id) ∧
      (s.cores[0].taken .v).map (·.2) ≠ some (cmdOf i id).iseq ∧
       ({ s with agenda := [] }).mayExecute 0 .v (cmdOf i id) = true) ∧
    s0.eventOk .freeze = true := by
  unfold CanTrap; decide +kernel

/-- The encoders' and the invariant's: a well-formed instruction with a word, and a state from which a step goes on. -/
theorem met_EncodingAndInvariant :
    (Instr.wf (.div 3 4 5) = true ∧ encode (.div 3 4 5) = some (.s, 0x04642805)) ∧
    decode .s 0x04642805 = some (.div 3 4 5) ∧
    (AllCanonical s0 ∧ AllCanonical (nextStep (.event .freeze) s0) ∧
      isNext (step (nextStep (.event .freeze) s0)) = true) := by
  unfold AllCanonical CoreCanonical; decide +kernel

/-! ## Results that the spec works out -/

/-- What the executing core holds after one instruction. -/
def after (i : Instr) (s : State) : Core := (nextOf (exec i s)).core

/-- R159: a division by zero writes all ones and sets DZ; -7 by 2 gives -3 and leaves -1. -/
theorem test_division :
    (after (.div 3 4 5) (withX [(4, 100)])).rx 3 = 0xFFFFFFFFFFFFFFFF ∧
    (after (.div 3 4 5) (withX [(4, 100)])).sr.aflags = 2 ∧
    (after (.divs 3 4 5) (withX [(4, -7), (5, 2)])).rx 3 = -3 ∧
    (after (.rems 3 4 5) (withX [(4, -7), (5, 2)])).rx 3 = -1 := by decide +kernel

/-- R161: the last `hii` of the example. -/
theorem test_hii : (after (.hii 10 10 0x100) (withX [(10, 0x800000000000)])).rx 10 = 0x8000000000000100 := by
  decide +kernel

/-- R96, R97: a software trap saves its own address in TPC; the handler reads its code. -/
theorem test_trap :
    (after (.trap 5) s0).sr.tpc = s0.core.pc ∧ (after (.trap 5) s0).pc = 0x2000 ∧
    (after (.trap 5) s0).sr.tcause = 0x800000000000000F ∧ (after (.trap 5) s0).sr.tinfo = 5 := by decide +kernel

/-- R25, R27: the example decodings. -/
theorem test_decoded_values :
    (scaleV (decF .e4m3 0x44) (sc16 0x7E00)).eqv (.fin false 3 (-1)) ∧
    (scaleV (decF .e4m3 0x42) (sc16 0x7C80)).eqv (.fin false 15 (-5)) ∧
    (decF .e4m3 0x7E).eqv (.fin false 448 0) ∧
    (scaleV (decF .e4m3 0x01) (sc16 0x8500)).eqv (.fin false 1 (-3)) ∧
    scaleV (decF .e5m2 0x7C) (sc16 0x0000) = .nan ∧
    (scaleV (decF .e2m1 0b1101) (sc16 0x8000)).eqv (.fin true 6 0) := by decide +kernel

/-- R42 to R46: one element under NP1, NP3 and NP4. -/
theorem test_profiles :
    let bf := fun x : Nat => decF .bf16 x
    let ps := [(bf 0x3F80, bf 0x3FE8), (bf 0x3980, bf 0x3980), (bf 0x3980, bf 0x3980)] ++ List.replicate 21 (bf 0, bf 0)
    let tr := fun d x => bf (truncPlanes .bf16 d x)
    let qs := fun d => [(bf 0x3F80, tr d 0x3FE8), (bf 0x3980, tr d 0x3980), (bf 0x3980, tr d 0x3980)] ++
      List.replicate 21 (bf 0, bf 0)
    dotF .np1 0 ps = (0x3FE80001, 0) ∧ dotF .np3 0 ps = (0x3FE80000, 0) ∧ dotF .np4 0 (qs 2) = (0x3FC00001, 0) ∧
    dotF .np4 0 (qs 8) = (0x3FE80001, 0) := by decide +kernel

/-- R43, R45: integer saturation and grouping. -/
theorem test_integer_profiles :
    let ps := List.replicate 8 ((127 : Int), (127 : Int)) ++ List.replicate 8 (127, -127) ++ List.replicate 32 (0, 0)
    dotI .np1 2147483000 ps = (2147483000, 0) ∧ dotI .np3 2147483000 ps = (2147354615, flagSAT) := by decide +kernel

/-- R193, R194: 100.0, -3.0 and 0.01 quantised in blocks of 16 and decoded again. -/
theorem test_quantise :
    let v := ofLanes ([0x42C80000, 0xC0400000, 0x3C23D70A] ++ List.replicate 61 0)
    let q := laneQuant .e4m3 .g16 v
    let d := laneDeq .e4m3 .g16 q.1
    (elemN 8 q.1 0, elemN 8 q.1 1, elemN 8 q.1 2) = (0x7E, 0xD5, 0x13) ∧
    elemN 64 q.1 8 = 0x7CCA ∧ q.2.getLsbD 4 = true ∧ d.2 = 0 ∧
    (f32V (lane d.1 0)).eqv (.fin false 1603 (-4)) ∧ (f32V (lane d.1 1)).eqv (.fin true 5954 (-11)) ∧
    (f32V (lane d.1 2)).eqv (.fin false 5038 (-19)) := by decide +kernel

/-- R32, R31: one row converted to FP8 E4M3 in RNE, RDN and RNE-SAT. -/
theorem test_conversion_modes :
    let row := fun x : Nat => ([.rne, .rdn, .sat] : List RMode).map fun m => (convF .e4m3 m (decF .f32 x)).1
    row 0x3F800000 = [0x38, 0x38, 0x38] ∧ row 0x43960000 = [0x79, 0x79, 0x79] ∧ row 0x43FA0000 = [0x7F, 0x7E, 0x7E] ∧
    row 0xBC23D70A = [0x85, 0x86, 0x85] ∧ row 0xFF800000 = [0x7F, 0x7F, 0xFE] ∧ row 0x7FC00001 = [0x7F, 0x7F, 0x7F] := by
  decide +kernel

/-- R335: the canonical encoding of the INT32 values 1 to 64, before and after a store of 0x10000 to word 5. -/
theorem test_page_codec :
    let xs := (List.range 64).flatMap fun k => leBytes 4 (k + 1)
    let ys := xs.take 20 ++ leBytes 4 0x10000 ++ xs.drop 24
    encodeBlock xs = (2, true, 0x3F :: (List.range 64).map (fun k => BitVec.ofNat 8 (k + 1)) ++ [0xFF, 0xBF]) ∧
    decodeBlock 2 true (encodeBlock xs).2.2 = some xs ∧
    (encodeTokens 257 (shuffle 2 xs) []).length = 130 ∧
    ((encodeBlock ys).2.2.length, (encodeBlock ys).2.2.drop 65) = (69, [0xC4, 0x00, 0x01, 0xF9]) := by decide +kernel

/-- R416: entries of the quarter-wave table, and the sine and cosine of phase 0x30000000. -/
theorem test_sines :
    let w := fun i => (toF32 (sineEntry i)).1
    w 0 = 0 ∧ w 256 = 0x3EC3EF15 ∧ w 512 = 0x3F3504F3 ∧ w 768 = 0x3F6C835E ∧ w 1023 = 0x3F7FFFEC ∧
    (toF32 (sinq 0x30000000)).1 = 0x3F6C835E ∧ (toF32 (sinq (0x30000000 + 0x40000000))).1 = 0x3EC3EF15 := by
  decide +kernel

/-- R414, R415: the hash of zero. -/
theorem test_zero_hash : gnHash 0 0 0 = 0 := by decide +kernel

/-- R460: the evaluations of a lowered cap. -/
theorem test_power_evaluations :
    nextClock 1800 2300 2000 true false = 1700 ∧ nextClock 1700 2180 2000 true false = 1600 ∧
    nextClock 1600 2060 2000 true false = 1500 ∧ nextClock 1500 1940 2000 true false = 1500 := by decide +kernel

/-- R275, R280: five rows of two tiles over three jobs, and over seven. -/
theorem test_slices :
    let walk : List (BitVec 2 × Nat) := [(1, 5), (0, 2)]
    ([0, 1, 2].map fun j => sliceOf walk j 3 3) = [(0, 1), (1, 3), (3, 5)] ∧
    ((List.range 7).map fun j => sliceOf walk j 7 7) = [(0, 0), (0, 1), (1, 2), (2, 2), (2, 3), (3, 4), (4, 5)] ∧
    (firstTile walk 1 3).map (walkCoords walk) = some [1, 0] ∧ tilesOf walk 1 3 = 4 ∧
    ([0, 1, 2, 3, 4].map fun w => (tileFrom walk 1 3 w).map (walkCoords walk)) =
      [some [1, 0], some [1, 0], some [1, 0], some [1, 1], some [2, 0]] ∧ tileFrom walk 1 3 6 = none := by decide +kernel

/-- R316, R317: the walk to a 2 MiB FP8 page: the leaf, the address it reaches and the A bit set. -/
theorem test_walk :
    let t := fun pa : Nat => pa + 1
    let s : State := { (withCtx fun x => { x with ptroot := 0x10000 }) with
      tlb := [], mem := memOf [(0x10000, t 0x11000), (0x11000, t 0x12000), (0x12800, t 0x13000), (0x13008, 0x100000120020000B)] }
    let r := s.lookup 1 0x004000203010
    (match r.2 with | .leaf e => e.va == 0x4000200000 && e.size == 2 ^ 21 && leafPa e.leaf == 0x1200200000 | _ => false) = true ∧
    readLE r.1.mem 0x13008 8 = 0x100000120020004B := by decide +kernel

/-- R356: the entry that `crecv` pushes for sequence 0, slot 0 and TAG 5, and for sequence 1 in slot 1. -/
theorem test_crecv :
    let e := fun (lo : Word) (slot : Nat) => { chan0 true with ctl := 0x1010001, lo := lo, slots := [(slot, .filled lo 5)] }
    let q := fun (lo : Word) (slot : Nat) => ((nextOf (exec (.crecv 31 false 0) (withChan (e lo slot)
      (ready .c (.crecv 31 false 0) id)))).core.cq.map (·.pushes))
    q 0 0 = [[(6, 5)]] ∧ q 1 1 = [[(6, 0x0000000100010005)]] := by decide +kernel

/-- R305, R308, R309: the phase across two dies, its operations in the order of their arrival, and its end. -/
theorem test_phase_barrier :
    let s := (s0.putBarrier bar0 { idleBar with state := 1, pending := 4, expect := 4 })
    let ops : List BarKind := [.xin 1, .arrive 0, .wait 0, .arrive 0, .wait 0, .arrive 0, .wait 0, .arrive 0, .arrive 1, .decIn]
    let t := ops.foldl (fun s k => (s.barOp ⟨0, bar0, k, false⟩).1) s
    let before := (ops.take 9).foldl (fun s k => (s.barOp ⟨0, bar0, k, false⟩).1) s
    readLE s.core.xs (handleAddr bar0) 16 = 0x10040040 ∧
    (before.barrier bar0).waiters = 4 ∧ (before.barrier bar0).pending = 0 ∧
     (before.barComplete bar0).barrier bar0 = before.barrier bar0 ∧
    readLE (t.barComplete bar0).core.xs (handleAddr bar0) 16 = 0x00000000000100000000000010030041 := by decide +kernel

end

end Sys2Proof.Tests
end

section
/-! PROOFS. The register-register and the one-register instructions of the S slot (O1; R158, R159): the word of an
instruction of the ALU-R group, what the three shared meanings give, the value of each line of the table, and the
statement assembled from them. -/

namespace Sys2Proof

/-! ## The words of the ALU-R group (R54, R59) -/

/-- A word in format S-R as the sum of its fields at their places. -/
theorem toNat_packSR (op : BitVec 6) (d a b : XReg) (fn : BitVec 11) :
    (packSR op d a b fn).toNat =
      op.toNat * 2 ^ 26 + d.toNat * 2 ^ 21 + a.toNat * 2 ^ 16 + b.toNat * 2 ^ 11 + fn.toNat := by
  have hd := d.isLt
  have ha := a.isLt
  have hb := b.isLt
  have hfn := fn.isLt
  simp only [packSR, BitVec.toNat_append]
  rw [← Nat.shiftLeft_add_eq_or_of_lt hd, ← Nat.shiftLeft_add_eq_or_of_lt ha,
    ← Nat.shiftLeft_add_eq_or_of_lt hb, ← Nat.shiftLeft_add_eq_or_of_lt hfn]
  simp only [Nat.shiftLeft_eq]
  omega

/-- The fields of a word in format S-R are what it was packed from. -/
theorem fld_packSR (op : BitVec 6) (d a b : XReg) (fn : BitVec 11) :
    fld (packSR op d a b fn) 26 6 = op ∧ fld (packSR op d a b fn) 21 5 = d ∧ fld (packSR op d a b fn) 16 5 = a ∧
      fld (packSR op d a b fn) 11 5 = b ∧ fld (packSR op d a b fn) 0 11 = fn := by
  have hop := op.isLt
  have hd := d.isLt
  have ha := a.isLt
  have hb := b.isLt
  have hfn := fn.isLt
  refine ⟨?_, ?_, ?_, ?_, ?_⟩ <;>
    (apply BitVec.eq_of_toNat_eq
     simp only [fld, BitVec.extractLsb'_toNat, Nat.shiftRight_eq_div_pow, toNat_packSR]
     omega)

/-- The word of R158 is the word of major 0x01 in format S-R. -/
theorem ofNat_eq_packSR (d a b : XReg) {fn : Nat} (h : fn < 2 ^ 11) :
    BitVec.ofNat 32 (0x04000000 + d.toNat * 2 ^ 21 + a.toNat * 2 ^ 16 + b.toNat * 2 ^ 11 + fn) =
      packSR 1 d a b (BitVec.ofNat 11 fn) := by
  have hmajor : (1 : BitVec 6).toNat = 1 := rfl
  apply BitVec.eq_of_toNat_eq
  rw [toNat_packSR, BitVec.toNat_ofNat, BitVec.toNat_ofNat, hmajor]
  omega

/-- What the ALU-R group decodes to is well-formed. -/
theorem wf_of_decodeAlu {d a b : XReg} {fn : BitVec 11} {i : Instr} (h : decodeAlu d a b fn = some i) :
    i.wf = true := by
  unfold decodeAlu needZero at h
  split at h <;> try split at h
  all_goals (cases h <;> rfl)

/-- The word of R158 decodes to the instruction that its group names. -/
theorem decode_aluWord {d a b : XReg} {fn : Nat} {i : Instr}
    (h : decodeAlu d a b (BitVec.ofNat 11 fn) = some i) (hfn : fn < 2 ^ 11 := by decide) :
    decode .s (BitVec.ofNat 32 (0x04000000 + d.toNat * 2 ^ 21 + a.toNat * 2 ^ 16 + b.toNat * 2 ^ 11 + fn)) =
      some i := by
  obtain ⟨hop, hd, ha, hb, hf⟩ := fld_packSR 1 d a b (BitVec.ofNat 11 fn)
  have hparse : parse .s (packSR 1 d a b (BitVec.ofNat 11 fn)) = some i := by
    rw [parse, parseS, hop, hd, ha, hb, hf, ← h]
    rfl
  rw [ofNat_eq_packSR d a b hfn, decode, hparse]
  exact if_pos (wf_of_decodeAlu h)

end Sys2Proof

namespace Sys2Proof.Machine

/-! ## What the three shared meanings give -/

/-- A register-register word writes its result, raises nothing and advances. -/
theorem gives_alu {i : Instr} (f : DWord → DWord → DWord) {d a b : XReg} {s : State} {v : DWord}
    (hi : exec i s = alu f d a b s) (hv : f (s.core.rx a) (s.core.rx b) = v) :
    Gives i s fun t => RegWord s t d v 0 :=
  ⟨_, hi, hv ▸ regWord_advance s d _⟩

/-- A one-register word writes its result, raises nothing and advances. -/
theorem gives_alu1 {i : Instr} (f : DWord → DWord) {d a : XReg} {s : State} {v : DWord}
    (hi : exec i s = alu1 f d a s) (hv : f (s.core.rx a) = v) : Gives i s fun t => RegWord s t d v 0 :=
  ⟨_, hi, hv ▸ regWord_advance s d _⟩

/-- A division writes its result, raises its flags and advances. -/
theorem gives_aluDiv {i : Instr} (f : DWord → DWord → DWord × Flags) {d a b : XReg} {s : State} {v : DWord}
    {fl : Flags} (hi : exec i s = aluDiv f d a b s) (hv : f (s.core.rx a) (s.core.rx b) = (v, fl)) :
    Gives i s fun t => RegWord s t d v fl := by
  have h := regWord_writeFlagged s d v fl
  rw [← hv] at h
  exact ⟨_, hi, h⟩

/-- A division by its divisor: by zero it raises DZ, otherwise nothing. -/
theorem gives_aluDiv_cases {i : Instr} (f : DWord → DWord → DWord × Flags) {d a b : XReg} {s : State}
    {v byZero : DWord} (hi : exec i s = aluDiv f d a b s) (hzero : f (s.core.rx a) 0 = (byZero, flagDZ))
    (hv : s.core.rx b ≠ 0 → f (s.core.rx a) (s.core.rx b) = (v, 0)) :
    (s.core.rx b = 0 → Gives i s fun t => RegWord s t d byZero flagDZ) ∧
      (s.core.rx b ≠ 0 → Gives i s fun t => RegWord s t d v 0) :=
  ⟨fun hb => gives_aluDiv f hi (hb ▸ hzero), fun hb => gives_aluDiv f hi (hv hb)⟩

/-! ## Sums, products and shifts -/

theorem add_eq_ofNat (x y : DWord) : x + y = BitVec.ofNat 64 ((x.toNat + y.toNat) % 2 ^ 64) :=
  BitVec.eq_of_toNat_eq (by simp)

theorem sub_eq_ofInt (x y : DWord) : x - y = BitVec.ofInt 64 (x.toNat - y.toNat) := by
  apply BitVec.eq_of_toNat_eq
  rw [BitVec.toNat_sub, BitVec.toNat_ofInt]
  omega

theorem mul_eq_ofNat (x y : DWord) : x * y = BitVec.ofNat 64 (x.toNat * y.toNat) :=
  BitVec.eq_of_toNat_eq (by simp)

theorem shiftLeft_eq_ofNat (x : DWord) (n : Nat) : x <<< n = BitVec.ofNat 64 (x.toNat * 2 ^ n) :=
  BitVec.eq_of_toNat_eq (by rw [BitVec.toNat_shiftLeft, BitVec.toNat_ofNat, Nat.shiftLeft_eq])

theorem ushiftRight_eq_ofNat (x : DWord) (n : Nat) : x >>> n = BitVec.ofNat 64 (x.toNat / 2 ^ n) := by
  rw [← Nat.shiftRight_eq_div_pow, ← BitVec.toNat_ushiftRight, BitVec.ofNat_toNat, BitVec.setWidth_eq]

theorem sshiftRight_eq_ofInt (x : DWord) (n : Nat) : x.sshiftRight n = BitVec.ofInt 64 (x.toInt / 2 ^ n) := by
  rw [BitVec.sshiftRight, Int.shiftRight_eq_div_pow, Nat.cast_pow, Nat.cast_ofNat]

/-! ## The lesser and the greater -/

theorem ite_lt_eq_ofNat_min (x y : DWord) :
    (if x.toNat < y.toNat then x else y) = BitVec.ofNat 64 (min x.toNat y.toNat) := by
  split
  · rw [min_eq_left (by omega), BitVec.ofNat_toNat, BitVec.setWidth_eq]
  · rw [min_eq_right (by omega), BitVec.ofNat_toNat, BitVec.setWidth_eq]

theorem ite_lt_eq_ofNat_max (x y : DWord) :
    (if x.toNat < y.toNat then y else x) = BitVec.ofNat 64 (max x.toNat y.toNat) := by
  split
  · rw [max_eq_right (by omega), BitVec.ofNat_toNat, BitVec.setWidth_eq]
  · rw [max_eq_left (by omega), BitVec.ofNat_toNat, BitVec.setWidth_eq]

theorem ite_lt_eq_ofInt_min (x y : DWord) :
    (if x.toInt < y.toInt then x else y) = BitVec.ofInt 64 (min x.toInt y.toInt) := by
  split
  · rw [min_eq_left (by omega), BitVec.ofInt_toInt]
  · rw [min_eq_right (by omega), BitVec.ofInt_toInt]

theorem ite_lt_eq_ofInt_max (x y : DWord) :
    (if x.toInt < y.toInt then y else x) = BitVec.ofInt 64 (max x.toInt y.toInt) := by
  split
  · rw [max_eq_right (by omega), BitVec.ofInt_toInt]
  · rw [max_eq_left (by omega), BitVec.ofInt_toInt]

/-! ## The divisions (R159) -/

theorem divU_zero (x : DWord) : divU x 0 = (0xFFFFFFFFFFFFFFFF, flagDZ) := rfl

theorem divU_of_ne_zero (x : DWord) {y : DWord} (h : y ≠ 0) : divU x y = (BitVec.ofNat 64 (x.toNat / y.toNat), 0) := by
  rw [divU, if_neg h, BitVec.udiv_def]

theorem remU_zero (x : DWord) : remU x 0 = (x, flagDZ) := rfl

theorem remU_of_ne_zero (x : DWord) {y : DWord} (h : y ≠ 0) :
    remU x y = (BitVec.ofNat 64 (x.toNat - y.toNat * (x.toNat / y.toNat)), 0) := by
  rw [remU, if_neg h, BitVec.umod_def, Nat.mod_eq_sub_mul_div]

theorem divS_zero (x : DWord) :
    divS x 0 = (if 0 ≤ x.toInt then 0x7FFFFFFFFFFFFFFF else 0x8000000000000000, flagDZ) := by
  rw [divS, if_pos rfl, ← ite_not]
  simp only [not_lt]

/-- The quotient 2^63 of -2^63 by -1 truncates to the bits of -2^63. -/
theorem divS_of_ne_zero (x : DWord) {y : DWord} (h : y ≠ 0) :
    divS x y = (if x.toInt = -(2 ^ 63) ∧ y.toInt = -1 then 0x8000000000000000
      else BitVec.ofInt 64 (x.toInt.tdiv y.toInt), 0) := by
  rw [divS, if_neg h]
  split
  case isTrue hxy => rw [hxy.1, hxy.2]; rfl
  case isFalse => rfl

theorem remS_zero (x : DWord) : remS x 0 = (x, flagDZ) := rfl

theorem remS_of_ne_zero (x : DWord) {y : DWord} (h : y ≠ 0) :
    remS x y = (if x.toInt = -(2 ^ 63) ∧ y.toInt = -1 then 0
      else BitVec.ofInt 64 (x.toInt - y.toInt * x.toInt.tdiv y.toInt), 0) := by
  rw [remS, if_neg h, Int.tmod_def]
  split
  case isTrue hxy => rw [hxy.1, hxy.2]; rfl
  case isFalse => rfl

/-! ## Counting and reversing bits -/

theorem leadingZeros_le (x : DWord) (k : Nat) : leadingZeros x k ≤ k := by
  induction k with
  | zero => exact Nat.le_refl 0
  | succ k ih => rw [leadingZeros]; split <;> omega

/-- The bits that are counted are zero. -/
theorem getLsbD_of_leadingZeros (x : DWord) (k : Nat) :
    ∀ i, k - leadingZeros x k ≤ i → i < k → x.getLsbD i = false := by
  induction k with
  | zero => intro i _ hi; omega
  | succ k ih =>
    intro i hlo hi
    rw [leadingZeros] at hlo
    split at hlo
    case isTrue => omega
    case isFalse hk =>
      rcases Nat.lt_succ_iff_lt_or_eq.mp hi with hi | rfl
      · exact ih i (by omega) hi
      · simpa using hk

/-- The bit below the ones that are counted is one. -/
theorem getLsbD_below_leadingZeros (x : DWord) (k : Nat) (h : leadingZeros x k < k) :
    x.getLsbD (k - 1 - leadingZeros x k) = true := by
  induction k with
  | zero => omega
  | succ k ih =>
    rw [leadingZeros] at h ⊢
    split at h
    case isTrue hk => rwa [if_pos hk]
    case isFalse hk =>
      rw [if_neg hk, show k + 1 - 1 - (leadingZeros x k + 1) = k - 1 - leadingZeros x k by omega]
      exact ih (by omega)

theorem onesBelow_eq_length_filter (x : DWord) (k : Nat) :
    onesBelow x k = ((List.range k).filter fun i => x.getLsbD i).length := by
  induction k with
  | zero => rfl
  | succ k ih =>
    rw [onesBelow, ih, List.range_succ, List.filter_append, List.length_append]
    cases hk : x.getLsbD k <;> simp [hk]

theorem getLsbD_bitReverse (x : DWord) {i : Nat} (h : i < 64) : (bitReverse x).getLsbD i = x.getLsbD (63 - i) := by
  rw [bitReverse, BitVec.getLsbD_reverse, BitVec.getMsbD_eq_getLsbD]
  simp [h]

/-! ## The table -/

/-- Settles O1, a line of the table at a time: its word decodes by the fields of format S-R, and its meaning is a shared
one with the function named here, whose value is the table's. -/
theorem aluRegisterResults : Obligations.AluRegisterResults := by
  intro d a b s A B n word flagged gives divides one
  exact ⟨
    ⟨decode_aluWord rfl, gives_alu (· + ·) rfl (add_eq_ofNat A B)⟩,
    ⟨decode_aluWord rfl, gives_alu (· - ·) rfl (sub_eq_ofInt A B)⟩,
    ⟨decode_aluWord rfl, gives_alu (· * ·) rfl (mul_eq_ofNat A B)⟩,
    ⟨decode_aluWord rfl, gives_alu (fun x y => BitVec.ofNat 64 (x.toNat * y.toNat / 2 ^ 64)) rfl rfl⟩,
    ⟨decode_aluWord rfl, gives_alu (fun x y => BitVec.ofInt 64 (x.toInt * y.toInt / 2 ^ 64)) rfl rfl⟩,
    ⟨decode_aluWord rfl, gives_aluDiv_cases divU rfl (divU_zero A) (divU_of_ne_zero A)⟩,
    ⟨decode_aluWord rfl, gives_aluDiv_cases divS rfl (divS_zero A) (divS_of_ne_zero A)⟩,
    ⟨decode_aluWord rfl, gives_aluDiv_cases remU rfl (remU_zero A) (remU_of_ne_zero A)⟩,
    ⟨decode_aluWord rfl, gives_aluDiv_cases remS rfl (remS_zero A) (remS_of_ne_zero A)⟩,
    ⟨decode_aluWord rfl, gives_alu (· &&& ·) rfl rfl⟩,
    ⟨decode_aluWord rfl, gives_alu (· ||| ·) rfl rfl⟩,
    ⟨decode_aluWord rfl, gives_alu (· ^^^ ·) rfl rfl⟩,
    ⟨decode_aluWord rfl, gives_alu (· &&& ~~~·) rfl rfl⟩,
    ⟨decode_aluWord rfl, gives_alu (fun x y => x <<< (y.toNat % 64)) rfl (shiftLeft_eq_ofNat A n)⟩,
    ⟨decode_aluWord rfl, gives_alu (fun x y => x >>> (y.toNat % 64)) rfl (ushiftRight_eq_ofNat A n)⟩,
    ⟨decode_aluWord rfl, gives_alu (fun x y => x.sshiftRight (y.toNat % 64)) rfl (sshiftRight_eq_ofInt A n)⟩,
    ⟨decode_aluWord rfl, gives_alu (fun x y => if x.toNat < y.toNat then x else y) rfl (ite_lt_eq_ofNat_min A B)⟩,
    ⟨decode_aluWord rfl, gives_alu (fun x y => if x.toNat < y.toNat then y else x) rfl (ite_lt_eq_ofNat_max A B)⟩,
    ⟨decode_aluWord rfl, gives_alu (fun x y => if x.toInt < y.toInt then x else y) rfl (ite_lt_eq_ofInt_min A B)⟩,
    ⟨decode_aluWord rfl, gives_alu (fun x y => if x.toInt < y.toInt then y else x) rfl (ite_lt_eq_ofInt_max A B)⟩,
    ⟨decode_aluWord rfl, gives_alu (fun x y => if x.toInt < y.toInt then 1 else 0) rfl rfl⟩,
    ⟨decode_aluWord rfl, gives_alu (fun x y => if x.toNat < y.toNat then 1 else 0) rfl rfl⟩,
    ⟨decode_aluWord rfl, gives_alu (fun x y => if x = y then 1 else 0) rfl rfl⟩,
    ⟨decode_aluWord rfl, gives_alu (fun x y => if x = y then 0 else 1) rfl (ite_not (A = B) 1 0).symm⟩,
    ⟨leadingZeros A 64, ⟨decode_aluWord (b := 0) rfl, gives_alu1 (fun x => .ofNat 64 (leadingZeros x 64)) rfl rfl⟩,
      leadingZeros_le A 64, getLsbD_of_leadingZeros A 64, getLsbD_below_leadingZeros A 64⟩,
    ⟨decode_aluWord (b := 0) rfl, gives_alu1 (fun x => BitVec.ofNat 64 (onesBelow x 64)) rfl
      (congrArg (BitVec.ofNat 64) (onesBelow_eq_length_filter A 64))⟩,
    bitReverse A, ⟨decode_aluWord (b := 0) rfl, gives_alu1 bitReverse rfl rfl⟩, fun _ => getLsbD_bitReverse A⟩

end Sys2Proof.Machine
end

section
/-! PROOFS. The words of format V-R, and the floating-point words of the V slot (O27; R62 to R65, R185, R186): what a
word decodes to, what an element-wise word of one, two or three sources gives, the rounded and selected elements, and
the statement assembled from them. -/

namespace Sys2Proof

/-! ## The words of format V-R (R62 to R65) -/

theorem VSrc.ofCode_code (a : VSrc) : VSrc.ofCode a.code = some a := by
  cases a with
  | v k | o k | q k => revert k; decide
  | lrl | zero | laneid => rfl

theorem VDst.ofCode_code (d : VDst) : VDst.ofCode d.code = some d := by
  cases d with
  | v k | o k | q k => revert k; decide
  | lrl => rfl

theorem bit1_ofBit (b : Bool) : bit1 (ofBit b) = b := by
  cases b <;> rfl

theorem toNat_ofBit (b : Bool) : (ofBit b).toNat = if b then 1 else 0 := by
  cases b <;> rfl

theorem toNat_fld (w : Word) (lo len : Nat) : (fld w lo len).toNat = w.toNat / 2 ^ lo % 2 ^ len := by
  rw [fld, BitVec.extractLsb'_toNat, Nat.shiftRight_eq_div_pow]

/-- A word in format V-R as the sum of its fields at their places. -/
theorem toNat_packVR (rl : BitVec 1) (op : BitVec 5) (fn : BitVec 4) (d a b : BitVec 6) (g : BitVec 4) :
    (packVR rl op fn d a b g).toNat = rl.toNat * 2 ^ 31 + op.toNat * 2 ^ 26 + fn.toNat * 2 ^ 22 + d.toNat * 2 ^ 16 +
      a.toNat * 2 ^ 10 + b.toNat * 2 ^ 4 + g.toNat := by
  have hop := op.isLt
  have hfn := fn.isLt
  have hd := d.isLt
  have ha := a.isLt
  have hb := b.isLt
  have hg := g.isLt
  simp only [packVR, BitVec.toNat_append]
  rw [← Nat.shiftLeft_add_eq_or_of_lt hop, ← Nat.shiftLeft_add_eq_or_of_lt hfn, ← Nat.shiftLeft_add_eq_or_of_lt hd,
    ← Nat.shiftLeft_add_eq_or_of_lt ha, ← Nat.shiftLeft_add_eq_or_of_lt hb, ← Nat.shiftLeft_add_eq_or_of_lt hg]
  simp only [Nat.shiftLeft_eq]
  omega

/-- The fields of a word in format V-R are what it was packed from. -/
theorem fld_packVR (rl : BitVec 1) (op : BitVec 5) (fn : BitVec 4) (d a b : BitVec 6) (g : BitVec 4) :
    let w := packVR rl op fn d a b g
    fld w 31 1 = rl ∧ fld w 26 5 = op ∧ fld w 22 4 = fn ∧ fld w 16 6 = d ∧ fld w 10 6 = a ∧ fld w 4 6 = b ∧
      fld w 0 4 = g := by
  have hrl := rl.isLt
  have hop := op.isLt
  have hfn := fn.isLt
  have hd := d.isLt
  have ha := a.isLt
  have hb := b.isLt
  have hg := g.isLt
  refine ⟨?_, ?_, ?_, ?_, ?_, ?_, ?_⟩ <;>
    (apply BitVec.eq_of_toNat_eq
     rw [toNat_fld, toNat_packVR]
     omega)

/-- The V words of a major opcode, relocatable or not, are read by the decoder of one family. -/
def ReadBy (rl : Bool) (major : Nat) (family : BitVec 4 → BitVec 6 → BitVec 6 → BitVec 6 → Guard → Option Instr) :
    Prop :=
  ∀ w : Word, fld w 26 5 = BitVec.ofNat 5 major → fld w 31 1 = ofBit rl →
    parseV w = family (fld w 22 4) (fld w 16 6) (fld w 10 6) (fld w 4 6) (fld w 0 4)

theorem readBy_float (rl : Bool) :
    ReadBy rl 1 (decodeVF32 rl) ∧ ReadBy rl 2 (decodeVBf16 rl) ∧ ReadBy rl 3 (decodeVF16 rl) ∧
      ReadBy rl 4 (decodeVFma rl) ∧ ReadBy rl 5 (decodeVFmaHalf rl) := by
  refine ⟨?_, ?_, ?_, ?_, ?_⟩ <;>
    (intro w hop hrl
     rw [parseV, hop, hrl, bit1_ofBit]
     rfl)

theorem vForm3_code (k : VDst → VSrc → VSrc → Instr) (d : VDst) (a b : VSrc) :
    vForm3 k d.code a.code b.code = some (k d a b) := by
  rw [vForm3, d.ofCode_code, a.ofCode_code, b.ofCode_code]
  rfl

theorem vForm2_code (k : VDst → VSrc → Instr) (d : VDst) (a : VSrc) : vForm2 k d.code a.code 0 = some (k d a) := by
  rw [vForm2, d.ofCode_code, a.ofCode_code]
  rfl

section
variable {i : Instr} {rl : Bool} {major fn : Nat} {d : VDst} {a b : VSrc} {g : Guard}
  {family : BitVec 4 → BitVec 6 → BitVec 6 → BitVec 6 → Guard → Option Instr}

/-- A word packed from fields that the family reads as an instruction decodes to it. -/
theorem codedV_of_readBy {one : Bool} {db ab bb : BitVec 6} (hread : ReadBy rl major family)
    (hi : family (BitVec.ofNat 4 fn) db ab bb g = some i) (hb : one = true → bb = 0) (hmajor : major < 32)
    (hfn : fn < 16) : CodedV i rl one major fn := by
  intro hwf
  obtain ⟨hrl, hop, hf, hd, ha, hbb, hg⟩ := fld_packVR (ofBit rl) (BitVec.ofNat 5 major) (BitVec.ofNat 4 fn) db ab bb g
  generalize packVR (ofBit rl) (BitVec.ofNat 5 major) (BitVec.ofNat 4 fn) db ab bb g = w at hrl hop hf hd ha hbb hg
  have hparse := hread w hop hrl
  rw [hf, hd, ha, hbb, hg, hi] at hparse
  have hrl' := congrArg BitVec.toNat hrl
  have hop' := congrArg BitVec.toNat hop
  have hf' := congrArg BitVec.toNat hf
  have hbb' := congrArg BitVec.toNat hbb
  rw [toNat_fld] at hrl' hop' hf' hbb'
  rw [toNat_ofBit] at hrl'
  rw [BitVec.toNat_ofNat] at hop' hf'
  refine ⟨w, ?_, ?_, ?_, fun h => ?_⟩
  · rw [decode, parse, hparse]
    exact if_pos hwf
  · have hw := w.isLt
    cases rl <;> simp only [Bool.false_eq_true, ↓reduceIte] at hrl' ⊢ <;> omega
  · omega
  · exact hbb'.trans (congrArg BitVec.toNat (hb h))

/-- The word of a three-operand form. -/
theorem codedV_vForm3 {k : VDst → VSrc → VSrc → Instr} (hread : ReadBy rl major family)
    (hform : family (BitVec.ofNat 4 fn) d.code a.code b.code g = vForm3 k d.code a.code b.code) (hi : k d a b = i)
    (hmajor : major < 32 := by decide) (hfn : fn < 16 := by decide) : CodedV i rl false major fn :=
  codedV_of_readBy hread (hform.trans (hi ▸ vForm3_code k d a b)) (fun h => nomatch h) hmajor hfn

/-- The word of a two-operand form. -/
theorem codedV_vForm2 {k : VDst → VSrc → Instr} (hread : ReadBy rl major family)
    (hform : family (BitVec.ofNat 4 fn) d.code a.code 0 g = vForm2 k d.code a.code 0) (hi : k d a = i)
    (hmajor : major < 32 := by decide) (hfn : fn < 16 := by decide) : CodedV i rl true major fn :=
  codedV_of_readBy hread (hform.trans (hi ▸ vForm2_code k d a)) (fun _ => rfl) hmajor hfn

end

end Sys2Proof

namespace Sys2Proof.Machine

/-! ## Words that compute one result from their sources -/

section
variable {i : Instr} {g : Guard} {d : VDst} {a b : VSrc} {s : State} {P : (Nat → VReg) → VReg → Flags → Prop}

theorem vecRuns_vec1 {f : VReg → VReg × Flags} (hi : exec i s = vec1 i d a g f s)
    (hP : ∀ v : Nat → VReg, P v (f (v 0)).1 (vectorFlags (f (v 0)).2)) : VecRuns i g d [a] s P :=
  vecRuns_vecOp hi fun vs _ => hP fun n => vs.getD n 0

theorem vecRuns_vec2 {f : VReg → VReg → VReg × Flags} (hi : exec i s = vec2 i d a b g f s)
    (hP : ∀ v : Nat → VReg, P v (f (v 0) (v 1)).1 (vectorFlags (f (v 0) (v 1)).2)) : VecRuns i g d [a, b] s P :=
  vecRuns_vecOp hi fun vs _ => hP fun n => vs.getD n 0

theorem vecRuns_vec3 {f : VReg → VReg → VReg → VReg × Flags} (hi : exec i s = vec3 i d a b g f s)
    (hP : ∀ v : Nat → VReg, P v (f (v 0) (v 1) (v 2)).1 (vectorFlags (f (v 0) (v 1) (v 2)).2)) :
    VecRuns i g d [a, b, dstSrc d] s P :=
  vecRuns_vecOp hi fun vs _ => hP fun n => vs.getD n 0

end

/-! ## Rounded and selected elements (R185, R186) -/

theorem elemN_lt (w : Nat) (v : VReg) (n : Nat) : elemN w v n < 2 ^ w :=
  Nat.mod_lt _ (Nat.two_pow_pos w)

theorem sumF_lt (f : FFmt) (ts : List Val) : (sumF f ts).1 < 2 ^ f.width :=
  convF_lt f .rne (sumV ts).1

theorem nanBits_lt (f : FFmt) : f.nanBits < 2 ^ f.width :=
  convF_lt f .rne .nan

theorem mulF_lt (f : FFmt) (x y : Val) : (mulF f x y).1 < 2 ^ f.width := by
  unfold mulF
  split
  · exact nanBits_lt f
  · exact convF_lt f .rne _

theorem fmaF_lt (f : FFmt) (np na : Bool) (x y z : Val) : (fmaF f np na x y z).1 < 2 ^ f.width := by
  unfold fmaF
  split
  · exact nanBits_lt f
  · split
    · exact nanBits_lt f
    · exact sumF_lt f _

theorem totalMax_lt {w x y : Nat} (hx : x < 2 ^ w) (hy : y < 2 ^ w) : totalMax w x y < 2 ^ w := by
  unfold totalMax; split <;> assumption

theorem totalMin_lt {w x y : Nat} (hx : x < 2 ^ w) (hy : y < 2 ^ w) : totalMin w x y < 2 ^ w := by
  unfold totalMin; split <;> assumption

/-- A bit above a number is added to it by an exclusive or. -/
theorem xor_two_pow_of_lt {x k : Nat} (h : x < 2 ^ k) : x ^^^ 2 ^ k = x + 2 ^ k := by
  rw [Nat.add_comm]
  apply Nat.eq_of_testBit_eq
  intro j
  rw [Nat.testBit_xor, Nat.testBit_two_pow]
  rcases Nat.lt_trichotomy j k with hj | rfl | hj
  · rw [Nat.testBit_two_pow_add_gt hj, decide_eq_false (by omega), Bool.xor_false]
  · rw [Nat.testBit_two_pow_add_eq, decide_eq_true rfl, Bool.xor_true]
  · have hpow : 2 ^ k * 2 ≤ 2 ^ j := by rw [← Nat.pow_succ]; exact Nat.pow_le_pow_right (by decide) hj
    rw [Nat.testBit_lt_two_pow (x := x) (by omega), Nat.testBit_lt_two_pow (x := 2 ^ k + x) (by omega),
      decide_eq_false (by omega), Bool.xor_false]

/-- The inverted sign bit of an element. -/
theorem xor_half {w x : Nat} (hw : 0 < w) (hx : x < 2 ^ w) :
    x ^^^ 2 ^ (w - 1) = if x < 2 ^ (w - 1) then x + 2 ^ (w - 1) else x - 2 ^ (w - 1) := by
  have hpow : 2 ^ w = 2 ^ (w - 1) * 2 := by rw [← Nat.pow_succ, Nat.succ_eq_add_one, Nat.sub_add_cancel hw]
  split
  case isTrue h => exact xor_two_pow_of_lt h
  case isFalse h =>
    have hlow := xor_two_pow_of_lt (show x - 2 ^ (w - 1) < 2 ^ (w - 1) by omega)
    rw [Nat.sub_add_cancel (by omega)] at hlow
    rw [← hlow, Nat.xor_assoc, Nat.xor_self, Nat.xor_zero, hlow]

section
variable (f : FFmt) (a b c : VReg)

theorem elementwise_laneAdd :
    Elementwise f.width (fun n => sumF f [decF f (elemN f.width a n), decF f (elemN f.width b n)])
      (laneAdd f a b).1 (vectorFlags (laneAdd f a b).2) :=
  elementwise_ofResults _ _ (Nat.mul_div_le _ _) fun _ _ => sumF_lt f _

theorem elementwise_laneSub :
    Elementwise f.width (fun n => sumF f [decF f (elemN f.width a n), (decF f (elemN f.width b n)).neg])
      (laneSub f a b).1 (vectorFlags (laneSub f a b).2) :=
  elementwise_ofResults _ _ (Nat.mul_div_le _ _) fun _ _ => sumF_lt f _

theorem elementwise_laneMul :
    Elementwise f.width (fun n => mulF f (decF f (elemN f.width a n)) (decF f (elemN f.width b n)))
      (laneMul f a b).1 (vectorFlags (laneMul f a b).2) :=
  elementwise_ofResults _ _ (Nat.mul_div_le _ _) fun _ _ => mulF_lt f _ _

theorem elementwise_laneMax :
    Elementwise f.width (fun n => (totalMax f.width (elemN f.width a n) (elemN f.width b n), 0))
      (laneMax f a b).1 (vectorFlags (laneMax f a b).2) :=
  elementwise_ofResults _ _ (Nat.mul_div_le _ _) fun _ _ => totalMax_lt (elemN_lt _ _ _) (elemN_lt _ _ _)

theorem elementwise_laneMin :
    Elementwise f.width (fun n => (totalMin f.width (elemN f.width a n) (elemN f.width b n), 0))
      (laneMin f a b).1 (vectorFlags (laneMin f a b).2) :=
  elementwise_ofResults _ _ (Nat.mul_div_le _ _) fun _ _ => totalMin_lt (elemN_lt _ _ _) (elemN_lt _ _ _)

theorem elementwise_laneAbs :
    Elementwise f.width (fun n => (elemN f.width a n % 2 ^ (f.width - 1), 0))
      (laneAbs f a).1 (vectorFlags (laneAbs f a).2) :=
  elementwise_ofResults _ _ (Nat.mul_div_le _ _) fun _ _ => (Nat.mod_le _ _).trans_lt (elemN_lt _ _ _)

theorem elementwise_laneNeg :
    Elementwise f.width (fun n =>
        (if elemN f.width a n < 2 ^ (f.width - 1) then elemN f.width a n + 2 ^ (f.width - 1)
          else elemN f.width a n - 2 ^ (f.width - 1), 0))
      (laneNeg f a).1 (vectorFlags (laneNeg f a).2) := by
  have hw : 0 < f.width := by cases f <;> decide
  have hneg := fun n => xor_half hw (elemN_lt f.width a n)
  have hhalf : 2 ^ (f.width - 1) < 2 ^ f.width := Nat.pow_lt_pow_right (by decide) (by omega)
  simp only [← hneg]
  exact elementwise_ofResults _ _ (Nat.mul_div_le _ _) fun _ _ => Nat.xor_lt_two_pow (elemN_lt _ _ _) hhalf

theorem elementwise_laneFma (np na : Bool) :
    Elementwise f.width (fun n => fmaF f np na (decF f (elemN f.width a n)) (decF f (elemN f.width b n))
        (decF f (elemN f.width c n)))
      (laneFma f np na a b c).1 (vectorFlags (laneFma f np na a b c).2) :=
  elementwise_ofResults _ _ (Nat.mul_div_le _ _) fun _ _ => fmaF_lt f np na _ _ _

end

/-! ## The table -/

/-- Settles O27, a line of the table at a time: its word is read by its major's family, and its meaning is the lane
function of its format. -/
theorem vectorFloatWords : Obligations.VectorFloatWords := by
  intro rl d a b g s two one fused adds subs muls greater lesser half clears inverts
  obtain ⟨f32, bf16, f16, fma, fmaHalf⟩ := readBy_float rl
  exact ⟨
    ⟨codedV_vForm3 f32 rfl rfl, vecRuns_vec2 rfl fun v => elementwise_laneAdd .f32 (v 0) (v 1)⟩,
    ⟨codedV_vForm3 f32 rfl rfl, vecRuns_vec2 rfl fun v => elementwise_laneSub .f32 (v 0) (v 1)⟩,
    ⟨codedV_vForm3 f32 rfl rfl, vecRuns_vec2 rfl fun v => elementwise_laneMul .f32 (v 0) (v 1)⟩,
    ⟨codedV_vForm3 f32 rfl rfl, vecRuns_vec2 rfl fun v => elementwise_laneMax .f32 (v 0) (v 1)⟩,
    ⟨codedV_vForm3 f32 rfl rfl, vecRuns_vec2 rfl fun v => elementwise_laneMin .f32 (v 0) (v 1)⟩,
    ⟨codedV_vForm2 f32 rfl rfl, vecRuns_vec1 rfl fun v => elementwise_laneAbs .f32 (v 0)⟩,
    ⟨codedV_vForm2 f32 rfl rfl, vecRuns_vec1 rfl fun v => elementwise_laneNeg .f32 (v 0)⟩,
    ⟨codedV_vForm3 fma rfl rfl, vecRuns_vec3 rfl fun v => elementwise_laneFma .f32 (v 0) (v 1) (v 2) false false⟩,
    ⟨codedV_vForm3 fma rfl rfl, vecRuns_vec3 rfl fun v => elementwise_laneFma .f32 (v 0) (v 1) (v 2) false true⟩,
    ⟨codedV_vForm3 fma rfl rfl, vecRuns_vec3 rfl fun v => elementwise_laneFma .f32 (v 0) (v 1) (v 2) true true⟩,
    ⟨codedV_vForm3 fma rfl rfl, vecRuns_vec3 rfl fun v => elementwise_laneFma .f32 (v 0) (v 1) (v 2) true false⟩,
    ⟨codedV_vForm3 bf16 rfl rfl, vecRuns_vec2 rfl fun v => elementwise_laneAdd .bf16 (v 0) (v 1)⟩,
    ⟨codedV_vForm3 bf16 rfl rfl, vecRuns_vec2 rfl fun v => elementwise_laneSub .bf16 (v 0) (v 1)⟩,
    ⟨codedV_vForm3 bf16 rfl rfl, vecRuns_vec2 rfl fun v => elementwise_laneMul .bf16 (v 0) (v 1)⟩,
    ⟨codedV_vForm3 bf16 rfl rfl, vecRuns_vec2 rfl fun v => elementwise_laneMax .bf16 (v 0) (v 1)⟩,
    ⟨codedV_vForm3 bf16 rfl rfl, vecRuns_vec2 rfl fun v => elementwise_laneMin .bf16 (v 0) (v 1)⟩,
    ⟨codedV_vForm2 bf16 rfl rfl, vecRuns_vec1 rfl fun v => elementwise_laneAbs .bf16 (v 0)⟩,
    ⟨codedV_vForm2 bf16 rfl rfl, vecRuns_vec1 rfl fun v => elementwise_laneNeg .bf16 (v 0)⟩,
    ⟨codedV_vForm3 fmaHalf rfl rfl, vecRuns_vec3 rfl fun v => elementwise_laneFma .bf16 (v 0) (v 1) (v 2) false false⟩,
    ⟨codedV_vForm3 fmaHalf rfl rfl, vecRuns_vec3 rfl fun v => elementwise_laneFma .bf16 (v 0) (v 1) (v 2) false true⟩,
    ⟨codedV_vForm3 fmaHalf rfl rfl, vecRuns_vec3 rfl fun v => elementwise_laneFma .bf16 (v 0) (v 1) (v 2) true true⟩,
    ⟨codedV_vForm3 fmaHalf rfl rfl, vecRuns_vec3 rfl fun v => elementwise_laneFma .bf16 (v 0) (v 1) (v 2) true false⟩,
    ⟨codedV_vForm3 f16 rfl rfl, vecRuns_vec2 rfl fun v => elementwise_laneAdd .f16 (v 0) (v 1)⟩,
    ⟨codedV_vForm3 f16 rfl rfl, vecRuns_vec2 rfl fun v => elementwise_laneSub .f16 (v 0) (v 1)⟩,
    ⟨codedV_vForm3 f16 rfl rfl, vecRuns_vec2 rfl fun v => elementwise_laneMul .f16 (v 0) (v 1)⟩,
    ⟨codedV_vForm3 f16 rfl rfl, vecRuns_vec2 rfl fun v => elementwise_laneMax .f16 (v 0) (v 1)⟩,
    ⟨codedV_vForm3 f16 rfl rfl, vecRuns_vec2 rfl fun v => elementwise_laneMin .f16 (v 0) (v 1)⟩,
    ⟨codedV_vForm2 f16 rfl rfl, vecRuns_vec1 rfl fun v => elementwise_laneAbs .f16 (v 0)⟩,
    ⟨codedV_vForm2 f16 rfl rfl, vecRuns_vec1 rfl fun v => elementwise_laneNeg .f16 (v 0)⟩,
    ⟨codedV_vForm3 fmaHalf rfl rfl, vecRuns_vec3 rfl fun v => elementwise_laneFma .f16 (v 0) (v 1) (v 2) false false⟩,
    ⟨codedV_vForm3 fmaHalf rfl rfl, vecRuns_vec3 rfl fun v => elementwise_laneFma .f16 (v 0) (v 1) (v 2) false true⟩,
    ⟨codedV_vForm3 fmaHalf rfl rfl, vecRuns_vec3 rfl fun v => elementwise_laneFma .f16 (v 0) (v 1) (v 2) true true⟩,
    ⟨codedV_vForm3 fmaHalf rfl rfl, vecRuns_vec3 rfl fun v => elementwise_laneFma .f16 (v 0) (v 1) (v 2) true false⟩⟩

end Sys2Proof.Machine
end

section
/-! PROOFS. The integer, logic, compare and select words of the V slot (O28; R187 to R190): elements that raise nothing
or saturate, the lanes of a register built from words, and the statement assembled from them. -/

namespace Sys2Proof

theorem readBy_integer (rl : Bool) :
    ReadBy rl 6 (decodeVI32 rl) ∧ ReadBy rl 7 (decodeVI16 rl) ∧ ReadBy rl 8 (decodeVLogic rl) ∧
      ReadBy rl 9 (decodeVCompare rl) ∧ ReadBy rl 10 (decodeVSel rl) := by
  refine ⟨?_, ?_, ?_, ?_, ?_⟩ <;>
    (intro w hop hrl
     rw [parseV, hop, hrl, bit1_ofBit]
     rfl)

end Sys2Proof

namespace Sys2Proof.Machine

/-! ## Elements and flags of results -/

/-- An element of a register built from results. -/
theorem elemN_ofResults {w n : Nat} (f : Nat → Nat × Flags) (hn : n < 2048 / w) :
    elemN w (ofResults w ((List.range (2048 / w)).map f)).1 n = (f n).1 % 2 ^ w := by
  rw [ofResults, elemN_ofElems w n _ (by simpa using hn) (by simpa using Nat.mul_div_le 2048 w)]
  simp

/-- The flags of results that each raise the same or nothing. -/
theorem flags_ofResults {w : Nat} (f : Nat → Nat × Flags) (fl : Flags) (p : Nat → Prop) [DecidablePred p]
    [Decidable (∃ n < 2048 / w, p n)] (hf : ∀ n, (f n).2 = if p n then fl else 0) :
    (ofResults w ((List.range (2048 / w)).map f)).2 = if ∃ n < 2048 / w, p n then fl else 0 := by
  apply BitVec.eq_of_getLsbD_eq
  intro i _
  have hbit : ∀ (c : Prop) [Decidable c], (if c then fl else 0).getLsbD i = true ↔ c ∧ fl.getLsbD i = true := by
    intro c _; split <;> simp [*]
  rw [Bool.eq_iff_iff, ofResults, getLsbD_orFlags, hbit]
  simp only [List.mem_map, List.mem_range, exists_exists_and_eq_and, hf, hbit]
  tauto

theorem vectorFlags_flagSAT : vectorFlags flagSAT = flagSAT := by decide

theorem vectorFlags_zero : vectorFlags 0 = 0 := by decide

/-- A register built from elements that raise nothing. -/
theorem quiet_ofResults (w : Nat) (f : Nat → Nat) :
    let r := ofResults w ((List.range (2048 / w)).map fun n => (f n, 0))
    vectorFlags r.2 = 0 ∧ ∀ n < 2048 / w, elemN w r.1 n = f n % 2 ^ w := by
  refine ⟨?_, fun n hn => elemN_ofResults _ hn⟩
  rw [flags_ofResults _ 0 (fun _ => False) fun _ => rfl, ite_self, vectorFlags_zero]

/-! ## Integers (R187) -/

theorem natCast_wrapI_mod (w : Nat) (x : Int) : ((wrapI w x % 2 ^ w : Nat) : Int) = x % 2 ^ w := by
  rw [Int.natCast_mod, wrapI, Int.toNat_of_nonneg (Int.emod_nonneg _ (by positivity))]
  push_cast
  exact Int.emod_emod_of_dvd x dvd_rfl

theorem signed_elemN (w : Nat) (v : VReg) (n : Nat) : signed w (elemN w v n) = sgn w (elemN w v n) := by
  rw [signed, Nat.mod_eq_of_lt (elemN_lt w v n)]

/-- A saturated integer is the nearest one in range, and SAT says that it is another (R187). -/
theorem satI_eq (w : Nat) (x : Int) :
    satI w x = (wrapI w (max (-2 ^ (w - 1)) (min (2 ^ (w - 1) - 1) x)),
      if x < -2 ^ (w - 1) ∨ 2 ^ (w - 1) - 1 < x then flagSAT else 0) := by
  have hpos : (0 : Int) < 2 ^ (w - 1) := by positivity
  simp only [satI, clampI, Nat.cast_pow, Nat.cast_ofNat]
  generalize (2 : Int) ^ (w - 1) = h at hpos
  split
  case isTrue hlo => rw [if_pos (.inl hlo), min_eq_right (by omega), max_eq_left (by omega)]
  case isFalse hlo =>
    split
    case isTrue hhi => rw [if_pos (.inr hhi), min_eq_left (by omega), max_eq_right (by omega)]
    case isFalse hhi => rw [if_neg (by omega), min_eq_right (by omega), max_eq_right (by omega)]

section
variable (w : Nat) (a b : VReg)

theorem laneInt2_elements (op : Int → Int → Int) :
    vectorFlags (laneInt2 w op a b).2 = 0 ∧ ∀ n < 2048 / w, (elemN w (laneInt2 w op a b).1 n : Int) =
      op (signed w (elemN w a n)) (signed w (elemN w b n)) % 2 ^ w := by
  obtain ⟨hfl, hel⟩ := quiet_ofResults w fun n => wrapI w (op (sgn w (elemN w a n)) (sgn w (elemN w b n)))
  refine ⟨hfl, fun n hn => ?_⟩
  rw [signed_elemN, signed_elemN, ← natCast_wrapI_mod, ← hel n hn]
  rfl

theorem laneInt1_elements (op : Int → Int) :
    vectorFlags (laneInt1 w op a).2 = 0 ∧ ∀ n < 2048 / w, (elemN w (laneInt1 w op a).1 n : Int) =
      op (signed w (elemN w a n)) % 2 ^ w := by
  obtain ⟨hfl, hel⟩ := quiet_ofResults w fun n => wrapI w (op (sgn w (elemN w a n)))
  refine ⟨hfl, fun n hn => ?_⟩
  rw [signed_elemN, ← natCast_wrapI_mod, ← hel n hn]
  rfl

theorem laneUns2_elements (op : Nat → Nat → Nat) (hop : ∀ x y, x < 2 ^ w → y < 2 ^ w → op x y < 2 ^ w) :
    vectorFlags (laneUns2 w op a b).2 = 0 ∧ ∀ n < 2048 / w, elemN w (laneUns2 w op a b).1 n =
      op (elemN w a n) (elemN w b n) := by
  obtain ⟨hfl, hel⟩ := quiet_ofResults w fun n => op (elemN w a n) (elemN w b n)
  exact ⟨hfl, fun n hn => (hel n hn).trans (Nat.mod_eq_of_lt (hop _ _ (elemN_lt _ _ _) (elemN_lt _ _ _)))⟩

theorem laneSat2_elements (op : Int → Int → Int) :
    let x := fun n => op (signed w (elemN w a n)) (signed w (elemN w b n))
    let lo : Int := -2 ^ (w - 1)
    let hi : Int := 2 ^ (w - 1) - 1
    (∀ n < 2048 / w, (elemN w (laneSat2 w op a b).1 n : Int) = max lo (min hi (x n)) % 2 ^ w) ∧
      vectorFlags (laneSat2 w op a b).2 = if ∃ n < 2048 / w, x n < lo ∨ hi < x n then flagSAT else 0 := by
  intro x lo hi
  have hlane : laneSat2 w op a b = ofResults w ((List.range (2048 / w)).map fun n =>
      (wrapI w (max lo (min hi (x n))), if x n < lo ∨ hi < x n then flagSAT else 0)) := by
    simp only [laneSat2, map2, satI_eq, x, signed_elemN, lo, hi]
  rw [hlane, flags_ofResults _ flagSAT (fun n => x n < lo ∨ hi < x n) fun _ => rfl]
  refine ⟨fun n hn => ?_, ?_⟩
  · rw [elemN_ofResults _ hn, natCast_wrapI_mod]
  · split
    · exact vectorFlags_flagSAT
    · exact vectorFlags_zero

end

/-! ## Words of the lanes (R188 to R190) -/

theorem elemN_mkLanes (f : Nat → Word) {i : Nat} (hi : i < 64) : elemN 32 (mkLanes f) i = (f i).toNat := by
  have hlen : i < (((List.range 64).map f).map BitVec.toNat).length := by simpa using hi
  rw [mkLanes, ofLanes, elemN_ofElems 32 i _ hlen (by simp), List.getElem_map, List.getElem_map, List.getElem_range,
    Nat.mod_eq_of_lt (f i).isLt]

theorem lane_mkLanes (f : Nat → Word) {i : Nat} (hi : i < 64) : lane (mkLanes f) i = f i := by
  rw [lane, elemN_mkLanes f hi, BitVec.ofNat_toNat, BitVec.setWidth_eq]

theorem lanes_mkLanes (f : Nat → Word) : Lanes f (mkLanes f) :=
  fun _ => lane_mkLanes f

section
variable {i : Instr} {g : Guard} {d : VDst} {a b : VSrc} {s : State} {Q : (Nat → VReg) → VReg → Prop}

/-- A word of one source that raises nothing. -/
theorem vecRuns_quiet1 {f : VReg → VReg} (hi : exec i s = vec1 i d a g (fun u => quiet (f u)) s)
    (hQ : ∀ v : Nat → VReg, Q v (f (v 0))) : VecRuns i g d [a] s fun v r fl => fl = 0 ∧ Q v r :=
  vecRuns_vec1 hi fun v => ⟨vectorFlags_zero, hQ v⟩

/-- A word of two sources that raises nothing. -/
theorem vecRuns_quiet2 {f : VReg → VReg → VReg} (hi : exec i s = vec2 i d a b g (fun u v => quiet (f u v)) s)
    (hQ : ∀ v : Nat → VReg, Q v (f (v 0) (v 1))) : VecRuns i g d [a, b] s fun v r fl => fl = 0 ∧ Q v r :=
  vecRuns_vec2 hi fun v => ⟨vectorFlags_zero, hQ v⟩

/-- A word of two sources that also reads its destination and raises nothing. -/
theorem vecRuns_quiet3 {f : VReg → VReg → VReg → VReg}
    (hi : exec i s = vec3 i d a b g (fun u v w => quiet (f u v w)) s)
    (hQ : ∀ v : Nat → VReg, Q v (f (v 0) (v 1) (v 2))) :
    VecRuns i g d [a, b, dstSrc d] s fun v r fl => fl = 0 ∧ Q v r :=
  vecRuns_vec3 hi fun v => ⟨vectorFlags_zero, hQ v⟩

/-- A lane-wise word of two sources. -/
theorem vecRuns_laneWord2 (op : Word → Word → Word) {f : Word → Word → Word}
    (hi : exec i s = vec2 i d a b g (fun u v => quiet (laneWord2 f u v)) s) (h : ∀ x y, f x y = op x y) :
    VecRuns i g d [a, b] s fun v r fl => fl = 0 ∧ Lanes (fun n => op (lane (v 0) n) (lane (v 1) n)) r := by
  simp only [← h]
  exact vecRuns_quiet2 hi fun _ => lanes_mkLanes _

/-- A compare writes all ones where its relation holds and zero where it does not (R189). -/
theorem vecRuns_maskOf {c : Word → Word → Bool} {rel : Word → Word → Prop}
    (hi : exec i s = vec2 i d a b g (fun u v => quiet (laneWord2 (fun x y => maskOf (c x y)) u v)) s)
    (h : ∀ x y, c x y = true ↔ rel x y) :
    VecRuns i g d [a, b] s fun v r fl => fl = 0 ∧ ∀ n < 64,
      (rel (lane (v 0) n) (lane (v 1) n) → lane r n = 0xFFFFFFFF) ∧
        (¬rel (lane (v 0) n) (lane (v 1) n) → lane r n = 0) := by
  refine vecRuns_quiet2 hi fun v n hn => ?_
  simp only [laneWord2, lane_mkLanes _ hn, ← h, maskOf]
  exact ⟨fun hc => if_pos hc, fun hc => if_neg hc⟩

end

theorem shl_eq_ofNat {w : Nat} (x : BitVec w) (n : Nat) : x <<< n = BitVec.ofNat w (x.toNat * 2 ^ n) :=
  BitVec.eq_of_toNat_eq (by rw [BitVec.toNat_shiftLeft, BitVec.toNat_ofNat, Nat.shiftLeft_eq])

theorem shr_eq_ofNat {w : Nat} (x : BitVec w) (n : Nat) : x >>> n = BitVec.ofNat w (x.toNat / 2 ^ n) := by
  rw [← Nat.shiftRight_eq_div_pow, ← BitVec.toNat_ushiftRight, BitVec.ofNat_toNat, BitVec.setWidth_eq]

theorem sra_eq_ofInt {w : Nat} (x : BitVec w) (n : Nat) : x.sshiftRight n = BitVec.ofInt w (x.toInt / 2 ^ n) := by
  rw [BitVec.sshiftRight, Int.shiftRight_eq_div_pow, Nat.cast_pow, Nat.cast_ofNat]

theorem feq_iff (x y : Word) :
    feq x y = true ↔ (f32V x).isNan = false ∧ (f32V y).isNan = false ∧ (f32V x).lt (f32V y) = false ∧
      (f32V y).lt (f32V x) = false := by
  simp only [feq, Val.eqv, Bool.and_eq_true, Bool.not_eq_true', and_assoc]

theorem not_feq_iff (x y : Word) :
    (!feq x y) = true ↔ ¬((f32V x).isNan = false ∧ (f32V y).isNan = false ∧ (f32V x).lt (f32V y) = false ∧
      (f32V y).lt (f32V x) = false) := by
  rw [← feq_iff, Bool.not_eq_true', Bool.not_eq_true]

theorem fle_iff (x y : Word) :
    fle x y = true ↔ (f32V x).lt (f32V y) = true ∨ ((f32V x).isNan = false ∧ (f32V y).isNan = false ∧
      (f32V x).lt (f32V y) = false ∧ (f32V y).lt (f32V x) = false) := by
  rw [← feq_iff, fle, Bool.or_eq_true, flt]

/-! ## The table -/

/-- Settles O28, a line of the table at a time: its word is read by its major's family, and its meaning is the lane
function of its width. -/
theorem vectorIntegerWords : Obligations.VectorIntegerWords := by
  intro rl d a b g s int2 int1 uns2 sat2 word2 test value isLess isEqual
  obtain ⟨i32, i16, logic, compare, select⟩ := readBy_integer rl
  have hmin : ∀ w x y : Nat, x < 2 ^ w → y < 2 ^ w → min x y < 2 ^ w := fun _ _ _ hx _ => min_lt_of_left_lt hx
  have hmax : ∀ w x y : Nat, x < 2 ^ w → y < 2 ^ w → max x y < 2 ^ w := fun _ _ _ => max_lt
  exact ⟨
    ⟨codedV_vForm3 i32 rfl rfl, vecRuns_vec2 rfl fun v => laneInt2_elements 32 (v 0) (v 1) (· + ·)⟩,
    ⟨codedV_vForm3 i32 rfl rfl, vecRuns_vec2 rfl fun v => laneInt2_elements 32 (v 0) (v 1) (· - ·)⟩,
    ⟨codedV_vForm3 i32 rfl rfl, vecRuns_vec2 rfl fun v => laneInt2_elements 32 (v 0) (v 1) (· * ·)⟩,
    ⟨codedV_vForm3 i32 rfl rfl,
      vecRuns_vec2 rfl fun v => laneInt2_elements 32 (v 0) (v 1) fun x y => x * y / 2 ^ 32⟩,
    ⟨codedV_vForm3 i32 rfl rfl, vecRuns_vec2 rfl fun v => laneInt2_elements 32 (v 0) (v 1) min⟩,
    ⟨codedV_vForm3 i32 rfl rfl, vecRuns_vec2 rfl fun v => laneInt2_elements 32 (v 0) (v 1) max⟩,
    ⟨codedV_vForm3 i32 rfl rfl, vecRuns_vec2 rfl fun v => laneUns2_elements 32 (v 0) (v 1) min (hmin 32)⟩,
    ⟨codedV_vForm3 i32 rfl rfl, vecRuns_vec2 rfl fun v => laneUns2_elements 32 (v 0) (v 1) max (hmax 32)⟩,
    ⟨codedV_vForm3 i32 rfl rfl, vecRuns_vec2 rfl fun v => laneSat2_elements 32 (v 0) (v 1) (· + ·)⟩,
    ⟨codedV_vForm3 i32 rfl rfl, vecRuns_vec2 rfl fun v => laneSat2_elements 32 (v 0) (v 1) (· - ·)⟩,
    ⟨codedV_vForm2 i32 rfl rfl, vecRuns_vec1 rfl fun v => laneInt1_elements 32 (v 0) fun x => x.natAbs⟩,
    ⟨codedV_vForm2 i32 rfl rfl, vecRuns_vec1 rfl fun v => laneInt1_elements 32 (v 0) fun x => -x⟩,
    ⟨codedV_vForm3 i16 rfl rfl, vecRuns_vec2 rfl fun v => laneInt2_elements 16 (v 0) (v 1) (· + ·)⟩,
    ⟨codedV_vForm3 i16 rfl rfl, vecRuns_vec2 rfl fun v => laneInt2_elements 16 (v 0) (v 1) (· - ·)⟩,
    ⟨codedV_vForm3 i16 rfl rfl, vecRuns_vec2 rfl fun v => laneInt2_elements 16 (v 0) (v 1) (· * ·)⟩,
    ⟨codedV_vForm3 i16 rfl rfl,
      vecRuns_vec2 rfl fun v => laneInt2_elements 16 (v 0) (v 1) fun x y => x * y / 2 ^ 16⟩,
    ⟨codedV_vForm3 i16 rfl rfl, vecRuns_vec2 rfl fun v => laneInt2_elements 16 (v 0) (v 1) min⟩,
    ⟨codedV_vForm3 i16 rfl rfl, vecRuns_vec2 rfl fun v => laneInt2_elements 16 (v 0) (v 1) max⟩,
    ⟨codedV_vForm3 i16 rfl rfl, vecRuns_vec2 rfl fun v => laneUns2_elements 16 (v 0) (v 1) min (hmin 16)⟩,
    ⟨codedV_vForm3 i16 rfl rfl, vecRuns_vec2 rfl fun v => laneUns2_elements 16 (v 0) (v 1) max (hmax 16)⟩,
    ⟨codedV_vForm3 i16 rfl rfl, vecRuns_vec2 rfl fun v => laneSat2_elements 16 (v 0) (v 1) (· + ·)⟩,
    ⟨codedV_vForm3 i16 rfl rfl, vecRuns_vec2 rfl fun v => laneSat2_elements 16 (v 0) (v 1) (· - ·)⟩,
    ⟨codedV_vForm2 i16 rfl rfl, vecRuns_vec1 rfl fun v => laneInt1_elements 16 (v 0) fun x => x.natAbs⟩,
    ⟨codedV_vForm2 i16 rfl rfl, vecRuns_vec1 rfl fun v => laneInt1_elements 16 (v 0) fun x => -x⟩,
    ⟨codedV_vForm3 logic rfl rfl, vecRuns_laneWord2 (· &&& ·) rfl fun _ _ => rfl⟩,
    ⟨codedV_vForm3 logic rfl rfl, vecRuns_laneWord2 (· ||| ·) rfl fun _ _ => rfl⟩,
    ⟨codedV_vForm3 logic rfl rfl, vecRuns_laneWord2 (· ^^^ ·) rfl fun _ _ => rfl⟩,
    ⟨codedV_vForm3 logic rfl rfl, vecRuns_laneWord2 (fun x y => x &&& ~~~y) rfl fun _ _ => rfl⟩,
    ⟨codedV_vForm3 logic rfl rfl,
      vecRuns_laneWord2 (fun x y => BitVec.ofNat 32 (x.toNat * 2 ^ (y.toNat % 32))) rfl fun x _ => shl_eq_ofNat x _⟩,
    ⟨codedV_vForm3 logic rfl rfl,
      vecRuns_laneWord2 (fun x y => BitVec.ofNat 32 (x.toNat / 2 ^ (y.toNat % 32))) rfl fun x _ => shr_eq_ofNat x _⟩,
    ⟨codedV_vForm3 logic rfl rfl,
      vecRuns_laneWord2 (fun x y => BitVec.ofInt 32 (x.toInt / 2 ^ (y.toNat % 32))) rfl fun x _ => sra_eq_ofInt x _⟩,
    codedV_vForm2 logic rfl rfl,
    vecRuns_quiet1 (f := fun u => laneWord2 (fun x _ => ~~~x) u u) rfl fun _ => lanes_mkLanes _,
    ⟨codedV_vForm3 compare rfl rfl, vecRuns_maskOf rfl feq_iff⟩,
    ⟨codedV_vForm3 compare rfl rfl, vecRuns_maskOf rfl not_feq_iff⟩,
    ⟨codedV_vForm3 compare rfl rfl, vecRuns_maskOf rfl fun _ _ => Iff.rfl⟩,
    ⟨codedV_vForm3 compare rfl rfl, vecRuns_maskOf rfl fle_iff⟩,
    ⟨codedV_vForm3 compare rfl rfl, vecRuns_maskOf rfl fun _ _ => beq_iff_eq⟩,
    ⟨codedV_vForm3 compare rfl rfl, vecRuns_maskOf rfl fun _ _ => bne_iff_ne⟩,
    ⟨codedV_vForm3 compare rfl rfl,
      vecRuns_maskOf (rel := fun x y => x.toInt < y.toInt) rfl fun _ _ => BitVec.slt_iff_toInt_lt⟩,
    ⟨codedV_vForm3 compare rfl rfl,
      vecRuns_maskOf (rel := fun x y => x.toInt ≤ y.toInt) rfl fun _ _ => BitVec.sle_iff_toInt_le⟩,
    ⟨codedV_vForm3 compare rfl rfl,
      vecRuns_maskOf (rel := fun x y => x.toNat < y.toNat) rfl fun _ _ => BitVec.ult_iff_toNat_lt⟩,
    ⟨codedV_vForm3 compare rfl rfl,
      vecRuns_maskOf (rel := fun x y => x.toNat ≤ y.toNat) rfl fun _ _ => BitVec.ule_iff_toNat_le⟩,
    codedV_vForm3 select rfl rfl,
    vecRuns_quiet3 (f := fun u v mask => laneSel mask u v) rfl fun _ => lanes_mkLanes _⟩

end Sys2Proof.Machine
end

section
/-! PROOFS. The reductions, permutes, `vmov` and `vimm` (O31; R195, R196, R197, R202): the words of the permutes, the
pairwise tree level by level, the halves of a lane, and the statement assembled from them. -/

namespace Sys2Proof

theorem readBy_reduce : ReadBy false 0xD decodeVReduce := by
  intro w hop hrl
  rw [parseV, hop, hrl, bit1_ofBit]
  rfl

theorem readBy_perm (rl : Bool) : ReadBy rl 0xE (decodeVPerm rl) := by
  intro w hop hrl
  rw [parseV, hop, hrl, bit1_ofBit]
  rfl

/-- The word of a form of two operands whose b field is a lane number. -/
theorem codedV_laneForm {i : Instr} {rl : Bool} {major fn : Nat} {d : VDst} {a : VSrc} {n : BitVec 6} {g : Guard}
    {family : BitVec 4 → BitVec 6 → BitVec 6 → BitVec 6 → Guard → Option Instr} {k : VDst → VSrc → Instr}
    (hread : ReadBy rl major family)
    (hform : family (BitVec.ofNat 4 fn) d.code a.code n g =
      (VDst.ofCode d.code).bind fun d => (VSrc.ofCode a.code).bind fun a => some (k d a)) (hi : k d a = i)
    (hmajor : major < 32 := by decide) (hfn : fn < 16 := by decide) : CodedV i rl false major fn := by
  rw [d.ofCode_code, a.ofCode_code, Option.bind_some, Option.bind_some, hi] at hform
  exact codedV_of_readBy hread hform (fun h => nomatch h) hmajor hfn

end Sys2Proof

namespace Sys2Proof.Machine

/-! ## The pairwise tree (R195) -/

/-- The node k of level l of the pairwise tree over the lanes of a register, with what it raises. -/
def treeNode (f : Nat → Nat → Nat × Flags) (a : VReg) : Nat → Nat → Nat × Flags
  | 0, k => (elemN 32 a k, 0)
  | l + 1, k => f (treeNode f a l (2 * k)).1 (treeNode f a l (2 * k + 1)).1

/-- Neighbours combined. -/
theorem pairUp_map_range (f : Nat → Nat → Nat × Flags) (m : Nat) (x : Nat → Nat) :
    pairUp f ((List.range (2 * m)).map x) = (List.range m).map fun k => f (x (2 * k)) (x (2 * k + 1)) := by
  induction m generalizing x with
  | zero => rfl
  | succ m ih =>
    have htail := ih fun k => x (k + 2)
    rw [Nat.mul_succ, List.range_succ_eq_map, List.range_succ_eq_map, List.range_succ_eq_map]
    simp only [List.map_cons, List.map_map, pairUp]
    exact congrArg _ htail

/-- The tree from a level on: its last value, and what its nodes raise. -/
theorem treeReduce_level (f : Nat → Nat → Nat × Flags) (a : VReg) (n l : Nat) (fl : Flags) :
    let r := treeReduce f n ((List.range (2 ^ n)).map fun k => (treeNode f a l k).1) fl
    r.1 = [(treeNode f a (l + n) 0).1] ∧ ∀ q, (r.2.getLsbD q = true ↔ fl.getLsbD q = true ∨
      ∃ j < n, ∃ k < 2 ^ (n - (j + 1)), (treeNode f a (l + (j + 1)) k).2.getLsbD q = true) := by
  induction n generalizing l fl with
  | zero => simp [treeReduce]
  | succ n ih =>
    have hlevel : pairUp f ((List.range (2 ^ (n + 1))).map fun k => (treeNode f a l k).1) =
        (List.range (2 ^ n)).map (treeNode f a (l + 1)) := by
      rw [Nat.pow_succ, Nat.mul_comm, pairUp_map_range]
      rfl
    obtain ⟨hval, hfl⟩ := ih (l + 1) (fl ||| orFlags ((List.range (2 ^ n)).map (treeNode f a (l + 1))))
    simp only [treeReduce, hlevel, List.map_map]
    refine ⟨?_, fun q => ?_⟩
    · rw [Nat.add_comm n 1, ← Nat.add_assoc]
      exact hval
    · refine (hfl q).trans ?_
      rw [BitVec.getLsbD_or, Bool.or_eq_true, getLsbD_orFlags, Nat.exists_lt_succ_left, or_assoc]
      simp only [List.mem_map, List.mem_range, exists_exists_and_eq_and, Nat.add_sub_add_right, Nat.add_assoc,
        Nat.add_comm 1, Nat.zero_add, Nat.add_sub_cancel]

/-- The values of the tree fit a lane. -/
theorem treeNode_lt {f : Nat → Nat → Nat × Flags} (hf : ∀ x y, x < 2 ^ 32 → y < 2 ^ 32 → (f x y).1 < 2 ^ 32)
    (a : VReg) (l k : Nat) : (treeNode f a l k).1 < 2 ^ 32 := by
  induction l generalizing k with
  | zero => exact elemN_lt 32 a k
  | succ l ih => exact hf _ _ (ih _) (ih _)

/-- A reduction writes the last value of its tree to every lane and raises what the nodes raise. -/
theorem laneReduce_tree {f : Nat → Nat → Nat × Flags} (hf : ∀ x y, x < 2 ^ 32 → y < 2 ^ 32 → (f x y).1 < 2 ^ 32)
    (a : VReg) :
    (∀ k < 64, elemN 32 (laneReduce f a).1 k = (treeNode f a 6 0).1) ∧
      ∀ q, ((laneReduce f a).2.getLsbD q = true ↔
        ∃ l < 6, ∃ k < 2 ^ (5 - l), (treeNode f a (l + 1) k).2.getLsbD q = true) := by
  have hlanes : (List.range 64).map (elemN 32 a) = (List.range (2 ^ 6)).map fun k => (treeNode f a 0 k).1 := rfl
  have htree := treeReduce_level f a 6 0 0
  rw [laneReduce, hlanes]
  generalize treeReduce f 6 ((List.range (2 ^ 6)).map fun k => (treeNode f a 0 k).1) 0 = r at htree ⊢
  obtain ⟨xs, fl⟩ := r
  obtain ⟨rfl, hfl⟩ := htree
  refine ⟨fun k hk => ?_, fun q => ?_⟩
  · refine (elemN_mkLanes _ hk).trans ?_
    rw [BitVec.toNat_ofNat]
    exact Nat.mod_eq_of_lt (treeNode_lt hf a 6 0)
  · simpa only [BitVec.ofNat_eq_ofNat, BitVec.getLsbD_zero, Bool.false_eq_true, false_or, Nat.reduceSubDiff,
      Nat.zero_add] using hfl q

theorem vecRuns_laneReduce {i : Instr} {g : Guard} {d : VDst} {a : VSrc} {s : State} {f : Nat → Nat → Nat × Flags}
    (op : Nat → Nat → Nat × Flags) (hi : exec i s = vec1 i d a g (laneReduce f) s)
    (hop : ∀ x y, x < 2 ^ 32 → y < 2 ^ 32 → f x y = op x y)
    (hlt : ∀ x y, x < 2 ^ 32 → y < 2 ^ 32 → (f x y).1 < 2 ^ 32) :
    VecRuns i g d [a] s fun v r fl => ∃ tree : Nat → Nat → Nat × Flags,
      (∀ k < 64, tree 0 k = (elemN 32 (v 0) k, 0)) ∧
      (∀ l < 6, ∀ k < 2 ^ (5 - l), tree (l + 1) k = op (tree l (2 * k)).1 (tree l (2 * k + 1)).1) ∧
      (∀ k < 64, elemN 32 r k = (tree 6 0).1) ∧
      ∀ q : Nat, q ≠ 1 →
        (fl.getLsbD q = true ↔ ∃ l < 6, ∃ k < 2 ^ (5 - l), (tree (l + 1) k).2.getLsbD q = true) := by
  refine vecRuns_vec1 hi fun v => ⟨treeNode f (v 0), fun _ _ => rfl, fun l _ k _ => ?_, ?_⟩
  · exact hop _ _ (treeNode_lt hlt _ _ _) (treeNode_lt hlt _ _ _)
  · obtain ⟨hval, hfl⟩ := laneReduce_tree hlt (v 0)
    exact ⟨hval, fun q hq => by rw [vectorFlags_getLsbD _ _ hq, hfl]⟩

theorem sgn_eq_signed {w x : Nat} (h : x < 2 ^ w) : sgn w x = signed w x := by
  rw [signed, Nat.mod_eq_of_lt h]

/-! ## The halves of a lane (R202) -/

/-- An element of 16 bits is a half of a lane. -/
theorem elemN_half (v : VReg) (j e : Nat) (he : e < 2) :
    elemN 16 v (2 * j + e) = elemN 32 v j / 2 ^ (16 * e) % 2 ^ 16 := by
  have hplace : 2 ^ (16 * (2 * j + e)) = 2 ^ (32 * j) * 2 ^ (16 * e) := by rw [← Nat.pow_add]; congr 1; omega
  rw [elemN, elemN, fieldNat, fieldNat, hplace, ← Nat.div_div_eq_div_mul]
  generalize v.toNat / 2 ^ (32 * j) = x
  rcases Nat.lt_succ_iff_lt_or_eq.mp he with h | rfl
  · obtain rfl := Nat.lt_one_iff.mp h
    omega
  · omega

theorem elemN_bcast_halves (imm : Half) {k : Nat} (hk : k < 128) : elemN 16 (bcast (imm ++ imm)) k = imm.toNat := by
  have himm := imm.isLt
  rw [← Nat.div_add_mod k 2, elemN_half _ _ _ (Nat.mod_lt k (by decide)), bcast, elemN_mkLanes _ (by omega),
    BitVec.toNat_append, ← Nat.shiftLeft_add_eq_or_of_lt himm, Nat.shiftLeft_eq]
  rcases Nat.mod_two_eq_zero_or_one k with h | h <;> rw [h, Nat.mul_comm imm.toNat]
  · rw [Nat.mul_zero, Nat.pow_zero, Nat.div_one, Nat.mul_add_mod, Nat.mod_eq_of_lt himm]
  · rw [Nat.mul_one, Nat.mul_add_div (by decide), Nat.div_eq_of_lt himm, Nat.add_zero, Nat.mod_eq_of_lt himm]

/-! ## The table -/

/-- Settles O31, a line at a time: a reduction by its tree, the others by the lanes that they build. -/
theorem vectorReductionsAndPermutes : Obligations.VectorReductionsAndPermutes := by
  intro rl d a b n g fmt imm g2 s reduces quiet1
  have perm := readBy_perm rl
  exact ⟨
    ⟨codedV_vForm2 readBy_reduce rfl rfl,
      vecRuns_laneReduce (fun x y => sumF .f32 [decF .f32 x, decF .f32 y]) rfl (fun _ _ _ _ => rfl)
        fun _ _ _ _ => sumF_lt .f32 _⟩,
    ⟨codedV_vForm2 readBy_reduce rfl rfl,
      vecRuns_laneReduce (fun x y => (totalMax 32 x y, 0)) rfl (fun _ _ _ _ => rfl) fun _ _ => totalMax_lt⟩,
    ⟨codedV_vForm2 readBy_reduce rfl rfl,
      vecRuns_laneReduce (fun x y => (totalMin 32 x y, 0)) rfl (fun _ _ _ _ => rfl) fun _ _ => totalMin_lt⟩,
    ⟨codedV_vForm2 readBy_reduce rfl rfl,
      vecRuns_laneReduce (fun x y => ((x + y) % 2 ^ 32, 0)) rfl (fun _ _ _ _ => rfl)
        fun _ _ _ _ => Nat.mod_lt _ (by decide)⟩,
    ⟨codedV_vForm2 readBy_reduce rfl rfl,
      vecRuns_laneReduce (fun x y => (if signed 32 x < signed 32 y then y else x, 0)) rfl
        (fun _ _ hx hy => by simp only [sgn_eq_signed hx, sgn_eq_signed hy])
        fun _ _ hx hy => by dsimp only; split <;> assumption⟩,
    ⟨codedV_vForm2 readBy_reduce rfl rfl,
      vecRuns_laneReduce (fun x y => (if signed 32 y < signed 32 x then y else x, 0)) rfl
        (fun _ _ hx hy => by simp only [sgn_eq_signed hx, sgn_eq_signed hy])
        fun _ _ hx hy => by dsimp only; split <;> assumption⟩,
    codedV_vForm3 perm rfl rfl,
    vecRuns_quiet2 (f := lanePerm) rfl fun _ => lanes_mkLanes _,
    codedV_laneForm perm rfl rfl,
    vecRuns_quiet1 (f := fun u => laneBcast u n.toNat) rfl fun _ => lanes_mkLanes _,
    codedV_laneForm perm rfl rfl,
    vecRuns_quiet1 (f := fun u => laneExt u n.toNat) rfl fun _ => lanes_mkLanes _,
    codedV_laneForm perm rfl rfl,
    vecRuns_quiet2 (f := fun u v => laneIns u v n.toNat) rfl fun _ => lanes_mkLanes _,
    vecRuns_quiet1 (f := id) rfl fun _ => rfl,
    vecRuns_vecOp rfl fun _ _ => ⟨vectorFlags_zero, fun _ => elemN_bcast_halves imm⟩⟩

end Sys2Proof.Machine
end
